-- ==== Sys2Proof/Word.lean ====
section
/-!
DEFINITION. The words of the machine (R5, R40, R41, R48).
-/
namespace Sys2Proof

/-- A scalar register, an address or a CSR as software reads it (R40, R56). -/
abbrev Word := BitVec 64

/-- One byte of memory, little-endian inside wider values (R5). -/
abbrev Byte := BitVec 8

/-- The data of one vector register: 512 bytes, byte 0 lowest (R41). -/
abbrev VData := BitVec 4096

/-- One mask register, bit i for element i (R48). -/
abbrev MData := BitVec 4096

/-- One row of a DRAM subarray: 8,192 columns (R3, R96). -/
abbrev RowData := BitVec 8192

end Sys2Proof
end

