-- ==== Sys2Proof/Config.lean ====
section
/-!
DEFINITION. What one implementation fixes, and the free values: what the spec leaves open is an opaque
constant without a body, applied to the counter `draws` of State, so that nothing can be proved of it.
-/
namespace Sys2Proof.Config

/-- DESIGN CHOICE (log 4), unsafe to lean on: the free row a destination of a detected plane error, of a
killed span or of t0 to t7 at the start of a swatch holds (R207, R218, R255): draw, row key. -/
opaque freeRow (draw key : Nat) : RowData

/-- Rounds that a standard form runs in a batch before its last (R213): the spec gives the swatches of some forms alone
(R220). Function, destination width. -/
opaque formRounds (function width : Nat) : Nat

/-- Free byte of a receive buffer of an aborted collective (R286): draw, offset. -/
opaque freeByte (draw offset : Nat) : Byte

/-- Free choice whether a discarded line reads as zero or as bytes it held before (R93): draw, line. -/
opaque discardKeeps (draw line : Nat) : Bool

/-- Free choice among what a byte of a discarded line held before the discard (R93): draw, key of the byte. -/
opaque discardPicks (draw key : Nat) : Nat

/-- Free choice between a changed entry and the one a TLB still holds, before TLBINV (R353): draw, address. -/
opaque usesCached (draw address : Nat) : Bool

/-- Free choice among the values that a fetched halfword has held since the launch started (R81): draw, key. -/
opaque fetchPicks (draw key : Nat) : Nat

/-- The reading of a sensor that no sample has given yet (R391): index. -/
opaque sensorBefore (index : Nat) : BitVec 64

/-- The feature bits 0 to 2 that a firmware image offers (R396): the version of the image. -/
opaque offered (version : Nat) : BitVec 3

/-- The message authentication code of an emergency-save trailer, 56 bytes as one number, a function of
the covered bytes under the per-boot key (R388). -/
opaque trailerMac (covered : List Byte) : BitVec 448

/-- The same code of a core's shared state (R388): the bytes of its parts of the save block that are not zero, by offset, and
the first bytes of the trailer. -/
opaque sharedMac (covered : List (Nat × Byte)) (head : List Byte) : BitVec 448

/-- What a read of a write-only register gives (R339, R354): the spec names no value. Draw. -/
opaque writeOnlyReads (draw : Nat) : BitVec 64

/-- The info of a guest that its watchdog ends (R319): the spec names its cause and no info. Draw. -/
opaque expiredInfo (draw : Nat) : BitVec 64

/-- Whether a fused multiply-add of zero and infinity sets NV beside a NaN addend: IEEE 754-2019, which
R70 names, leaves it to the implementation. -/
opaque fmaInvalid : Bool

/-- What of the SPDM answers of R395 depends on keys, certificates and digests held in fuses and flash, after the bytes that
are fixed: request code, argument, index of the answered byte. -/
opaque spdmByte (request argument index : Nat) : Byte

/-- How many such bytes an SPDM answer has (R395): request code, argument. -/
opaque spdmLength (request argument : Nat) : Nat

/-- Where M places the save area of a partition, in units of 8 MiB within the partition's own 64 GiB (R339, R397). -/
opaque savePlace (part : Nat) : BitVec 12

/-- The address of the queue headers that M gives a partition, in units of 8 KiB (R339, R397). -/
opaque queuePlace (part : Nat) : BitVec 40

/-- The address of the mailbox that M gives a partition, in units of 4 KiB (R365, R397). -/
opaque mailPlace (part : Nat) : BitVec 41

/-- The node of 64 KiB in the partition's first stack that M makes its empty root (R353, R397). -/
opaque rootPlace (part : Nat) : Nat

/-- The window of host addresses that a partition's function is granted, its base and its length (R346): no rule gives it. -/
opaque hostWindow (part : Nat) : BitVec 52 × BitVec 52

/-- The rail sensor of the 54 V input among indices 512 to 575 (R391, R392), less 512: the spec does not name it. -/
opaque supplyRail : BitVec 6

/-- A rail current is above its limit (R384): index, reading. The spec gives no limit. -/
opaque overCurrent (index : Nat) (reading : BitVec 64) : Bool

/-- One less than the lane groups of a core that limit 1 leaves (R384): the spec gives no number. Draw. -/
opaque limitedGroups (draw : Nat) : BitVec 3

end Sys2Proof.Config
end

