-- ==== Sys2Proof/Machine/Bits.lean ====
section
/-!
DEFINITION. Bit fields, sign extension, saturation and byte order (R5, R7, R60, R72).
Integers of the pseudocode are Nat or Int; a field is cut from a Nat.
-/
namespace Sys2Proof

/-- `bitsAt w lo n` is the field of `n` bits of `w` that starts at bit `lo` (R5). -/
def bitsAt (w lo n : Nat) : Nat := w / 2 ^ lo % 2 ^ n

/-- The field of `n` bits at `lo` as a bit vector (R5). -/
def fld (w lo n : Nat) : BitVec n := BitVec.ofNat n (w / 2 ^ lo)

/-- An `n`-bit pattern read as two's complement (R60). -/
def sintOf (n v : Nat) : Int :=
  if v % 2 ^ n < 2 ^ (n - 1) then (v % 2 ^ n : Nat) else (v % 2 ^ n : Nat) - (2 ^ n : Nat)

/-- The `n`-bit pattern of an integer, modulo 2^n (R72). -/
def wrapTo (n : Nat) (v : Int) : Nat := (v % (2 ^ n : Nat)).toNat

/-- `v` clamped to the signed range of `n` bits (R7, SatS). -/
def satS (n : Nat) (v : Int) : Int :=
  if v < -((2 ^ (n - 1) : Nat) : Int) then -((2 ^ (n - 1) : Nat) : Int)
  else if v > (2 ^ (n - 1) : Nat) - 1 then (2 ^ (n - 1) : Nat) - 1 else v

/-- `v` clamped to the unsigned range of `n` bits (R7, SatU). -/
def satU (n : Nat) (v : Int) : Int :=
  if v < 0 then 0 else if v > (2 ^ n : Nat) - 1 then (2 ^ n : Nat) - 1 else v

/-- The quotient rounded up; every count of groups, beats and subarrays is one of these. -/
def ceilDiv (a b : Nat) : Nat := (a + (b - 1)) / b

/-- A field sign-extended to 64 bits. -/
def sx (v : BitVec n) : Word := v.signExtend 64

/-- A field zero-extended to 64 bits. -/
def zx (v : BitVec n) : Word := v.setWidth 64

/-- The value of little-endian bytes (R5). -/
def leValue : List Byte → Nat
  | [] => 0
  | b :: bs => b.toNat + 256 * leValue bs

/-- The `n` little-endian bytes of a value (R5). -/
def leBytes : Nat → Nat → List Byte
  | 0, _ => []
  | n + 1, v => BitVec.ofNat 8 v :: leBytes n (v / 256)

end Sys2Proof
end

