-- ==== Sys2Proof/Messages.lean ====
section
/-!
DEFINITION. The data that a message from another agent carries: pushed register images, throws,
members of a collective, requests of peer modules. They are arguments of the events of Syntax.lean
and are kept in State while they wait.
-/
namespace Sys2Proof

/-- One register of a pushed group: bytes up to its high-water mark, and its tag (R260, R342). -/
structure VImage where
  data : VData
  fmt : BitVec 4
  width : BitVec 2
  hwm : Nat
deriving DecidableEq, Repr

/-- A throw or forward on its way to its home vault (R279, R280, R373). `kept`: a forward that stays at the home
its thread threw to, so that the thread's next throw there waits for its reply (R33). -/
structure ThrowMsg where
  forwarded : Bool
  kept : Bool
  scope : BitVec 3
  budget : Nat
  thrower : Word
  ticket : Word
  target : Word
  entry : Word
  payload : List Word
  homeStack : Nat
  homeVault : Nat
  partition : Nat
deriving DecidableEq, Repr

/-- A throw message as it arrives: from another vault of this module, or from another module with the home name that its
bytes 32 to 39 hold (R373). -/
structure ThrowArrival where
  msg : ThrowMsg
  home : Option Nat
deriving DecidableEq, Repr

/-- What one member brings to a collective, or that it has aborted it (R284 to R286). -/
structure CollMember where
  team : Nat
  seq : Nat
  rank : Nat
  kind : Nat
  op : Nat
  esz : Nat
  n : Nat
  p : Nat
  scope : Nat
  entries : List Nat
  send : List Byte
  aborted : Bool
deriving DecidableEq, Repr

/-- The read-modify-write operations of scalar and vector atomics (R158, R159, R195). -/
inductive AtomOp where
  | swap | add | and | or | xor | min | max | minu | maxu
deriving DecidableEq, Repr

/-- The operators of reduce-on-write (R198). -/
inductive RedOp where
  | add | max | min | expsum
deriving DecidableEq, Repr

/-- What a peer module asks of this one (R370). -/
inductive PeerOp where
  | read
  | write
  | atomic (op : AtomOp)
  | cas (expected : Nat)
  | reduce (op : RedOp) (fmt : BitVec 4)
  | watch
deriving DecidableEq, Repr

/-- Which unit detected an error: one of a core, a vault unit, carriage or mesh link, or one of an I/O die with the partitions
that it serves (R300, R393). -/
inductive ErrorSource where
  | core
  | vault
  | io (serves : List Nat)
deriving DecidableEq, Repr

/-- Where an error was detected: the place number of its record, and the unit that detected it (R300, R381). -/
structure ErrorPlace where
  number : Nat
  source : ErrorSource
deriving DecidableEq, Repr

/-- An access that fails on a link: its address, and the port of the link (R372, R381). -/
structure LinkAccess where
  addr : Word
  port : Nat
deriving DecidableEq, Repr

/-- What a sampling brings: the reading of each sensor, and the coolant's inlet temperature and flow (R391, R392). -/
structure SensorSamples where
  readings : List Word
  inlet : Int
  flow : Int
deriving DecidableEq, Repr

/-- What the fabric manager calls a module: its number in the domain and its PBR identifier (R369). -/
structure ModuleName where
  number : Nat
  pbr : Nat
deriving DecidableEq, Repr

/-- A peer access as it arrives: the module that asks, the paired partition, the name, the size and the operand (R370). -/
structure PeerReq where
  module : Nat
  part : Nat
  stack : Nat
  name : Nat
  size : Nat
  value : Nat
  op : PeerOp
deriving DecidableEq, Repr

end Sys2Proof
end

