-- ==== Sys2Proof/Machine/Cells.lean ====
section
/-!
DEFINITION. Sparse stores in one canonical form (memory, rows, tags) and slices of wide bit vectors.
A store lists pairs with strictly rising keys and no entry equal to what an unlisted key reads as.
-/
namespace Sys2Proof.Machine

/-- The value at a key; `d` where the key is unlisted. -/
def cellGet (d : α) (l : List (Nat × α)) (k : Nat) : α :=
  match l with
  | [] => d
  | p :: t => if p.1 == k then p.2 else cellGet d t k

/-- The store without the key. -/
def cellErase (k : Nat) (l : List (Nat × α)) : List (Nat × α) := l.filter fun p => p.1 != k

/-- A pair put before the first larger key. -/
def cellInsert (k : Nat) (v : α) : List (Nat × α) → List (Nat × α)
  | [] => [(k, v)]
  | p :: t => if k < p.1 then (k, v) :: p :: t else p :: cellInsert k v t

/-- The store with `v` at the key: writing what an unlisted key reads as removes the entry. -/
def cellPut [DecidableEq α] (d : α) (l : List (Nat × α)) (k : Nat) (v : α) : List (Nat × α) :=
  if v = d then cellErase k l else cellInsert k v (cellErase k l)

/-- Keys strictly rising from `lo`, no entry equal to `d`: the canonical form. -/
def cellsFrom [DecidableEq α] (d : α) : Nat → List (Nat × α) → Bool
  | _, [] => true
  | lo, p :: t => lo ≤ p.1 && p.2 != d && cellsFrom d (p.1 + 1) t

/-- The canonical form of a store. -/
def cellsWf [DecidableEq α] (d : α) (l : List (Nat × α)) : Bool := cellsFrom d 0 l

/-- A set of numbers, rising: membership, adding and taking away. -/
def setHas (l : List Nat) (n : Nat) : Bool := l.contains n

/-- The set with `n`. -/
def setAdd (n : Nat) : List Nat → List Nat
  | [] => [n]
  | m :: t => if n < m then n :: m :: t else if n = m then m :: t else m :: setAdd n t

/-- The set without `n`. -/
def setDrop (l : List Nat) (n : Nat) : List Nat := l.filter fun m => m != n

/-- The `len` bits of `w` from bit `lo`, as a number. -/
def slice (w : BitVec n) (lo len : Nat) : Nat := w.toNat / 2 ^ lo % 2 ^ len

/-- `w` with its `len` bits from bit `lo` replaced by the low bits of `v`. -/
def splice (w : BitVec n) (lo len v : Nat) : BitVec n :=
  (w &&& ~~~(BitVec.ofNat n ((2 ^ len - 1) * 2 ^ lo))) ||| BitVec.ofNat n (v % 2 ^ len * 2 ^ lo)

/-- The low `len` bits of `w`, the rest zero. -/
def keepLow (w : BitVec n) (len : Nat) : BitVec n := BitVec.ofNat n (w.toNat % 2 ^ len)

/-- Bit `i` of a mask or row. -/
def bitOf (w : BitVec n) (i : Nat) : Bool := w.toNat / 2 ^ i % 2 == 1

/-- 1 for true. -/
def natOf (b : Bool) : Nat := if b then 1 else 0

/-- `n` consecutive numbers from `lo`. -/
def span (lo n : Nat) : List Nat := (List.range n).map (lo + ·)

end Sys2Proof.Machine
end

