-- ==== Sys2Proof/Syntax.lean ====
section
/-!
DEFINITION. The ONE instruction type: a constructor for each of the 465 rows of spec/opcode_table.json.
The first 373 are instructions with an encoding (R126 to R133); their arguments are the fields of the
encoding, each a bit vector of the field's width. A split immediate of formats S and B is one field of
12 bits. Field names are the table's letters, with s written sc and i written im.
The last 92 are the part's other steps (spec/95_what_each_step_holds.md): events without encoding that
another agent or an autonomous unit makes. Their arguments are the event's inputs: a context number c
(0 and 1 needles by tile slot, 2 to 9 stitches by context slot, 10 and 11 guests), a slot or unit
number, or the data that arrives.
-/
namespace Sys2Proof

/-- One step of the machine as the opcode table lists them. -/
inductive Instr where
  | add (d a b : BitVec 5)
  | sub (d a b : BitVec 5)
  | and (d a b : BitVec 5)
  | or (d a b : BitVec 5)
  | xor (d a b : BitVec 5)
  | sll (d a b : BitVec 5)
  | srl (d a b : BitVec 5)
  | sra (d a b : BitVec 5)
  | slt (d a b : BitVec 5)
  | sltu (d a b : BitVec 5)
  | min (d a b : BitVec 5)
  | max (d a b : BitVec 5)
  | minu (d a b : BitVec 5)
  | maxu (d a b : BitVec 5)
  | andn (d a b : BitVec 5)
  | orn (d a b : BitVec 5)
  | mul (d a b : BitVec 5)
  | mulh (d a b : BitVec 5)
  | mulhu (d a b : BitVec 5)
  | mulhsu (d a b : BitVec 5)
  | div (d a b : BitVec 5)
  | divu (d a b : BitVec 5)
  | rem (d a b : BitVec 5)
  | remu (d a b : BitVec 5)
  | clz (d a : BitVec 5)
  | ctz (d a : BitVec 5)
  | popc (d a : BitVec 5)
  | rol (d a b : BitVec 5)
  | ror (d a b : BitVec 5)
  | addi (d a : BitVec 5) (im : BitVec 12)
  | andi (d a : BitVec 5) (im : BitVec 12)
  | ori (d a : BitVec 5) (im : BitVec 12)
  | xori (d a : BitVec 5) (im : BitVec 12)
  | slti (d a : BitVec 5) (im : BitVec 12)
  | slli (d a : BitVec 5) (h : BitVec 6)
  | srli (d a : BitVec 5) (h : BitVec 6)
  | srai (d a : BitVec 5) (h : BitVec 6)
  | lih (d : BitVec 5) (im : BitVec 19)
  | addpc (d : BitVec 5) (im : BitVec 19)
  | lb (d a : BitVec 5) (im : BitVec 12)
  | lbu (d a : BitVec 5) (im : BitVec 12)
  | lh (d a : BitVec 5) (im : BitVec 12)
  | lhu (d a : BitVec 5) (im : BitVec 12)
  | lw (d a : BitVec 5) (im : BitVec 12)
  | lwu (d a : BitVec 5) (im : BitVec 12)
  | ld (d a : BitVec 5) (im : BitVec 12)
  | lq (d a : BitVec 5) (im : BitVec 12)
  | sb (a b : BitVec 5) (im : BitVec 12)
  | sh (a b : BitVec 5) (im : BitVec 12)
  | sw (a b : BitVec 5) (im : BitVec 12)
  | sd (a b : BitVec 5) (im : BitVec 12)
  | sq (a b : BitVec 5) (im : BitVec 12)
  | beq (a b : BitVec 5) (im : BitVec 12)
  | bne (a b : BitVec 5) (im : BitVec 12)
  | blt (a b : BitVec 5) (im : BitVec 12)
  | bge (a b : BitVec 5) (im : BitVec 12)
  | bltu (a b : BitVec 5) (im : BitVec 12)
  | bgeu (a b : BitVec 5) (im : BitVec 12)
  | jal (d : BitVec 5) (f : BitVec 20)
  | jalr (d a : BitVec 5) (im : BitVec 12)
  | vloop (d : BitVec 5) (im : BitVec 12)
  | fadd (d a b : BitVec 5) (r : BitVec 3) (t : BitVec 2)
  | fsub (d a b : BitVec 5) (r : BitVec 3) (t : BitVec 2)
  | fmul (d a b : BitVec 5) (r : BitVec 3) (t : BitVec 2)
  | fdiv (d a b : BitVec 5) (r : BitVec 3) (t : BitVec 2)
  | fsqrt (d a : BitVec 5) (r : BitVec 3) (t : BitVec 2)
  | fmin (d a b : BitVec 5) (t : BitVec 2)
  | fmax (d a b : BitVec 5) (t : BitVec 2)
  | fmac (d a b : BitVec 5) (r : BitVec 3) (t : BitVec 2)
  | fnmac (d a b : BitVec 5) (r : BitVec 3) (t : BitVec 2)
  | fsgnj (d a b : BitVec 5) (t : BitVec 2)
  | fsgnjn (d a b : BitVec 5) (t : BitVec 2)
  | fsgnjx (d a b : BitVec 5) (t : BitVec 2)
  | feq (d a b : BitVec 5) (t : BitVec 2)
  | flt (d a b : BitVec 5) (t : BitVec 2)
  | fle (d a b : BitVec 5) (t : BitVec 2)
  | fclass (d a : BitVec 5) (t : BitVec 2)
  | fcvtfs (d a : BitVec 5) (r : BitVec 3) (t : BitVec 2)
  | fcvtfu (d a : BitVec 5) (r : BitVec 3) (t : BitVec 2)
  | fcvtsf (d a : BitVec 5) (r : BitVec 3) (t : BitVec 2)
  | fcvtuf (d a : BitVec 5) (r : BitVec 3) (t : BitVec 2)
  | fcvtff (d a : BitVec 5) (sc : BitVec 2) (r : BitVec 3) (t : BitVec 2)
  | csrrw (d a : BitVec 5) (c : BitVec 12)
  | csrrs (d a : BitVec 5) (c : BitVec 12)
  | csrrc (d a : BitVec 5) (c : BitVec 12)
  | csrrwi (d u : BitVec 5) (c : BitVec 12)
  | csrrsi (d u : BitVec 5) (c : BitVec 12)
  | csrrci (d u : BitVec 5) (c : BitVec 12)
  | lda (d a : BitVec 5) (sc : BitVec 3) (z : BitVec 1)
  | stl (a b : BitVec 5) (sc : BitVec 3) (z : BitVec 1)
  | swap (d a b : BitVec 5) (q e : BitVec 1) (sc : BitVec 3) (z : BitVec 1)
  | cas (d a b : BitVec 5) (q e : BitVec 1) (sc : BitVec 3) (z : BitVec 1)
  | aadd (d a b : BitVec 5) (q e : BitVec 1) (sc : BitVec 3) (z : BitVec 1)
  | aand (d a b : BitVec 5) (q e : BitVec 1) (sc : BitVec 3) (z : BitVec 1)
  | aor (d a b : BitVec 5) (q e : BitVec 1) (sc : BitVec 3) (z : BitVec 1)
  | axor (d a b : BitVec 5) (q e : BitVec 1) (sc : BitVec 3) (z : BitVec 1)
  | amin (d a b : BitVec 5) (q e : BitVec 1) (sc : BitVec 3) (z : BitVec 1)
  | amax (d a b : BitVec 5) (q e : BitVec 1) (sc : BitVec 3) (z : BitVec 1)
  | aminu (d a b : BitVec 5) (q e : BitVec 1) (sc : BitVec 3) (z : BitVec 1)
  | amaxu (d a b : BitVec 5) (q e : BitVec 1) (sc : BitVec 3) (z : BitVec 1)
  | fence (p sc : BitVec 5) (c : BitVec 3)
  | sbar (m : BitVec 8)
  | svc (c : BitVec 5)
  | brk (c : BitVec 5)
  | uret
  | pmark
  | phase (a : BitVec 5)
  | sret
  | wfi
  | tlbinv (a : BitVec 5)
  | tlbinva
  | ctxsv (d a : BitVec 5)
  | ctxld (d a : BitVec 5)
  | lnset (d a : BitVec 5)
  | freeze (d a : BitVec 5)
  | ipi (a : BitVec 5)
  | mret
  | creset (a : BitVec 5)
  | mcrec (d a : BitVec 5)
  | vsetl (d a : BitVec 5) (t : BitVec 11)
  | vretag (d a : BitVec 5) (f : BitVec 4) (w : BitVec 2)
  | vaddVv (d a b : BitVec 5) (k : BitVec 3)
  | vaddVx (d a b : BitVec 5) (k : BitVec 3)
  | vaddVi (d a im : BitVec 5) (k : BitVec 3)
  | vsubVv (d a b : BitVec 5) (k : BitVec 3)
  | vsubVx (d a b : BitVec 5) (k : BitVec 3)
  | vrsubVx (d a b : BitVec 5) (k : BitVec 3)
  | vrsubVi (d a im : BitVec 5) (k : BitVec 3)
  | vmulVv (d a b : BitVec 5) (k : BitVec 3)
  | vmulVx (d a b : BitVec 5) (k : BitVec 3)
  | vmulhVv (d a b : BitVec 5) (k : BitVec 3)
  | vmulhVx (d a b : BitVec 5) (k : BitVec 3)
  | vdivVv (d a b : BitVec 5) (k : BitVec 3)
  | vdivVx (d a b : BitVec 5) (k : BitVec 3)
  | vremVv (d a b : BitVec 5) (k : BitVec 3)
  | vremVx (d a b : BitVec 5) (k : BitVec 3)
  | vminVv (d a b : BitVec 5) (k : BitVec 3)
  | vminVx (d a b : BitVec 5) (k : BitVec 3)
  | vmaxVv (d a b : BitVec 5) (k : BitVec 3)
  | vmaxVx (d a b : BitVec 5) (k : BitVec 3)
  | vandVv (d a b : BitVec 5) (k : BitVec 3)
  | vandVx (d a b : BitVec 5) (k : BitVec 3)
  | vandVi (d a im : BitVec 5) (k : BitVec 3)
  | vorVv (d a b : BitVec 5) (k : BitVec 3)
  | vorVx (d a b : BitVec 5) (k : BitVec 3)
  | vorVi (d a im : BitVec 5) (k : BitVec 3)
  | vxorVv (d a b : BitVec 5) (k : BitVec 3)
  | vxorVx (d a b : BitVec 5) (k : BitVec 3)
  | vxorVi (d a im : BitVec 5) (k : BitVec 3)
  | vsllVv (d a b : BitVec 5) (k : BitVec 3)
  | vsllVx (d a b : BitVec 5) (k : BitVec 3)
  | vsllVi (d a im : BitVec 5) (k : BitVec 3)
  | vsrlVv (d a b : BitVec 5) (k : BitVec 3)
  | vsrlVx (d a b : BitVec 5) (k : BitVec 3)
  | vsrlVi (d a im : BitVec 5) (k : BitVec 3)
  | vsraVv (d a b : BitVec 5) (k : BitVec 3)
  | vsraVx (d a b : BitVec 5) (k : BitVec 3)
  | vsraVi (d a im : BitVec 5) (k : BitVec 3)
  | vsaddVv (d a b : BitVec 5) (k : BitVec 3)
  | vsaddVx (d a b : BitVec 5) (k : BitVec 3)
  | vsaddVi (d a im : BitVec 5) (k : BitVec 3)
  | vssubVv (d a b : BitVec 5) (k : BitVec 3)
  | vssubVx (d a b : BitVec 5) (k : BitVec 3)
  | vavgVv (d a b : BitVec 5) (k : BitVec 3)
  | vavgVx (d a b : BitVec 5) (k : BitVec 3)
  | vsmulVv (d a b : BitVec 5) (k : BitVec 3)
  | vsmulVx (d a b : BitVec 5) (k : BitVec 3)
  | vsgnjVv (d a b : BitVec 5) (k : BitVec 3)
  | vsgnjVx (d a b : BitVec 5) (k : BitVec 3)
  | vsgnjnVv (d a b : BitVec 5) (k : BitVec 3)
  | vsgnjnVx (d a b : BitVec 5) (k : BitVec 3)
  | vsgnjxVv (d a b : BitVec 5) (k : BitVec 3)
  | vsgnjxVx (d a b : BitVec 5) (k : BitVec 3)
  | vmergeVv (d a b : BitVec 5) (k : BitVec 3)
  | vmergeVx (d a b : BitVec 5) (k : BitVec 3)
  | vmergeVi (d a im : BitVec 5) (k : BitVec 3)
  | vmvVv (d b : BitVec 5) (k : BitVec 3)
  | vmvVx (d b : BitVec 5) (k : BitVec 3)
  | vmvVi (d im : BitVec 5) (k : BitVec 3)
  | vsatVi (d a im : BitVec 5) (k : BitVec 3)
  | vbsclVv (d a b : BitVec 5) (k : BitVec 3)
  | vaddPVv (d a b : BitVec 5)
  | vaddPVx (d a b : BitVec 5)
  | vsubPVv (d a b : BitVec 5)
  | vrsubPVi (d a im : BitVec 5)
  | vmulPVv (d a b : BitVec 5)
  | vmulPVx (d a b : BitVec 5)
  | vminPVv (d a b : BitVec 5)
  | vmaxPVv (d a b : BitVec 5)
  | vandPVv (d a b : BitVec 5)
  | vorPVv (d a b : BitVec 5)
  | vxorPVv (d a b : BitVec 5)
  | vxorPVi (d a im : BitVec 5)
  | vsllPVi (d a im : BitVec 5)
  | vsrlPVi (d a im : BitVec 5)
  | vsraPVi (d a im : BitVec 5)
  | vsaddPVv (d a b : BitVec 5)
  | vssubPVv (d a b : BitVec 5)
  | vmergePVv (d a b : BitVec 5)
  | vsatPVi (d a im : BitVec 5)
  | vmacc (d a b : BitVec 5) (k : BitVec 3)
  | vnmsac (d a b : BitVec 5) (k : BitVec 3)
  | vmadd (d a b : BitVec 5) (k : BitVec 3)
  | vnmsub (d a b : BitVec 5) (k : BitVec 3)
  | vwmacc (d a b : BitVec 5) (k : BitVec 3)
  | vwmul (d a b : BitVec 5) (k : BitVec 3)
  | vwadd (d a b : BitVec 5) (k : BitVec 3)
  | vwsub (d a b : BitVec 5) (k : BitVec 3)
  | vqmacc (d a b : BitVec 5) (k : BitVec 3)
  | vsqrt (d : BitVec 5) (r : BitVec 3) (b : BitVec 5) (k : BitVec 3)
  | vrsqrt (d : BitVec 5) (r : BitVec 3) (b : BitVec 5) (k : BitVec 3)
  | vrcp (d : BitVec 5) (r : BitVec 3) (b : BitVec 5) (k : BitVec 3)
  | vexp2 (d : BitVec 5) (r : BitVec 3) (b : BitVec 5) (k : BitVec 3)
  | vlog2 (d : BitVec 5) (r : BitVec 3) (b : BitVec 5) (k : BitVec 3)
  | vtanh (d : BitVec 5) (r : BitVec 3) (b : BitVec 5) (k : BitVec 3)
  | vsigm (d : BitVec 5) (r : BitVec 3) (b : BitVec 5) (k : BitVec 3)
  | vclass (d b : BitVec 5) (k : BitVec 3)
  | vcvt (d : BitVec 5) (r : BitVec 3) (b : BitVec 5) (k : BitVec 3)
  | vwcvt (d : BitVec 5) (r : BitVec 3) (b : BitVec 5) (k : BitVec 3)
  | vncvt (d : BitVec 5) (r : BitVec 3) (b : BitVec 5) (k : BitVec 3)
  | vsext (d b : BitVec 5) (k : BitVec 3)
  | vzext (d b : BitVec 5) (k : BitVec 3)
  | vnclip (d b : BitVec 5) (k : BitVec 3)
  | vsextP (d b : BitVec 5)
  | vzextP (d b : BitVec 5)
  | vnclipP (d b : BitVec 5)
  | vgather (d a b : BitVec 5) (k : BitVec 3)
  | vslideup (d a b : BitVec 5) (k : BitVec 3)
  | vslidedn (d a b : BitVec 5) (k : BitVec 3)
  | vcompress (d a : BitVec 5) (k : BitVec 3)
  | vrev (d a : BitVec 5) (k : BitVec 3)
  | vbcast (d a b : BitVec 5) (k : BitVec 3)
  | vextr (d a b : BitVec 5)
  | vinsr (d a b : BitVec 5) (k : BitVec 3)
  | vzip (d a b : BitVec 5) (k : BitVec 3)
  | vunzip (d a b : BitVec 5) (k : BitVec 3)
  | vcmpeqVv (d : BitVec 3) (a b : BitVec 5) (k : BitVec 3)
  | vcmpneVv (d : BitVec 3) (a b : BitVec 5) (k : BitVec 3)
  | vcmpltVv (d : BitVec 3) (a b : BitVec 5) (k : BitVec 3)
  | vcmpleVv (d : BitVec 3) (a b : BitVec 5) (k : BitVec 3)
  | vcmpgtVv (d : BitVec 3) (a b : BitVec 5) (k : BitVec 3)
  | vcmpgeVv (d : BitVec 3) (a b : BitVec 5) (k : BitVec 3)
  | vcmpeqVx (d : BitVec 3) (a b : BitVec 5) (k : BitVec 3)
  | vcmpneVx (d : BitVec 3) (a b : BitVec 5) (k : BitVec 3)
  | vcmpltVx (d : BitVec 3) (a b : BitVec 5) (k : BitVec 3)
  | vcmpleVx (d : BitVec 3) (a b : BitVec 5) (k : BitVec 3)
  | vcmpgtVx (d : BitVec 3) (a b : BitVec 5) (k : BitVec 3)
  | vcmpgeVx (d : BitVec 3) (a b : BitVec 5) (k : BitVec 3)
  | vcmpeqPVv (d : BitVec 4) (a b : BitVec 5)
  | vcmpnePVv (d : BitVec 4) (a b : BitVec 5)
  | vcmpltPVv (d : BitVec 4) (a b : BitVec 5)
  | vcmplePVv (d : BitVec 4) (a b : BitVec 5)
  | vcmpgtPVv (d : BitVec 4) (a b : BitVec 5)
  | vcmpgePVv (d : BitVec 4) (a b : BitVec 5)
  | vcmpeqPVx (d : BitVec 4) (a b : BitVec 5)
  | vcmpnePVx (d : BitVec 4) (a b : BitVec 5)
  | vcmpltPVx (d : BitVec 4) (a b : BitVec 5)
  | vcmplePVx (d : BitVec 4) (a b : BitVec 5)
  | vcmpgtPVx (d : BitVec 4) (a b : BitVec 5)
  | vcmpgePVx (d : BitVec 4) (a b : BitVec 5)
  | kand (d a b : BitVec 3)
  | kor (d a b : BitVec 3)
  | kxor (d a b : BitVec 3)
  | kandn (d a b : BitVec 3)
  | knot (d a : BitVec 3)
  | kpopc (d : BitVec 5) (a : BitVec 3)
  | kfirst (d : BitVec 5) (a : BitVec 3)
  | vred (d a b : BitVec 5) (k : BitVec 3)
  | vredmax (d a b : BitVec 5) (k : BitVec 3)
  | vredmin (d a b : BitVec 5) (k : BitVec 3)
  | vredand (d a b : BitVec 5) (k : BitVec 3)
  | vredor (d a b : BitVec 5) (k : BitVec 3)
  | vredxor (d a b : BitVec 5) (k : BitVec 3)
  | vredo (d a b : BitVec 5) (k : BitVec 3)
  | vld (d a : BitVec 5) (k : BitVec 3) (y : BitVec 1) (f : BitVec 2)
  | vlds (d a b : BitVec 5) (k : BitVec 3) (y : BitVec 1) (f : BitVec 2)
  | vldx (d a b : BitVec 5) (k : BitVec 3) (y : BitVec 1) (f : BitVec 2)
  | vlseg (d a : BitVec 5) (k : BitVec 3) (y : BitVec 1) (n : BitVec 3)
  | vlsseg (d a b : BitVec 5) (k : BitVec 3) (y : BitVec 1) (n : BitVec 3)
  | vst (d a : BitVec 5) (k : BitVec 3) (y : BitVec 1)
  | vsts (d a b : BitVec 5) (k : BitVec 3) (y : BitVec 1)
  | vstx (d a b : BitVec 5) (k : BitVec 3) (y : BitVec 1)
  | vsseg (d a : BitVec 5) (k : BitVec 3) (y : BitVec 1) (n : BitVec 3)
  | vssseg (d a b : BitVec 5) (k : BitVec 3) (y : BitVec 1) (n : BitVec 3)
  | vamoSwap (d a b : BitVec 5) (k sc : BitVec 3)
  | vamoAdd (d a b : BitVec 5) (k sc : BitVec 3)
  | vamoAnd (d a b : BitVec 5) (k sc : BitVec 3)
  | vamoOr (d a b : BitVec 5) (k sc : BitVec 3)
  | vamoXor (d a b : BitVec 5) (k sc : BitVec 3)
  | vamoMin (d a b : BitVec 5) (k sc : BitVec 3)
  | vamoMax (d a b : BitVec 5) (k sc : BitVec 3)
  | vrdwAdd (d a b : BitVec 5) (k sc : BitVec 3)
  | vrdwMax (d a b : BitVec 5) (k sc : BitVec 3)
  | vrdwMin (d a b : BitVec 5) (k sc : BitVec 3)
  | vrdwExpsum (d a b : BitVec 5) (k sc : BitVec 3)
  | vwaitEq (d a b : BitVec 5) (k sc : BitVec 3)
  | vwaitNe (d a b : BitVec 5) (k sc : BitVec 3)
  | vwaitGe (d a b : BitVec 5) (k sc : BitVec 3)
  | vwaitLt (d a b : BitVec 5) (k sc : BitVec 3)
  | vmatch (d : BitVec 3) (a b : BitVec 5) (k : BitVec 3)
  | pdset (a b c : BitVec 5)
  | pxin (a b : BitVec 5)
  | pxout (a b : BitVec 5)
  | prun (b c : BitVec 5)
  | pfence
  | bkacq (b : BitVec 5) (sc : BitVec 3) (t : BitVec 1)
  | bkrel (b : BitVec 5) (sc : BitVec 3)
  | nred (a b c : BitVec 5) (sc : BitVec 3) (g : BitVec 2)
  | mmac (a b : BitVec 5) (c : BitVec 3)
  | mmact (a b : BitVec 5) (c : BitVec 3)
  | mzero (a : BitVec 5) (m : BitVec 1)
  | mdrain (a b c : BitVec 5) (k : BitVec 3)
  | mdrainx (a b c : BitVec 5) (k : BitVec 3)
  | mrel (a : BitVec 5) (t : BitVec 1)
  | cast (m : BitVec 8) (n : BitVec 7)
  | sfetch (f : BitVec 21)
  | stop
  | waits (m : BitVec 8) (u : BitVec 1)
  | sstat (a : BitVec 5) (sc : BitVec 3)
  | voffer (b : BitVec 5)
  | vlink (a b : BitVec 5) (sc : BitVec 3)
  | sresume (sc : BitVec 3)
  | skill (sc : BitVec 3)
  | vpush (a b c : BitVec 5)
  | vpushm (a b c : BitVec 5)
  | sbind (a b : BitVec 5) (sc : BitVec 3) (g : BitVec 1)
  | sunbind (sc : BitVec 3)
  | chkick (a : BitVec 5)
  | wmpub (a b : BitVec 5)
  | wmbind (a b : BitVec 5) (sc : BitVec 3) (g : BitVec 1)
  | wmwait (a b : BitVec 5) (u : BitVec 1)
  | sigp (a b : BitVec 5) (sc : BitVec 3)
  | sigw (a b : BitVec 5) (sc : BitVec 3) (u : BitVec 1)
  | throwCall (a b c : BitVec 5) (sc : BitVec 3)
  | catchReply (a b : BitVec 5) (u : BitVec 1)
  | launch (b c : BitVec 5)
  | lix (a : BitVec 5) (im : BitVec 49)
  | lixh (a : BitVec 5) (im : BitVec 16)
  | chdecl (xs xn : BitVec 5) (off : BitVec 18) (len : BitVec 12) (esz : BitVec 2) (a : BitVec 5)
  | coll (esz : BitVec 2) (op : BitVec 3) (kind : BitVec 2) (sc : BitVec 3) (a : BitVec 5)
  | mstat (sd sc : BitVec 3) (macro0 : BitVec 8) (kmac nmac : BitVec 6) (wfmt : BitVec 4) (a : BitVec 5)
  | launchInline (sreg : BitVec 5) (count : BitVec 32) (scode : BitVec 2) (queue : BitVec 6) (a : BitVec 5)
  | cadd (d sc : BitVec 5)
  | csub (d sc : BitVec 5)
  | cand (d sc : BitVec 5)
  | cor (d sc : BitVec 5)
  | cxor (d sc : BitVec 5)
  | csll (d sc : BitVec 5)
  | csrl (d sc : BitVec 5)
  | csra (d sc : BitVec 5)
  | cmul (d sc : BitVec 5)
  | caddi (d sc : BitVec 5)
  | candi (d sc : BitVec 5)
  | cslli (d sc : BitVec 5)
  | csrli (d sc : BitVec 5)
  | csrai (d sc : BitVec 5)
  | cmv (d : BitVec 5)
  | clw (d sc : BitVec 5)
  | cld (d sc : BitVec 5)
  | cvadd (d sc : BitVec 5)
  | cvsub (d sc : BitVec 5)
  | cvmul (d sc : BitVec 5)
  | cvmacc (d sc : BitVec 5)
  | cvmin (d sc : BitVec 5)
  | cvmax (d sc : BitVec 5)
  | cvand (d sc : BitVec 5)
  | cvor (d sc : BitVec 5)
  | cvxor (d sc : BitVec 5)
  | cvaddx (d sc : BitVec 5)
  | cvmulx (d sc : BitVec 5)
  | ckand (d sc : BitVec 3)
  | ckor (d sc : BitVec 3)
  | ckxor (d sc : BitVec 3)
  | castDelivery (slot : Nat)
  | pushLanding (stitch : Nat) (reg : BitVec 5) (imgs : List VImage)
  | carriageRound (c stack : Nat) (upset : Bool)
  | sourceVerify (c stack : Nat) (uncorrectable : Bool)
  | planeRetire (c stack : Nat)
  | detectedPlaneError (c : Nat)
  | refresh (vault : Nat)
  | tLevelActivate (slot : Nat)
  | tLevelRedirect (slot : Nat)
  | stageArbiterPeriod (slot : Nat) (blocked occupancy starved : List Nat)
  | queueEntryAccept (q : Nat)
  | prefetch (launch : Nat)
  | launchReady (launch : Nat)
  | tileStart (launch slot : Nat)
  | contextSave (c : Nat)
  | tileRestore (slot : Nat)
  | tileEnd (slot launch : Nat)
  | launchComplete (launch : Nat)
  | pendingTrapTake (slot : Nat)
  | architecturalWaitEnd (c : Nat)
  | streamFetch (c sq : Nat)
  | streamWrite (c sq : Nat)
  | stripWrite (wm : Nat)
  | watermarkReread (wm : Nat)
  | guestStart (slot : Nat)
  | replyArrival (c : Nat) (ticket : Word) (gcause : Option (BitVec 8)) (info : Word) (vals : List Word)
  | throwTimeout (c slot : Nat)
  | throwMessage (msg : ThrowArrival)
  | collExchange (mem : CollMember)
  | collComplete (c k : Nat)
  | migrationSwitch (stack chunk others : Nat)
  | accessCounterHalving
  | automaticMove (stack chunk : Nat)
  | grantVaults
  | endGrant
  | mkRegion
  | freeRegion
  | moveChunk
  | pinChunk
  | unpinChunk
  | grantPeriodExpiry (stack vault : Nat)
  | timerInterrupt (slot : Nat)
  | watchdogWarning (c : Nat)
  | watchdogFreeze (c : Nat)
  | watchdogCoreReset (c : Nat)
  | guestWatchdogExpiry (c : Nat)
  | errorDetected (cls unit : Nat) (place : ErrorPlace) (addr syndrome : Word) (victim : Option Nat)
  | patrolScrub (unit : Nat) (place : ErrorPlace) (addr : Word) (uncorrectable : Bool)
  | linkReplayFailure (port : Nat) (addr : Word)
  | sensorSample (readings : SensorSamples)
  | thermalTrip
  | powerFailWarning
  | powerFailClear
  | clampLift
  | powerFailTimeout
  | supplyLoss
  | logicRailsReturn (retained : Bool) (intact : List Nat)
  | leaseExpiry
  | moduleReset
  | mailboxPost (fn : Option Nat) (slot : Nat)
  | mailboxAnswer (slot : Nat)
  | features (slot : Nat)
  | accept (slot : Nat)
  | mkpart (slot : Nat)
  | rmpart (slot : Nat)
  | stateCommand (slot : Nat)
  | rackCap (slot : Nat)
  | logread (slot : Nat)
  | sensors (slot : Nat)
  | fwwrite (slot version : Nat) (sigok : Bool)
  | fwcommit (slot : Nat)
  | getVersion
  | getCapabilities
  | negotiateAlgorithms
  | getDigests
  | getCertificate (slot : Nat)
  | challenge (nonce : Nat)
  | getMeasurements (index : Nat)
  | hostRead (fn : Option Nat) (bar addr size : Nat)
  | hostWrite (fn : Option Nat) (bar addr : Nat) (data : List Byte)
  | snpinv (line : Nat)
  | snpdata (line : Nat)
  | snpcur (line : Nat)
  | poisonedCompletion (c : Nat) (addr : LinkAccess)
  | peerRequest (req : PeerReq)
  | peerWake (c : Nat)
  | peerTimeout (c : Nat) (addr : LinkAccess) (store : Bool)
  | peerRejection (addr : LinkAccess)
  | laneSharingTurn (giver taker : Nat)
  | rowSpill (stitch : Nat)
  | subarrayTransfer (c stack mismatch : Nat)
  | fabricManagerAssignment (part : Nat) (number : ModuleName) (top : Nat) (paired : List (Nat × Nat))
deriving DecidableEq, Repr

end Sys2Proof
end

