-- ==== Sys2Proof/Machine/State.lean ====
section
/-!
DEFINITION. The state of one core of one ZSP-1600 module, of the memory it reaches and of the module's
scheduler, translation, trap, power and management units, as plain data; the reasons a step stops; reset.
Everything of another core, another module or the host acts through the events of Syntax.lean.
-/
namespace Sys2Proof.Machine

/-- Bytes by address key: addresses strictly rising, no entry zero (log 1: an unlisted byte reads 0). -/
abbrev Memory := List Host.Cell

/-- DRAM rows by row key: keys strictly rising, no row zero (R96, R207, log 1). -/
abbrev RowStore := List (Nat × RowData)

/-- Why a machine stops with a fault. -/
inductive Fault where
  /-- The module is OFF or its logic rails are cut (R382, R384): no context and no unit moves until
  MODULE_RESET or LOGIC_RAILS_RETURN. Raised by step when nothing else is scheduled. Safe: the spec
  lets nothing move there. -/
  | poweredOff
deriving DecidableEq, Repr

/-- Why an instruction has no meaning in the model. -/
inductive Refusal where
  /-- No meaning has been written for this instruction: raised by an arm of exec. Safe. -/
  | notModelled (mnemonic : String)
deriving DecidableEq, Repr

/-- The states of R245; a needle is stopped between tiles. -/
inductive RunState where
  | stopped | running | waiting | faulted
deriving DecidableEq, Repr

/-- The three kinds of context (R38). -/
inductive Kind where
  | needle | stitch | guest
deriving DecidableEq, Repr

/-- A landed register: its image, and the first register and the number of registers of its group (R260). -/
structure Landing where
  img : VImage
  first : Nat
  count : Nat
deriving DecidableEq, Repr

/-- One vector register with its tag (R41), its link-full bit (R256) and a landed group (R260).
Bytes of `data` at `hwm` and above are zero (R44). -/
structure VReg where
  data : VData
  fmt : BitVec 4
  width : BitVec 2
  hwm : Nat
  dirty : Bool
  link : Bool
  landed : Option Landing
deriving DecidableEq, Repr

/-- A delivered element of a store stream that is not yet performed (R266). -/
structure Delivery where
  element : Nat
  value : Nat
deriving DecidableEq, Repr

/-- A bound stream slot (R53, R263). `fetched` holds elements read ahead, by element number; `blocked` is the scope of the
acquire that ends the stall its sequencer is in (R104, R407). -/
structure Stream where
  store : Bool
  reg : BitVec 5
  esz : BitVec 2
  base : Nat
  levels : List (Nat × Int)
  pos : Nat
  fetched : List (Nat × Nat)
  deliveries : List Delivery
  blocked : Option (BitVec 3)
deriving DecidableEq, Repr

/-- What a reply carries (R281, R373): a guest cause and info, or x10 to x13. -/
structure Reply where
  gcause : Option (BitVec 8)
  info : Word
  vals : List Word
deriving DecidableEq, Repr

/-- A ticket slot (R279, R282, R341). Times are in counted cycles and microseconds. -/
structure Ticket where
  used : Bool
  seq : BitVec 60
  issued : Nat
  timeout : Nat
  reply : Option Reply
deriving DecidableEq, Repr

/-- One level of the loop table as the context holds it (R14, R17, R19). -/
structure LoopLevel where
  active : Bool
  iter : Nat
  li : Word
deriving DecidableEq, Repr

/-- What ends a wait (R36). The elements of a VWAIT still to be satisfied are listed as element, address
and operand (R112); the granules of a full-empty step with whether it empties them (R193). A BKACQ that has to wait leaves the set
it asked for (R117, R227), a fifth COLL the collective it waits for (R286). A push that waits names the members left, the group, the rows a landing takes and since when
(R47, R261). -/
inductive WaitCond where
  | waits (mask : BitVec 8)
  | reply (ticket : Word)
  | signal (addr : Word) (value : Nat)
  | mark (wm : Nat) (bound : Nat)
  | words (esz : Nat) (op : Nat) (pending : List (Nat × Nat × Nat))
  | granules (gs : List Nat) (clear : Bool)
  | lock (key : Nat)
  | bank (region first count : Nat)
  | coll (team seq : Nat)
  | push (left : List Nat) (first count rows since : Nat)
deriving DecidableEq, Repr

/-- A held bank lock (R117, R227): the named set, strict or not. -/
structure BankLock where
  region : Nat
  first : Nat
  count : Nat
  strict : Bool
deriving DecidableEq, Repr

/-- A collective a context has issued and that is not complete (R284 to R286): the cycle of its issue (R115), whether the
engine has read the send buffer and written the receive buffer, and what the context has stored since, as place and
length (R119). -/
structure Coll where
  mem : CollMember
  sendAddr : Nat
  recvAddr : Nat
  doneAddr : Nat
  addend : Word
  statusAddr : Nat
  issued : Nat
  read : Bool
  written : Bool
  stores : List (Nat × Nat)
deriving DecidableEq, Repr

/-- What a queued plane instruction computes: a standard form, a transfer or a user swatch. -/
inductive PlaneKind where
  | form (op : Nat) (scalar : Option Int)
  | pxin (addr : Nat)
  | pxout (addr : Nat)
  | prun (words : List (BitVec 32))
deriving DecidableEq, Repr

/-- One operand slot of a plane instruction as captured at issue (R205). -/
structure PlaneOperand where
  used : Bool
  rowbase : Nat
  width : Nat
  residue : Bool
deriving DecidableEq, Repr

/-- One open loop of a running swatch (R210): its LOOPC word, its index and its count. -/
structure SwatchLoop where
  head : Nat
  index : Nat
  count : Nat
deriving DecidableEq, Repr

/-- A plane instruction in a carriage queue (R205). `left` are the region subarrays not yet taken by a
batch and `batch` those of the batch that runs (R206). `rounds` counts the rounds of a standard form in its batch. `here` and `loops` say where a user swatch stands,
`spanAt` and `spanLoops` where its span began, `spare` what its spare rows hold (R215). `verified`, `flag`
and `restarted` are R217's, `abandoned` is R222's count, `suspended` says that its span was abandoned and has
not started again, `barrier` counts the PFENCEs before it (R226), `moved` says how far its round, or the transfer of its
subarray, has got where others look at it part-way (R100, R116). -/
structure PlaneOp where
  stack : Nat
  kind : PlaneKind
  a : PlaneOperand
  b : PlaneOperand
  d : PlaneOperand
  e : PlaneOperand
  signed : Bool
  count : Nat
  region : Nat
  first : Nat
  pc : Word
  checked : Bool
  barrier : Nat
  left : List Nat
  batch : List Nat
  rounds : Nat
  here : Nat
  loops : List SwatchLoop
  spanAt : Nat
  spanLoops : List SwatchLoop
  spare : List (Nat × RowData)
  verified : Bool
  flag : Bool
  restarted : List Nat
  abandoned : Nat
  suspended : Bool
  moved : Nat
deriving DecidableEq, Repr

/-- What a guest carries besides its registers (R280, R281), which context lends it a lane group (R34), and the cycle at which
its throw arrived (R37). -/
structure GuestInfo where
  forwarded : Bool
  kept : Bool
  scope : BitVec 3
  budget : Nat
  thrower : Word
  ticket : Word
  homeStack : Nat
  homeVault : Nat
  partition : Nat
  lender : Option Nat
  arrived : Nat
deriving DecidableEq, Repr

/-- An event waiting at a needle: 0x11 or 0x12 with source and info (R252, R315). -/
structure PendEvent where
  code : BitVec 8
  src : BitVec 8
  info : Word
deriving DecidableEq, Repr

/-- The needle's own trap and system registers (R56, R302, R303). -/
structure SysRegs where
  uevec : Word
  uepc : Word
  ucause : Word
  uinfo : Word
  ustat : Word
  sstat : Word
  svec : Word
  sepc : Word
  scause : Word
  sinfo : Word
  sscratch : Word
  sie : BitVec 5
  sip : Bool
  ipiFrom : Word
  timer : Bool
  stimecmp : Word
  mstat : Word
  mvec : Word
  mepc : Word
  mcause : Word
  minfo : Word
  mscratch : Word
deriving DecidableEq, Repr

/-- A value that a context has read ahead of its program (R99): the bytes it holds and what they held. `far` is what has
been written there since by agents that synchronise with the context from a scope on only: that scope and what the bytes
hold by it; 5 or 6 outside the module, 7 the context's own other sequencers, which no acquire orders (R103, R106, R403).
`own` says which of those, or which collective of the context, have written there since, by the bits of a FENCE's classes
(R108, R119). -/
structure EarlyRead where
  addr : Nat
  key : Nat
  size : Nat
  value : Nat
  far : Option (Nat × Nat)
  own : Nat
deriving DecidableEq, Repr

/-- The descriptor and the macros that an MSTAT has reserved and not bound yet (R234, R243). -/
structure Reserve where
  sd : Nat
  macro0 : Nat
  count : Nat
deriving DecidableEq, Repr

/-- One context: a needle, a stitch or a guest (R38). `castEnd` is the address after the block it runs, `block` the block's
halfwords as they were delivered (R247). A kind leaves the fields it has not at reset. -/
structure Ctx where
  run : RunState
  wait : Option WaitCond
  unbounded : Bool
  priv : BitVec 2
  pc : Word
  castEnd : Option Word
  block : List Nat
  x : Vector Word 32
  v : Vector VReg 32
  k : Vector MData 8
  pd : Vector (BitVec 128) 16
  sq : Vector (Option Stream) 8
  fflags : BitVec 5
  frm : BitVec 3
  srseed : BitVec 32
  vl : BitVec 13
  vtype : BitVec 11
  vstart : BitVec 12
  alc : BitVec 6
  pvl : BitVec 32
  ldst : BitVec 8
  instret : Word
  ctxstat : BitVec 2
  throwtmo : BitVec 16
  sys : SysRegs
  seqOn : Bool
  levels : Vector LoopLevel 6
  events : List PendEvent
  faultCause : BitVec 8
  faultInfo : Word
  timer : Nat
  window : Nat
  warned : Nat
  met : MData
  tickets : Vector Ticket 8
  throwSeq : BitVec 60
  granted : Vector Nat 16
  lock : Option BankLock
  colls : List Coll
  collCounts : List (Nat × Nat)
  planes : List PlaneOp
  barrier : Nat
  planeErr : List Word
  guest : Option GuestInfo
  early : List EarlyRead
  begun : Bool
  pushed : List Nat
  reserve : Option Reserve
  saved : Bool
  held : Bool
  spilled : Bool
deriving DecidableEq, Repr

/-- One level of a descriptor's loop table (R12). -/
structure Level where
  kind : Nat
  count : Nat
  stride : Int
  start : Nat
  stop : Nat
deriving DecidableEq, Repr

/-- One stage queue (R258). -/
structure StageQueue where
  offset : Nat
  granules : Nat
  producer : Nat
  consumer : Nat
deriving DecidableEq, Repr

/-- One dependence (R325). -/
structure Dependence where
  addr : Nat
  value : Nat
  met : Bool
deriving DecidableEq, Repr

/-- One stash map (R86). -/
structure StashMap where
  window : Nat
  base : Nat
  length : Nat
deriving DecidableEq, Repr

/-- A kernel descriptor as the scheduler read it (R324, R325). -/
structure Desc where
  levels : List Level
  stitches : Nat
  unchecked : Bool
  serial : Bool
  second : Bool
  scope : BitVec 3
  entry : Nat
  signal : Nat
  increment : Nat
  record : Nat
  stages : List Nat
  squeues : List StageQueue
  deps : List Dependence
  maps : List StashMap
  prefetch : List (Nat × Nat)
  discard : List (Nat × Nat)
deriving DecidableEq, Repr

/-- The tiles of one launch in one stack: the next to claim and the first beyond (R13). -/
structure Share where
  stack : Nat
  next : Nat
  limit : Nat
deriving DecidableEq, Repr

/-- An accepted launch that is not complete (R328 to R332); `split` is the lane groups that the stitches of its last tile held
(R389). -/
structure Launch where
  id : Nat
  part : Nat
  queue : Nat
  prio : Nat
  desc : Desc
  descAddr : Nat
  enqueued : Nat
  first : Nat
  shares : List Share
  running : Nat
  ended : Nat
  early : Nat
  ready : Bool
  planeErr : Bool
  phase : BitVec 16
  split : List Nat
deriving DecidableEq, Repr

/-- A tile in a tile slot of the core (R16, R333). `stopping` asks its contexts to reach a pre-emption
point and stay saved until it is cleared; `frozen` says that all are saved (R309); `leaving` that the tile
then goes off the core (R337); `kept` that FREEZE or the watchdog froze it, which only a thaw ends (R309, R316), and
`resetBy` until when its freeze must be complete (R315); `ended` is the needle's STOP complete (R16); `share` the lane
groups that it was given at its start (R24, R335). -/
structure Tile where
  launch : Nat
  number : Nat
  part : Nat
  prio : Nat
  base : Nat
  count : Nat
  desc : Desc
  descAddr : Nat
  order : Nat
  stopping : Bool
  frozen : Bool
  leaving : Bool
  watchdog : Bool
  kept : Bool
  resetBy : Option Nat
  ended : Bool
  share : Nat
deriving DecidableEq, Repr

/-- A tile that another core runs, by core number and tile slot; `order` is the cycle at which it started, `asked` says that
FREEZE asked it to stop (R309), `records` which of its records this core has seen or written (R310). -/
structure RemoteTile where
  core : Nat
  slot : Nat
  launch : Nat
  base : Nat
  count : Nat
  part : Nat
  frozen : Bool
  order : Nat
  asked : Bool
  records : List Nat
deriving DecidableEq, Repr

/-- A held stationary descriptor with the weights it snapshot (R50, R235). -/
structure Region where
  base : Nat
  owner : Nat
  macro0 : Nat
  kmac : Nat
  nmac : Nat
  wfmt : Nat
  image : Memory
deriving DecidableEq, Repr

/-- A held accumulator tile (R51): cells by row × 2,048 + column, zero cells unlisted. -/
structure Acc where
  owner : Nat
  fp32 : Bool
  cells : List (Nat × BitVec 32)
deriving DecidableEq, Repr

/-- What a watermark binding is for (R273, R342). -/
inductive WmRole where
  | consumer | producer | channel
deriving DecidableEq, Repr

/-- A watermark binding (R52, R269 to R274, R342). `filled` is F, `ended` is m, `failed` the address of
a strip read that failed (R271), `starts` the cycles at which its strips were started (R115). -/
structure Watermark where
  role : WmRole
  slot : Nat
  base : Nat
  esz : Nat
  count : Nat
  scope : BitVec 3
  strip : Bool
  value : Nat
  word : Nat
  stripLen : Nat
  offset : Nat
  kicked : Bool
  ended : Nat
  filled : Nat
  owner : Nat
  failed : Option Word
  unbinding : Bool
  starts : List Nat
deriving DecidableEq, Repr

/-- The core's shared state that a pre-empted tile takes with it (R340, R344): its regions, accumulator tiles and bindings;
of a tile that has the stash its bytes by window offset, its granules, and those that a restore has emptied and not yet
filled; and what the save area holds of its records. -/
structure SavedShared where
  sd : Vector (Option Region) 8
  acc : Vector (Option Acc) 2
  wm : Vector (Option Watermark) 16
  stash : Memory
  full : List Nat
  present : List Nat
  restoreFull : List (Nat × Bool)
  outside : List Nat
  records : Memory
deriving DecidableEq, Repr

/-- A tile that pre-emption took off the core (R337, R344), with what its records do not hold. -/
structure SavedTile where
  slot : Nat
  tile : Tile
  ctxs : List (Nat × Ctx)
  shared : SavedShared
deriving DecidableEq, Repr

/-- A reduction tag: operator, format and width (R113, R198). -/
structure RedTag where
  op : RedOp
  fmt : BitVec 4
  width : Nat
deriving DecidableEq, Repr

/-- A store that has retired and that only its own sequencer sees yet (R99, R101, R370 to R372): its context and its
sequencer there (0 the thread path, n + 1 stream slot n, 9 the collective engines), its address, the bytes it goes to, the
stash granule it touches, and for an element of a VRDW its reduction tag (R100, R198). -/
structure PendStore where
  ctx : Nat
  seq : Nat
  addr : Nat
  key : Nat
  granule : Option Nat
  size : Nat
  value : Nat
  red : Option RedTag
deriving DecidableEq, Repr

/-- An access of a context to host or peer memory whose completion is poisoned, or does not come, and the port it went through
(R364, R372, R379). -/
structure FailArm where
  ctx : Nat
  addr : Nat
  poisoned : Bool
  port : Nat
deriving DecidableEq, Repr

/-- MESI state of a host line the module holds (R399); I is unlisted. -/
inductive LineState where
  | modified | exclusive | shared
deriving DecidableEq, Repr

/-- One command of the translation hardware, with its record (R354). -/
structure TrCmd where
  record : List Byte
deriving DecidableEq, Repr

/-- A set-aside grant of one vault: until when, if it ends (R355). -/
structure Grant where
  part : Nat
  stack : Nat
  vault : Nat
  ends : Option Nat
  ending : Bool
deriving DecidableEq, Repr

/-- A stack whose general blocks move because a grant begins or has ended: the vaults set aside and until when, or none where
they have come back, the next chunk to move, and whether a command waits for it (R355, R358). -/
structure Regroup where
  part : Nat
  stack : Nat
  aside : Option (List Nat × Option Nat)
  next : Nat
  commanded : Bool
deriving DecidableEq, Repr

/-- A plane region (R356). -/
structure PlaneRegion where
  handle : Nat
  part : Nat
  stack : Nat
  vaults : List Nat
  banks : List Nat
  slot0 : Nat
  slots : Nat
deriving DecidableEq, Repr

/-- What the residence map and the counters hold of a chunk that is not as at reset, and the 2 KiB blocks of it that were
written while it is copied (R357 to R359). -/
structure Chunk where
  stack : Nat
  chunk : Nat
  tier : Bool
  pinned : Bool
  counter : Nat
  copies : Nat
  moving : Bool
  commanded : Bool
  blocks : List Nat
deriving DecidableEq, Repr

/-- A leaf that a TLB holds (R352). -/
structure TlbEntry where
  part : Nat
  page : Nat
  entry : Word
deriving DecidableEq, Repr

/-- One partition (R345, R397) with its registers and queues; `queued` says of queue entries, by queue and count, at which
cycle they were enqueued (R37, R332). -/
structure Part where
  on : Bool
  ownStacks : List Nat
  chunks : Nat
  lpShare : Nat
  power : Nat
  ptroot : Word
  liveRoot : Word
  savebase : Word
  qbase : Word
  mbox : Word
  gchunks : Word
  dominfo : Word
  wdctl : Nat
  wdrep : List Word
  overflow : Bool
  rejections : List Word
  mail : List Nat
  queued : List (Nat × Nat × Nat)
  stopped : BitVec 64
  commands : List TrCmd
  trstat : Word
  migctl : Word
  migstat : Word
  halvedAt : Nat
  paired : List (Nat × Nat)
  hostWindows : List (Nat × Nat)
  posted : Bool
  lastLaunch : List (Nat × Nat)
deriving DecidableEq, Repr

/-- A pending machine check of this core's needle of a tile slot (R299 to R301). -/
structure MachineCheck where
  slot : Nat
  code : BitVec 8
  info : Word
deriving DecidableEq, Repr

/-- An event-log record (R381). -/
structure LogRecord where
  seq : Nat
  bytes : List Byte
deriving DecidableEq, Repr

/-- A firmware image in flash (R394). -/
structure FwImage where
  valid : Bool
  version : Nat
deriving DecidableEq, Repr

/-- What leaves the core or the module, oldest last (R367, R373, R395, R400 and the effects of an
instruction on another core). A CXL.cache request is 0 RdShared, 1 RdOwn, 2 RdCurr, 3 ItoMWr, 4 DirtyEvict or
5 CleanEvict. -/
inductive Message where
  | msix (fn : Option Nat) (vector : Nat)
  | hostData (bytes : List Byte)
  | peerData (bytes : List Byte)
  | peerRefused
  | spdm (bytes : List Byte)
  | cxl (request : Nat) (line : Nat)
  | backInvalidate (line : Nat)
  | peerWake (module offset : Nat)
  | check (core : Nat) (code : BitVec 8) (info : Word)
  | throwOut (msg : ThrowMsg)
  | vdm (module : Nat) (bytes : List Byte)
  | replyOut (thrower : Word) (ticket : Word) (reply : Reply)
  | push (target : Nat) (reg : BitVec 5) (imgs : List VImage)
  | collective (mem : CollMember)
  | ipi (ident : BitVec 16)
  | laneCap (core cap : Nat)
  | coreReset (core : Nat)
  | freeze (ident : BitVec 16) (thaw : Bool)
  | record (ident : BitVec 16)
  | tend (ident : BitVec 16)
deriving DecidableEq, Repr

/-- What moves next (log 3): a rack cap message on the management path (R385), the end of training and of the memory test with
the units, each a unit code and a place, that failed (R398), a context, a stitch up to element `n` of its vector or matrix instruction (R338), a
context whose stores others see later, one such store becoming visible, a context reading `n` bytes ahead of its
program (R99), a store of a core that was reset being lost (R313), a host line being evicted (R400), an event, `n` of the
smallest parts of one (R100, R116), or time alone. -/
inductive Choice where
  | thread (c : Fin 12)
  | part (c : Fin 12) (n : Nat)
  | late (c : Fin 12)
  | perform (i : Nat)
  | ahead (c : Fin 12) (addr n : Nat)
  | lose (i : Nat)
  | evict (line : Nat)
  | rack (seq cap lease : Nat)
  | train (failed : List (Nat × Nat))
  | event (i : Instr)
  | piece (i : Instr) (n : Nat)
  | elapse (cycles : Nat)
deriving DecidableEq, Repr

/-- Operating states of R382. -/
inductive PowerState where
  | op (n : Fin 7)
  | hold
  | ret
  | off
deriving DecidableEq, Repr

/-- An entry of the phase table (R389): the entry address and marker, the b and the lane groups of each stitch of the run that
took least, and its time. -/
structure PhaseRow where
  entry : Nat
  marker : BitVec 16
  b : Nat
  split : List Nat
  time : Nat
deriving DecidableEq, Repr

/-- The management processor and the power units (R384, R385, R390 to R398). -/
structure Mgmt where
  power : PowerState
  before : PowerState
  warning : Option Nat
  clearing : Option Nat
  clamp : Bool
  limit1 : Bool
  limitGroups : Nat
  tripped : Bool
  railsOff : Bool
  rackSeq : Option Nat
  rackCap : Option Nat
  leaseEnd : Option Nat
  floor : Nat
  onFloor : Bool
  accepted : BitVec 256
  acceptDone : Bool
  ports : BitVec 8
  log : List LogRecord
  nextSeq : Nat
  folded : List (Nat × Nat × Nat)
  imageA : FwImage
  imageB : FwImage
  activeA : Bool
  booted : FwImage
  fwWriting : Option Nat
  training : Bool
  leftOut : List (Nat × Nat)
  entering : Option Nat
  pf0Port : Nat
  pbrId : Nat
  fuse : Nat
  halted : Bool
  samples : List Word
  sampledAt : Nat
  hot : List Nat
  voided : Bool
  phases : List PhaseRow
  moduleNumber : Nat
  topModule : Nat
  saveSeq : Nat
deriving DecidableEq, Repr

/-- Refresh of one vault of a stack: next due cycle and last refresh (R216). -/
structure VaultRefresh where
  vault : Nat
  due : Nat
  last : Nat
deriving DecidableEq, Repr

/-- The whole state. -/
structure State where
  ctxs : Vector Ctx 12
  cur : Fin 12
  ir : Word
  stack : BitVec 4
  vault : BitVec 5
  core : BitVec 2
  tiles : Vector (Option Tile) 2
  savedTiles : List SavedTile
  remote : List RemoteTile
  sd : Vector (Option Region) 8
  acc : Vector (Option Acc) 2
  wm : Vector (Option Watermark) 16
  full : List Nat
  present : List Nat
  restoreFull : List (Nat × Bool)
  emptied : List Nat
  outside : List Nat
  laneCap : BitVec 4
  checks : List MachineCheck
  resetAt : Option Nat
  landSince : Option Nat
  forwards : List (Word × Word)
  mem : Memory
  rows : RowStore
  latches : List (Nat × RowData)
  redTags : List (Nat × RedTag)
  hostLines : List (Nat × LineState)
  hdmLines : List Nat
  watches : List (Nat × Nat)
  failing : List FailArm
  failed : List FailArm
  pending : List PendStore
  late : Bool
  refresh : List VaultRefresh
  parts : Vector Part 16
  launches : List Launch
  nextLaunch : Nat
  throws : List (Nat × ThrowMsg)
  replies : List (Fin 12 × Word × Reply)
  collMembers : List CollMember
  tlb : List TlbEntry
  grants : List Grant
  regroups : List Regroup
  regions : List PlaneRegion
  nextHandle : Nat
  chunks : List Chunk
  mgmt : Mgmt
  history : List (Nat × Nat)
  codeNew : Nat
  codeLaunch : Nat
  now : Nat
  counted : Nat
  outbox : List Message
  sched : List Choice
  stopAt : Option Nat
  draws : Nat
deriving DecidableEq, Repr


/-- A vector register at tile start (R39, R41). -/
def VReg.reset : VReg :=
  { data := 0, fmt := 0, width := 0, hwm := 0, dirty := false, link := false, landed := none }

/-- The needle's registers at reset (R56, R302). -/
def SysRegs.reset : SysRegs :=
  { uevec := 0, uepc := 0, ucause := 0, uinfo := 0, ustat := 0, sstat := 0, svec := 0, sepc := 0,
    scause := 0, sinfo := 0, sscratch := 0, sie := 0, sip := false, ipiFrom := 0, timer := false,
    stimecmp := BitVec.allOnes 64, mstat := 0, mvec := 0, mepc := 0, mcause := 0, minfo := 0,
    mscratch := 0 }

/-- A free ticket slot (R279). -/
def Ticket.free : Ticket := { used := false, seq := 0, issued := 0, timeout := 0, reply := none }

/-- An inactive loop level (R17). -/
def LoopLevel.idle : LoopLevel := { active := false, iter := 0, li := 0 }

/-- A context at its tile-start values (R39, R40, R56): stopped, every register as the CSR map states.
Log 2: the spec states no pc, no privilege and no throw sequence number before the first tile. -/
def Ctx.reset : Ctx :=
  { run := .stopped, wait := none, unbounded := false, priv := 0, pc := 0, castEnd := none, block := [],
    x := Vector.replicate 32 0, v := Vector.replicate 32 VReg.reset, k := Vector.replicate 8 0,
    pd := Vector.replicate 16 0, sq := Vector.replicate 8 none, fflags := 0, frm := 0, srseed := 1,
    vl := 0, vtype := 0, vstart := 0, alc := 0, pvl := 0, ldst := 0, instret := 0, ctxstat := 0,
    throwtmo := 100, sys := SysRegs.reset, seqOn := true, levels := Vector.replicate 6 LoopLevel.idle,
    events := [], faultCause := 0, faultInfo := 0, timer := 0, window := 10, warned := 0, met := 0,
    tickets := Vector.replicate 8 Ticket.free, throwSeq := 0, granted := Vector.replicate 16 0,
    lock := none, colls := [], collCounts := [], planes := [], barrier := 0, planeErr := [],
    guest := none, early := [], begun := false, pushed := [], reserve := none, saved := false, held := false, spilled := false }

/-- A partition number that no MKPART has used (R345, R397), with the resets of R302 and R354. -/
def Part.reset : Part :=
  { on := false, ownStacks := [], chunks := 0, lpShare := 0, power := 0, ptroot := 0, liveRoot := 0,
    savebase := 0, qbase := 0, mbox := 0, gchunks := 0, dominfo := 0, wdctl := 10, wdrep := [],
    overflow := false, rejections := [], mail := [], queued := [], stopped := 0, commands := [], trstat := 0,
    migctl := 0, migstat := 0, halvedAt := 0, paired := [], hostWindows := [], posted := false,
    lastLaunch := [] }

/-- The management units after bring-up steps 1 to 4 (R398): OP6, image A running (log 2). -/
def Mgmt.reset : Mgmt :=
  { power := .op 6, before := .op 6, warning := none, clearing := none, clamp := false,
    limit1 := false, limitGroups := 8, tripped := false, railsOff := false, rackSeq := none, rackCap := none,
    leaseEnd := none, floor := 0, onFloor := false, accepted := 0, acceptDone := false, ports := 0,
    log := [], nextSeq := 1, folded := [], imageA := { valid := true, version := 0 },
    imageB := { valid := false, version := 0 }, activeA := true, booted := { valid := true, version := 0 }, fwWriting := none,
    training := false, leftOut := [], entering := none, pf0Port := 0, pbrId := 0, fuse := 0,
    halted := false, samples := [], sampledAt := 0, hot := [], voided := false,
    phases := [], moduleNumber := 0, topModule := 0, saveSeq := 0 }

/-- The machine right after module reset (R398): OP6, no partition, no launch, every context stopped at
its reset values, memory with nothing listed. Log 2 names the values the spec does not state. -/
def State.reset : State :=
  { ctxs := Vector.replicate 12 Ctx.reset, cur := 0, ir := 0, stack := 0, vault := 0, core := 0,
    tiles := Vector.replicate 2 none, savedTiles := [], remote := [], sd := Vector.replicate 8 none,
    acc := Vector.replicate 2 none, wm := Vector.replicate 16 none, full := [], present := [],
    restoreFull := [], emptied := [], outside := [], laneCap := 8, checks := [], resetAt := none, landSince := none, forwards := [], mem := [],
    rows := [], latches := [], redTags := [], hostLines := [], hdmLines := [], watches := [], failing := [], failed := [], pending := [], late := false, refresh := [],
    parts := Vector.replicate 16 Part.reset, launches := [], nextLaunch := 1, throws := [],
    replies := [], collMembers := [], tlb := [], grants := [], regroups := [], regions := [], nextHandle := 1,
    chunks := [], mgmt := Mgmt.reset, history := [], codeNew := 0, codeLaunch := 0, now := 0, counted := 0, outbox := [],
    sched := [], stopAt := none, draws := 0 }

end Sys2Proof.Machine
end

