-- ==== Sys2Proof/Machine/Ops.lean ====
section
/-!
DEFINITION. The named operations over contexts and registers: who a context is, reading and writing
registers, retiring an instruction, leaving code by a jump, taking a trap, ending guests and tiles,
resetting a core, and the shape of a meaning (a state, or a reason to stop).
-/
namespace Sys2Proof.Machine

/-! ### Who a context is -/

/-- Contexts 0 and 1 are the needles of tile slots 0 and 1, 2 to 9 the stitches of context slots 0 to 7,
10 and 11 the guests (R16, R38, R333). -/
def kindOf (c : Fin 12) : Kind := if c.val < 2 then .needle else if c.val < 10 then .stitch else .guest

/-- The number of a context within its kind: tile slot, context slot or guest slot (R57, R333). -/
def numOf (c : Fin 12) : Nat := if c.val < 2 then c.val else if c.val < 10 then c.val - 2 else c.val - 10

/-- The context that moves. -/
def State.ctx (s : State) : Ctx := s.ctxs.get s.cur

/-- The contexts of the tiles that pre-emption has taken off the core (R344). -/
def State.savedCtxs (s : State) : List Ctx := s.savedTiles.flatMap fun t => t.ctxs.map (·.2)

/-- Every context of the core but `c`, those of saved tiles among them. -/
def State.others (s : State) (c : Fin 12) : List Ctx :=
  ((List.range 12).filter (· != c.val)).map (fun n => s.ctxs.get (Fin.ofNat 12 n)) ++ s.savedCtxs

/-- The state with context `c` changed by `f`. -/
def State.updAt (s : State) (c : Fin 12) (f : Ctx → Ctx) : State :=
  { s with ctxs := s.ctxs.set c.val (f (s.ctxs.get c)) c.isLt }

/-- The state with the moving context changed by `f`. -/
def State.upd (s : State) (f : Ctx → Ctx) : State := s.updAt s.cur f

/-- The kind of the moving context. -/
def State.kind (s : State) : Kind := kindOf s.cur

/-- A context number as an index. -/
def ctxIx (n : Nat) : Fin 12 := Fin.ofNat 12 n

/-- The core's number in the module. -/
def State.coreId (s : State) : Nat := (s.stack.toNat * 32 + s.vault.toNat) * 4 + s.core.toNat

/-- The ident of a place and a context there (R57). -/
def mkIdent (core kind num : Nat) : BitVec 16 := BitVec.ofNat 16 (core * 32 + kind * 8 + num)

/-- The code of a kind in ident (R57). -/
def kindCode : Kind → Nat
  | .needle => 0
  | .stitch => 1
  | .guest => 2

/-- The ident of one of this core's contexts (R57, R333). -/
def State.ident (s : State) (c : Fin 12) : BitVec 16 := mkIdent s.coreId (kindCode (kindOf c)) (numOf c)

/-- The ident with the module number in [21:16] (R280). -/
def State.farIdent (s : State) (c : Fin 12) : Word :=
  BitVec.ofNat 64 (s.mgmt.moduleNumber * 65536 + (s.ident c).toNat)

/-- The context of this core that an ident names, if it does (R57). -/
def State.local (s : State) (id : Nat) : Option (Fin 12) :=
  if id / 32 % 2048 != s.coreId then none
  else
    match id / 8 % 4, id % 8 with
    | 0, n => if n < 2 then some (ctxIx n) else none
    | 1, n => some (ctxIx (n + 2))
    | 2, n => if n < 2 then some (ctxIx (n + 10)) else none
    | _, _ => none

/-- The tile in a tile slot. -/
def State.tileAt (s : State) (slot : Nat) : Option Tile := s.tiles.get (Fin.ofNat 2 slot)

/-- The tile holds this context slot (R333). -/
def Tile.holds (t : Tile) (k : Nat) : Bool := t.base ≤ k && k < t.base + t.count

/-- The tile slot a context belongs to: a needle's own, the slot whose tile holds the stitch, or 0. -/
def State.slotOf (s : State) (c : Fin 12) : Nat :=
  match kindOf c with
  | .needle => numOf c
  | .guest => 0
  | .stitch =>
    match s.tileAt 1 with
    | some t => if t.holds (numOf c) then 1 else 0
    | none => 0

/-- The tile of a context; a guest has none. -/
def State.tileOf (s : State) (c : Fin 12) : Option Tile :=
  if kindOf c = .guest then none else s.tileAt (s.slotOf c)

/-- The stitch count of the context's tile; 0 without a tile (R20, R246). -/
def State.stitches (s : State) : Nat := ((s.tileOf s.cur).map (·.count)).getD 0

/-- The context of stitch `n` of the moving context's tile (R333). -/
def State.stitchIx (s : State) (n : Nat) : Fin 12 :=
  ctxIx (2 + ((s.tileOf s.cur).map (·.base)).getD 0 + n)

/-- The number of a stitch within its tile (R246, R333). -/
def State.stitchNo (s : State) (c : Fin 12) : Nat := numOf c - ((s.tileOf c).map (·.base)).getD 0

/-- The contexts of a tile: its needle and its stitches. -/
def tileCtxs (slot : Nat) (t : Tile) : List (Fin 12) :=
  ctxIx slot :: (List.range t.count).map fun n => ctxIx (2 + t.base + n)

/-- The launch of the context's tile. -/
def State.launchOf (s : State) (c : Fin 12) : Option Nat := (s.tileOf c).map (·.launch)

/-- The launch priority of a context's tile. DESIGN CHOICE (log 84): a guest, which the spec gives no priority, counts as 0. -/
def State.prioOf (s : State) (c : Fin 12) : Nat := ((s.tileOf c).map (·.prio)).getD 0

/-- A partition number as an index. -/
def partIx (n : Nat) : Fin 16 := Fin.ofNat 16 n

/-- The first partition that owns a stack (R345). -/
def State.ownerOf (s : State) (stack : Nat) : Option (Fin 16) :=
  ((List.range 16).map partIx).find? fun p => (s.parts.get p).on && (s.parts.get p).ownStacks.contains stack

/-- The partition of this core's stack; 0 where no partition owns it (R345). -/
def State.corePart (s : State) : Fin 16 := (s.ownerOf s.stack.toNat).getD 0

/-- The partition a context translates in: a guest's is its thrower's (R34, R345). -/
def State.partOf (s : State) (c : Fin 12) : Fin 16 :=
  match (s.ctxs.get c).guest with
  | some g => partIx g.partition
  | none => s.corePart

/-- A partition. -/
def State.part (s : State) (p : Fin 16) : Part := s.parts.get p

/-- The state with a partition changed. -/
def State.updPart (s : State) (p : Fin 16) (f : Part → Part) : State :=
  { s with parts := s.parts.set p.val (f (s.parts.get p)) p.isLt }

/-- The privilege a context runs at: only a needle leaves U (R297). -/
def State.privOf (s : State) (c : Fin 12) : Nat :=
  if kindOf c = .needle then (s.ctxs.get c).priv.toNat else 0

/-- The state with a tile slot changed. -/
def State.setTile (s : State) (slot : Nat) (t : Option Tile) : State :=
  { s with tiles := s.tiles.set (Fin.ofNat 2 slot).val t (Fin.ofNat 2 slot).isLt }

/-- The state with a launch changed. -/
def State.updLaunch (s : State) (id : Nat) (f : Launch → Launch) : State :=
  { s with launches := s.launches.map fun l => if l.id = id then f l else l }

/-! ### Registers -/

/-- X[n]: x0 reads 0 (R7, R40). -/
def Ctx.rx (c : Ctx) (n : BitVec 5) : Word := if n = 0 then 0 else c.x.get n.toFin

/-- X[d] = v: a write to x0 is discarded (R7, R40). -/
def Ctx.setX (c : Ctx) (d : BitVec 5) (v : Word) : Ctx :=
  if d = 0 then c else { c with x := c.x.set d.toNat v d.isLt }

/-- The ldst record of a scalar destination (R54, R57). -/
def ldX (d : BitVec 5) : BitVec 8 := 0x80#8 ||| d.setWidth 8

/-- The ldst record of a vector destination group (R54, R57). -/
def ldV (d : BitVec 5) : BitVec 8 := 0xA0#8 ||| d.setWidth 8

/-- The ldst record of a mask destination (R54, R57). -/
def ldK (d : BitVec 3) : BitVec 8 := 0xC0#8 ||| d.setWidth 8

/-- ldst with V = 0; the spec names no change of its other fields (R54, log 12). -/
def ldNone (ld : BitVec 8) : BitVec 8 := ld &&& 0x7F#8

/-- A guest spends one instruction of its budget (R281). -/
def GuestInfo.spend (g : GuestInfo) : GuestInfo := { g with budget := g.budget - 1 }

/-- What every retirement does: ldst, instret, a guest's budget (R54, R157, R281). -/
def Ctx.retire (c : Ctx) (ld : BitVec 8) : Ctx :=
  { c with ldst := ld, instret := c.instret + 1, held := false, wait := none, spilled := false, begun := false,
           pushed := [], reserve := none, guest := c.guest.map GuestInfo.spend }

/-- Retirement that goes on at the next instruction. -/
def Ctx.next (c : Ctx) (len : Nat) (ld : BitVec 8) : Ctx :=
  { c.retire ld with pc := c.pc + BitVec.ofNat 64 len }

/-- A base-form instruction that writes X[d] retires. -/
def State.doneX (s : State) (len : Nat) (d : BitVec 5) (v : Word) : State :=
  s.upd fun c => (c.setX d v).next len (ldX d)

/-- An instruction without an x, v or k destination retires. -/
def State.done (s : State) (len : Nat) : State := s.upd fun c => c.next len (ldNone c.ldst)

/-! ### Lane groups -/

/-- `g` lane groups over `n` stitches: equal shares, the remainder to the lowest (R24). -/
def laneShare (g n i : Nat) : BitVec 6 := BitVec.ofNat 6 (4 * (g / n + natOf (decide (i < g % n))))

/-- The lane groups of the core: eight, or those that limit 1 leaves (R24, R384). -/
def State.coreGroups (s : State) : Nat := if s.mgmt.limit1 then s.mgmt.limitGroups else 8

/-- The phase table's entry for a launch, while the driver has accepted the feature (R389). -/
def State.phaseRow (s : State) (l : Launch) : Option PhaseRow :=
  if s.mgmt.accepted.getLsbD 0 then
    s.mgmt.phases.find? fun r => r.entry == l.desc.entry && r.marker == l.phase
  else none

/-- The lane groups a launch of a priority may hold: the cap binds priorities 0 to 6 (R311). -/
def State.laneGroups (s : State) (prio : Nat) : Nat :=
  if prio = 7 then s.coreGroups else min s.coreGroups s.laneCap.toNat

/-- The lanes that the core's contexts hold together (R24). -/
def State.lanesHeld (s : State) : Nat := (s.ctxs.toList.map fun c => c.alc.toNat).foldl (· + ·) 0

/-- The stitch that gives up a lane group for a guest. DESIGN CHOICE (log 68): the one that holds most lanes, among
equals the highest context. -/
def State.richest (s : State) : Fin 12 :=
  (span 2 8).foldl (fun b n => if (s.ctxs.get b).alc ≤ (s.ctxs.get (ctxIx n)).alc then ctxIx n else b) 2

/-- A guest's context with the context that lends it a group. -/
def Ctx.owes (c : Ctx) (n : Option Nat) : Ctx := { c with guest := c.guest.map fun g => { g with lender := n } }

/-- A lane group of a stitch is lent to the guest `c`, where the core has none unheld (R24, R34). -/
def State.lendTo (s : State) (c : Fin 12) : State :=
  if s.lanesHeld ≤ 4 * s.coreGroups then s
  else
    let b := s.richest
    (s.updAt b fun x => { x with alc := x.alc - 4 }).updAt c fun x => x.owes (some b.val)

/-- A guest takes its lane group (R34). -/
def State.borrow (s : State) (c : Fin 12) : State := (s.updAt c fun x => { x with alc := 4 }).lendTo c

/-- A guest gives its lane group back to the stitch that lent it (R34). -/
def State.giveBack (s : State) (c : Fin 12) : State :=
  let x := s.ctxs.get c
  let s := s.updAt c fun x => { x.owes none with alc := 0 }
  match x.guest.bind (·.lender) with
  | none => s
  | some n => s.updAt (ctxIx n) fun x => { x with alc := x.alc + 4 }

/-- A tile's stitches share `g` groups as at its start (R24, R336). A guest that holds a group then has it from one of
them if the core has no other. -/
def State.shareLanes (s : State) (t : Tile) (g : Nat) : State :=
  let s := (List.range t.count).foldl (fun s i => s.updAt (ctxIx (2 + t.base + i)) fun c =>
    { c with alc := laneShare g t.count i }) s
  [10, 11].foldl (fun s n =>
    let c := ctxIx n
    match (s.ctxs.get c).guest.bind (·.lender) with
    | some l => if 2 + t.base ≤ l && l < 2 + t.base + t.count then (s.updAt c (Ctx.owes · none)).lendTo c else s
    | none => if (s.ctxs.get c).alc = 0 then s else s.lendTo c) s

/-- Contexts that hold lanes no longer have none to get back from a guest. -/
def State.forgiveLoans (s : State) (cs : List (Fin 12)) : State :=
  [10, 11].foldl (fun s n => s.updAt (ctxIx n) fun x =>
    if (x.guest.bind (·.lender)).any fun l => cs.contains (ctxIx l) then x.owes none else x) s

/-! ### Ending guests, tiles and cores -/

/-- A machine check becomes pending at the needle of a tile slot. A 0x37 that waits is not queued again
(R299, R300, log 9). -/
def State.check (s : State) (slot : Nat) (code : BitVec 8) (info : Word) : State :=
  if code = 0x37#8 && s.checks.any (fun m => m.code == code && m.slot == slot) then s
  else { s with checks := s.checks ++ [{ slot := slot, code := code, info := info }] }

/-- A message leaves the core or the module. -/
def State.send (s : State) (m : Message) : State := { s with outbox := s.outbox ++ [m] }

/-- The core whose needle takes the machine check of a core that is reset: its own, but core 1 for core 0 of vault 0 of a
stack (R300). -/
def resetCheckCore (core : Nat) : Nat := if core % 128 = 0 then core + 1 else core

/-- A machine check goes to the needle of a tile slot of this core, or to another core's needle (R300). -/
def State.checkAt (s : State) (core slot : Nat) (code : BitVec 8) (info : Word) : State :=
  if core = s.coreId then s.check slot code info else s.send (.check core code info)

/-- A reply as a vendor-defined message carries it (R373). -/
def replyBytes (thrower ticket : Word) (r : Reply) : List Byte :=
  leBytes 1 3 ++ leBytes 1 (natOf r.gcause.isSome) ++ leBytes 6 0 ++ leBytes 4 thrower.toNat ++ leBytes 4 0 ++
    leBytes 8 ticket.toNat ++ leBytes 8 ((r.gcause.map (·.toNat)).getD 0) ++ leBytes 8 r.info.toNat ++ leBytes 8 0 ++
    (List.range 4).flatMap (fun i => leBytes 8 (((r.vals[i]?).map (·.toNat)).getD 0)) ++ leBytes 32 0

/-- The stores of contexts that others have not seen yet are no context's any more: `n` says whose they were (12 an
ended tile's, 13 an ended guest's, 14 those of a core that was reset). -/
def State.disown (s : State) (cs : List (Fin 12)) (n : Nat) : State :=
  { s with pending := s.pending.map fun e => if cs.any (fun c => c.val == e.ctx) then { e with ctx := n } else e }

/-- A guest ends and its reply goes to its thrower; without a ticket it is discarded (R279, R281). -/
def State.endGuest (s : State) (c : Fin 12) (r : Reply) : State :=
  match (s.ctxs.get c).guest with
  | none => s.updAt c fun _ => Ctx.reset
  | some g =>
    let s := ((s.giveBack c).disown [c] 13).updAt c fun _ => Ctx.reset
    if bitOf g.ticket 3 then
      match (if g.thrower.toNat / 65536 == s.mgmt.moduleNumber then s.local g.thrower.toNat else none) with
      | some t => { s with replies := s.replies ++ [(t, g.ticket, r)] }
      | none =>
        let module := g.thrower.toNat / 65536 % 64
        if module = s.mgmt.moduleNumber then s.send (.replyOut g.thrower g.ticket r)
        else s.send (.vdm module (replyBytes g.thrower g.ticket r))
    else s

/-- The regions, accumulator tiles and bank lock a context holds become free; freed macros stay outside
every map until the tile ends (R117, R242, R243). -/
def State.dropHoldings (s : State) (c : Fin 12) : State :=
  let mine : Option Region → Bool := fun r => kindOf c = .stitch && (r.map (·.owner)) == some (numOf c)
  let freed := s.sd.toList.filter mine
  let macros := freed.flatMap fun r => (r.map fun r => span r.macro0 (r.kmac * r.nmac)).getD []
  { s with
    sd := s.sd.map fun r => if mine r then none else r,
    acc := s.acc.map fun a =>
      if kindOf c = .stitch && (a.map (·.owner)) == some (numOf c) then none else a,
    outside := macros.foldl (fun l m => setAdd m l) s.outside
    ctxs := s.ctxs.set c.val { s.ctxs.get c with lock := none } c.isLt }

/-- Every collective a context has issued and that is not complete is aborted (R286). -/
def State.abortColls (s : State) (c : Fin 12) : State :=
  s.updAt c fun x => { x with colls := x.colls.map fun k => { k with mem := { k.mem with aborted := true } } }

/-- A tile ends: its contexts stop, its bindings, regions, tiles and locks are freed, its lane groups go
back to the core's other tile, its launch counts it (R16, R39, R331, R336, R339). -/
def State.endTile (s : State) (slot : Nat) (early : Bool) : State :=
  match s.tileAt slot with
  | none => s
  | some t =>
    let cs := tileCtxs slot t
    let split := (List.range t.count).map fun i => (s.ctxs.get (ctxIx (2 + t.base + i))).alc.toNat / 4
    let s := cs.foldl State.dropHoldings s
    let s := if early then cs.foldl State.abortColls s else s
    let s := cs.foldl (fun s c => s.updAt c fun x =>
      { x with run := .stopped, wait := none, castEnd := none, planes := [], planeErr := [], alc := 0,
               sq := Vector.replicate 8 none, events := [], early := [], begun := false, pushed := [],
               reserve := none, saved := false }) s
    let s := (s.forgiveLoans cs).disown cs 12
    let s := { s with
      wm := s.wm.map fun (w : Option Watermark) => if w.any (fun (b : Watermark) => b.slot == slot) then none else w,
      outside := if t.desc.second then s.outside else [],
      present := if t.desc.second then s.present else [],
      restoreFull := if t.desc.second then s.restoreFull else [],
      emptied := if t.desc.second then s.emptied else [] }
    let s := s.setTile slot none
    let s := s.updLaunch t.launch fun l =>
      { l with running := l.running - 1, ended := l.ended + 1, early := l.early + natOf early, split := split }
    match s.tileAt (1 - slot) with
    | some o => s.shareLanes o (s.laneGroups o.prio)
    | none => s

/-- The core is reset as CRESET resets it: every context ends, everything of it is freed, its tiles end
early; guests end with no reply; a tile that has left the core is not on it; the stores that only its contexts saw are
still to be written back (R313). -/
def State.resetCore (s : State) : State :=
  let s := s.disown ((List.range 12).map ctxIx) 14
  let s := s.endTile 0 true
  let s := s.endTile 1 true
  let s := [10, 11].foldl (fun s n => s.updAt (ctxIx n) fun _ => Ctx.reset) s
  { s with sd := Vector.replicate 8 none, acc := Vector.replicate 2 none, wm := Vector.replicate 16 none,
           present := [], resetAt := some s.now }

/-! ### Traps -/

/-- The bits that an address register holds: [54:1] (R303). -/
def addressBits : Word := 0x7FFFFFFFFFFFFE#64

/-- The needle `c` enters the handler of level 0, 1 or 2 (R304). A level whose vector is 0 raises 0x37 in
place of entry, and the needle stands at a boundary for it (R300). Events 0x11, 0x12 and codes from 0x20 are asynchronous. -/
def State.enter (s : State) (c : Fin 12) (level : Nat) (cause src : BitVec 8) (ep info : Word) : State :=
  let x := s.ctxs.get c
  let y := x.sys
  let ep := ep &&& addressBits
  let asyn := decide (0x20 ≤ cause.toNat) || cause == 0x11#8 || cause == 0x12#8
  let code : Word := zx cause ||| zx src <<< 8
  let status : Word := BitVec.ofNat 64 (x.ldst.toNat * 256 + 128 + x.priv.toNat * 16)
  let entered (y : SysRegs) (priv : BitVec 2) (vec : Word) : State :=
    s.updAt c fun x => { x with sys := y, priv := priv, pc := vec, seqOn := false, castEnd := none,
                                run := .running, wait := none, met := 0, held := false }
  let missing : State := (s.updAt c fun x => { x with held := false }).check (numOf c) 0x37#8 (zx (s.ident c))
  match level with
  | 0 => entered { y with uepc := ep, ucause := code, uinfo := info,
                          ustat := BitVec.ofNat 64 (x.ldst.toNat * 256 + 1) } x.priv y.uevec
  | 1 =>
    if y.svec = 0 then missing
    else entered { y with sepc := ep, scause := code ||| BitVec.ofNat 64 (natOf asyn * 65536),
                          sinfo := info, sstat := status } 1 y.svec
  | _ =>
    if y.mvec = 0 then missing
    else entered { y with mepc := ep, mcause := code ||| BitVec.ofNat 64 (natOf asyn * 65536),
                          minfo := info, mstat := status } 2 y.mvec

/-- A stitch faults alone and posts an event to its needle (R23, R252). What its instruction has renamed stays renamed
(R260). -/
def State.faultStitch (s : State) (c : Fin 12) (cause : BitVec 8) (info ep : Word) : State :=
  let s := s.updAt c fun x => { x with run := .faulted, wait := none, met := 0, held := false,
                                       pushed := [], reserve := none, faultCause := cause, faultInfo := info, pc := ep }
  s.updAt (ctxIx (s.slotOf c)) fun n =>
    { n with events := n.events ++ [{ code := 0x11, src := BitVec.ofNat 8 (s.stitchNo c), info := info }] }

/-- A synchronous trap of the moving context with resume address `ep` (R298, R300). The source of a
needle's own trap is 0xFF (R303). -/
def State.raiseAt (s : State) (cause : BitVec 8) (info ep : Word) : State :=
  match s.kind with
  | .stitch => s.faultStitch s.cur cause info ep
  | .guest => s.endGuest s.cur { gcause := some cause, info := info, vals := [] }
  | .needle =>
    match s.ctx.priv.toNat with
    | 0 => s.enter s.cur 1 cause 0xFF ep info
    | 1 => s.enter s.cur 2 cause 0xFF ep info
    | _ => (s.resetCore).checkAt (resetCheckCore s.coreId) (numOf s.cur) 0x37#8 (zx (s.ident s.cur))

/-- An access that has failed for want of a completion is noted, for the event log (R364, R372). -/
def State.noteFail (s : State) (info : Word) : State :=
  match s.failing.find? fun f => f.ctx == s.cur.val && f.addr == info.toNat with
  | none => s
  | some f => { s with failing := s.failing.erase f, failed := s.failed ++ [f] }

/-- A synchronous trap whose resume address is the instruction itself (R298). -/
def State.raise (s : State) (cause : BitVec 8) (info : Word) : State :=
  (if cause = 0x04#8 || cause = 0x05#8 then s.noteFail info else s).raiseAt cause info s.ctx.pc

/-- A jump leaves every T level whose range does not hold the target (R18), unless the sequencer is
disabled (R304). -/
def leaveLevels (t : Option Tile) (target : Word) (c : Ctx) : Ctx :=
  match t with
  | none => c
  | some t =>
    if !c.seqOn then c
    else
      { c with levels := Vector.ofFn fun n =>
          match t.desc.levels[n.val]? with
          | some l =>
            if l.kind == 2 && (target.toNat < l.start || l.stop ≤ target.toNat) then LoopLevel.idle
            else c.levels.get n
          | none => c.levels.get n }

/-- The address whose jump ends a guest (R280). -/
def replyAddr : Word := 0x7FFFFFFFBFFFF0#64

/-- A taken transfer of control of an instruction that retires with record `ld` (R18, R151, R247, R281). -/
def State.jump (s : State) (target : Word) (ld : BitVec 8) : State :=
  let t := if s.kind = .needle then s.tileOf s.cur else none
  let s := s.upd fun c => { leaveLevels t target (c.retire ld) with pc := target, castEnd := none }
  if s.kind = .guest && target = replyAddr then
    s.endGuest s.cur { gcause := none, info := 0, vals := [s.ctx.rx 10, s.ctx.rx 11, s.ctx.rx 12, s.ctx.rx 13] }
  else s

/-! ### Meanings -/

/-- Why a meaning ends before its instruction retires: a trap, a stall that runs the instruction again, a
stall during which a needle takes pending traps (R301) or a pre-emption point inside it (R338), or an
architectural wait (R36). -/
inductive Stop where
  | trap (cause : BitVec 8) (info : Word)
  | stall
  | pause
  | wait (w : WaitCond) (unbounded : Bool)
deriving DecidableEq, Repr

/-- A meaning reads and changes the state and may stop; what it changed before a stop stays. -/
abbrev M := EStateM Stop State

/-- The context stands on the core, and no save, no freeze and no entry into RET holds it (R337, R386). -/
def State.stays (s : State) (c : Fin 12) : Bool :=
  !(s.ctxs.get c).saved && s.mgmt.entering.isNone &&
    (match s.tileOf c with
     | some t => !t.frozen && !t.stopping
     | none => kindOf c == .guest)

/-- The context may be chosen to move: it runs, and neither a save nor a power state holds it. -/
def State.movable (s : State) (c : Fin 12) : Bool := (s.ctxs.get c).run == .running && s.stays c

/-- The outcome of a meaning. A trap is taken; a stall leaves the context where it is; a wait parks it. -/
def settle (m : M Unit) (s : State) : Host.Outcome State Fault Refusal :=
  match m s with
  | .ok _ s => .next s
  | .error (.trap cause info) s => .next (s.raise cause info)
  | .error .stall s => .next (s.upd fun c => { c with held := true })
  | .error .pause s => .next s
  | .error (.wait w u) s =>
    .next (s.upd fun c => { c with run := .waiting, wait := some w, unbounded := u })

/-- The moving context. -/
def getC : M Ctx := fun s => .ok s.ctx s

/-- Change the moving context. -/
def modC (f : Ctx → Ctx) : M Unit := fun s => .ok () (s.upd f)

/-- Change the state. -/
def modS (f : State → State) : M Unit := fun s => .ok () (f s)

/-- End with a trap. -/
def trap (cause : BitVec 8) (info : Word) : M α := fun s => .error (.trap cause info) s

/-- End with a trap unless the condition holds. -/
def demand (ok : Bool) (cause : BitVec 8) (info : Word) : M Unit := if ok then pure () else trap cause info

/-- The bits of the instruction, the info of causes 0x01 and 0x02 (R136, R298). -/
def irOf : M Word := fun s => .ok s.ir s

/-- Cause 0x01 with the instruction bits. -/
def illegal : M α := fun s => .error (.trap 0x01#8 s.ir) s

/-- Cause 0x02 with the instruction bits. -/
def reserved : M α := fun s => .error (.trap 0x02#8 s.ir) s

/-- On a guest, cause 0x0D with the instruction's pc (R281). -/
def notGuest : M Unit := fun s =>
  if s.kind = .guest then .error (.trap 0x0D#8 s.ctx.pc) s else .ok () s

/-- On a needle, cause 0x01 (R38). -/
def notNeedle : M Unit := fun s => if s.kind = .needle then .error (.trap 0x01#8 s.ir) s else .ok () s

/-- Only a stitch: cause 0x01 on a needle, 0x0D on a guest (R38, R246). -/
def onlyStitch : M Unit := do notNeedle; notGuest

/-- Only a needle: cause 0x01 on a stitch, 0x0D on a guest (R246). -/
def onlyNeedle : M Unit := fun s =>
  match s.kind with
  | .needle => .ok () s
  | .stitch => .error (.trap 0x01#8 s.ir) s
  | .guest => .error (.trap 0x0D#8 s.ctx.pc) s

/-- A system-group instruction of a level above U: the needle alone, at that privilege or above; the check is
step 6 of R136, on every kind of context (R129, R297, log 63). -/
def needLevel (level : Nat) : M Unit := fun s =>
  if s.kind = .needle ∧ level ≤ s.ctx.priv.toNat then .ok () s else .error (.trap 0x01#8 s.ir) s

/-- A scope field of 0b111 (R6). -/
def scopeOk (sc : BitVec 3) : M Unit := if sc = 7 then illegal else pure ()

/-- Retire and go on, writing X[d]. -/
def retireX (len : Nat) (d : BitVec 5) (v : Word) : M Unit := modS fun s => s.doneX len d v

/-- Retire and go on without a recorded destination. -/
def retire (len : Nat) : M Unit := modS fun s => s.done len

/-- The next value of the counter that free values are applied to (log 4). -/
def draw : M Nat := fun s => .ok s.draws { s with draws := s.draws + 1 }

end Sys2Proof.Machine
end

