-- ==== Sys2Proof/Machine/Float.lean ====
section
/-!
DEFINITION. Floating-point formats, rounding and arithmetic on exact rationals (R62, R63, R66 to R71).
A value that rounds is an exact fraction; irrational results are held as a fraction that lies strictly
between the same neighbours at every precision a rule asks for (log 13).
-/
namespace Sys2Proof.Machine

/-- A floating-point format (R62): exponent bits, precision, bias, and whether it is E4M3. -/
structure FFmt where
  w : Nat
  p : Nat
  bias : Nat
  e4m3 : Bool
deriving DecidableEq, Repr

def binary64 : FFmt := { w := 11, p := 53, bias := 1023, e4m3 := false }
def binary32 : FFmt := { w := 8, p := 24, bias := 127, e4m3 := false }
def binary16 : FFmt := { w := 5, p := 11, bias := 15, e4m3 := false }
def bfloat16 : FFmt := { w := 8, p := 8, bias := 127, e4m3 := false }
def fp8e5m2 : FFmt := { w := 5, p := 3, bias := 15, e4m3 := false }
def fp8e4m3 : FFmt := { w := 4, p := 4, bias := 7, e4m3 := true }

/-- The format of a tag (R41, R62): fmt code and width in bits; none for a tag that is no float. -/
def floatOf (fmt width : Nat) : Option FFmt :=
  match fmt, width with
  | 3, 16 => some binary16
  | 3, 32 => some binary32
  | 3, 64 => some binary64
  | 4, 16 => some bfloat16
  | 5, 8 => some fp8e4m3
  | 6, 8 => some fp8e5m2
  | _, _ => none

/-- The format that an ft field names (R128). -/
def ftFormat (t : BitVec 2) : FFmt :=
  match t.toNat with
  | 0 => binary32
  | 1 => binary64
  | 2 => binary16
  | _ => bfloat16

/-- The width of a format in bits (R62). -/
def FFmt.bits (f : FFmt) : Nat := f.w + f.p

/-- The canonical quiet NaN (R63). -/
def FFmt.qnan (f : FFmt) : Nat :=
  if f.e4m3 then 0x7F else (2 ^ f.w - 1) * 2 ^ (f.p - 1) + 2 ^ (f.p - 2)

/-- The sign bit at the top (R62). -/
def FFmt.signBit (f : FFmt) (neg : Bool) : Nat := if neg then 2 ^ (f.bits - 1) else 0

/-- An infinity of a format that has one (R62). -/
def FFmt.inf (f : FFmt) (neg : Bool) : Nat := f.signBit neg + (2 ^ f.w - 1) * 2 ^ (f.p - 1)

/-- The largest finite pattern of a sign (R62). -/
def FFmt.maxFinite (f : FFmt) (neg : Bool) : Nat :=
  f.signBit neg + (if f.e4m3 then 0x7E else (2 ^ f.w - 1) * 2 ^ (f.p - 1) - 1)

/-- A zero of a sign. -/
def FFmt.zero (f : FFmt) (neg : Bool) : Nat := f.signBit neg

/-- What a pattern stands for: a NaN, an infinity, or (-1)^neg × m × 2^e (R62, R63). -/
inductive FVal where
  | nan (signalling : Bool)
  | inf (neg : Bool)
  | num (neg : Bool) (m : Nat) (e : Int)
deriving DecidableEq, Repr

/-- Decode a pattern (R62). -/
def FFmt.decode (f : FFmt) (v : Nat) : FVal :=
  let v := v % 2 ^ f.bits
  let neg := v / 2 ^ (f.bits - 1) == 1
  let ef := v / 2 ^ (f.p - 1) % 2 ^ f.w
  let fr := v % 2 ^ (f.p - 1)
  if f.e4m3 && ef == 15 && fr == 7 then .nan false
  else if !f.e4m3 && ef == 2 ^ f.w - 1 then
    (if fr == 0 then .inf neg else .nan (fr / 2 ^ (f.p - 2) == 0))
  else if ef == 0 then .num neg fr (1 - (f.bias : Int) - (f.p - 1 : Nat))
  else .num neg (2 ^ (f.p - 1) + fr) ((ef : Int) - f.bias - (f.p - 1 : Nat))

/-- An exact value: sign and fraction (R7). A zero numerator keeps its sign. -/
structure Exact where
  neg : Bool
  n : Nat
  d : Nat
deriving DecidableEq, Repr

/-- m × 2^e as a fraction. -/
def dyadic (neg : Bool) (m : Nat) (e : Int) : Exact :=
  if 0 ≤ e then { neg := neg, n := m * 2 ^ e.toNat, d := 1 }
  else { neg := neg, n := m, d := 2 ^ (-e).toNat }

/-- The signed numerator. -/
def Exact.int (x : Exact) : Int := if x.neg then -(x.n : Int) else x.n

/-- A fraction with a signed numerator; zero is positive. -/
def Exact.ofInt (n : Int) (d : Nat) : Exact := { neg := n < 0, n := n.natAbs, d := d }

def Exact.add (x y : Exact) : Exact := Exact.ofInt (x.int * y.d + y.int * x.d) (x.d * y.d)
def Exact.mul (x y : Exact) : Exact := { neg := x.neg != y.neg, n := x.n * y.n, d := x.d * y.d }
def Exact.scale (x : Exact) (e : Int) : Exact := x.mul (dyadic false 1 e)
def Exact.minus (x : Exact) : Exact := { x with neg := !x.neg }

/-- fflags bits (R57). -/
def flagNV : BitVec 5 := 16
def flagDZ : BitVec 5 := 8
def flagOF : BitVec 5 := 4
def flagUF : BitVec 5 := 2
def flagNX : BitVec 5 := 1

/-- The rounding modes of R66 by code; RSR carries its draw (R67, R68). -/
structure RMode where
  code : Nat
  u : Nat
deriving DecidableEq, Repr

def rne : RMode := { code := 0, u := 0 }

/-- The magnitude of (-1)^neg × n/d rounded to an integer (R66, R68). -/
def roundMag (r : RMode) (neg : Bool) (n d : Nat) : Nat :=
  let q := n / d
  let t := n % d
  let up :=
    match r.code with
    | 0 => d < 2 * t || (2 * t == d && q % 2 == 1)
    | 1 => false
    | 2 => neg && t != 0
    | 3 => !neg && t != 0
    | 4 => d ≤ 2 * t
    | _ =>
      if t == 0 then false
      else if neg then (d - t) * 2 ^ 32 / d + r.u < 2 ^ 32
      else 2 ^ 32 ≤ t * 2 ^ 32 / d + r.u
  if up then q + 1 else q

/-- n/d scaled by 2^(-e): the fraction whose integer part counts units of 2^e. -/
def unitsOf (n d : Nat) (e : Int) : Nat × Nat :=
  if 0 ≤ e then (n, d * 2 ^ e.toNat) else (n * 2 ^ (-e).toNat, d)

/-- floor(log2 (n/d)) for n > 0. -/
def log2Frac (n d : Nat) : Int :=
  let g : Int := (Nat.log2 n : Int) - (Nat.log2 d : Int)
  let (a, b) := unitsOf n d g
  if b ≤ a then g else g - 1

/-- The pattern of a magnitude of `s` units of 2^e, where `s` has at most p bits and a carry to p + 1. -/
def FFmt.pack (f : FFmt) (neg : Bool) (s : Nat) (e : Int) : Nat :=
  let (s, e) := if s == 2 ^ f.p then (s / 2, e + 1) else (s, e)
  f.signBit neg +
    (if s < 2 ^ (f.p - 1) then s
     else (e + (f.p - 1 : Nat) + f.bias).toNat * 2 ^ (f.p - 1) + (s - 2 ^ (f.p - 1)))

/-- The result of an overflow (R66, R68, R71). -/
def FFmt.overflow (f : FFmt) (r : RMode) (neg : Bool) : Nat :=
  if f.e4m3 then f.maxFinite neg
  else
    match r.code with
    | 1 => f.maxFinite neg
    | 2 => if neg then f.inf neg else f.maxFinite neg
    | 3 => if neg then f.maxFinite neg else f.inf neg
    | _ => f.inf neg

/-- Round(value, format, mode) with the flags it sets (R7, R66, R68, R70, R71). -/
def FFmt.round (f : FFmt) (r : RMode) (x : Exact) : Nat × BitVec 5 :=
  if x.n == 0 then (f.zero x.neg, 0)
  else
    let emin : Int := 1 - (f.bias : Int)
    let top := log2Frac x.n x.d
    let e := (if top < emin then emin else top) - (f.p - 1 : Nat)
    let (a, b) := unitsOf x.n x.d e
    let s := roundMag r x.neg a b
    let exact := a % b == 0
    let (mx, me) : Nat × Int :=
      if f.e4m3 then (14, 5) else (2 ^ f.p - 1, (f.bias : Int) - (f.p - 1 : Nat))
    let above := if e ≤ me then mx * 2 ^ (me - e).toNat < s else true
    if above then (f.overflow r x.neg, flagOF ||| flagNX)
    else
      let tiny :=
        if emin ≤ top then false
        else
          let e' := top - (f.p - 1 : Nat)
          let (a', b') := unitsOf x.n x.d e'
          let s' := roundMag r x.neg a' b'
          decide (s' < 2 ^ (emin - e').toNat)
      (f.pack x.neg s e, if exact then 0 else if tiny then flagUF ||| flagNX else flagNX)

/-- A signalling NaN among the inputs sets NV (R63). -/
def nanFlags (vs : List FVal) : BitVec 5 := if vs.contains (.nan true) then flagNV else 0

/-- A NaN among the inputs. -/
def anyNan (vs : List FVal) : Bool := vs.any fun v => v == .nan true || v == .nan false

/-- The canonical NaN of an invalid operation (R70). -/
def FFmt.invalid (f : FFmt) : Nat × BitVec 5 := (f.qnan, flagNV)

/-- The exact value of a finite operand. -/
def FVal.exact : FVal → Exact
  | .num neg m e => dyadic neg m e
  | _ => { neg := false, n := 0, d := 1 }

/-- The sign of an operand; a NaN has none that is carried (R63). -/
def FVal.sign : FVal → Bool
  | .num neg _ _ => neg
  | .inf neg => neg
  | .nan _ => false

def FVal.isInf : FVal → Bool
  | .inf _ => true
  | _ => false

def FVal.isZero : FVal → Bool
  | .num _ m _ => m == 0
  | _ => false

/-- An exact sum; a zero sum of opposite signs is +0, or -0 under RDN (R70). -/
def sumExact (r : RMode) (x y : Exact) : Exact :=
  let z := x.add y
  if z.n == 0 then { neg := if x.neg == y.neg then x.neg else r.code == 2, n := 0, d := 1 } else z

/-- x + y (R66, R70). -/
def FFmt.add (f : FFmt) (r : RMode) (x y : FVal) : Nat × BitVec 5 :=
  if anyNan [x, y] then (f.qnan, nanFlags [x, y])
  else
    match x, y with
    | .inf a, .inf b => if a == b then (f.inf a, 0) else f.invalid
    | .inf a, _ => (f.inf a, 0)
    | _, .inf b => (f.inf b, 0)
    | x, y => f.round r (sumExact r x.exact y.exact)

/-- The operand with its sign turned. -/
def FVal.minus : FVal → FVal
  | .num neg m e => .num (!neg) m e
  | .inf neg => .inf (!neg)
  | .nan s => .nan s

/-- x × y (R66, R70). -/
def FFmt.mul (f : FFmt) (r : RMode) (x y : FVal) : Nat × BitVec 5 :=
  if anyNan [x, y] then (f.qnan, nanFlags [x, y])
  else if x.isInf || y.isInf then
    (if x.isZero || y.isZero then f.invalid else (f.inf (x.sign != y.sign), 0))
  else f.round r (x.exact.mul y.exact)

/-- A pole: infinity with DZ, in E4M3 ±448 with DZ, OF and NX (R70, R71). -/
def FFmt.pole (f : FFmt) (neg : Bool) : Nat × BitVec 5 :=
  if f.e4m3 then (f.maxFinite neg, flagDZ ||| flagOF ||| flagNX) else (f.inf neg, flagDZ)

/-- x ÷ y (R70). -/
def FFmt.div (f : FFmt) (r : RMode) (x y : FVal) : Nat × BitVec 5 :=
  let neg := x.sign != y.sign
  if anyNan [x, y] then (f.qnan, nanFlags [x, y])
  else if x.isInf then (if y.isInf then f.invalid else (f.inf neg, 0))
  else if y.isInf then (f.zero neg, 0)
  else if y.isZero then (if x.isZero then f.invalid else f.pole neg)
  else
    let a := x.exact
    let b := y.exact
    f.round r { neg := neg, n := a.n * b.d, d := a.d * b.n }

/-- d + x × y with one rounding (R153, R173). Whether the product of zero and infinity sets NV beside a
NaN addend is left to the implementation by IEEE 754 (log 4). -/
def FFmt.fma (f : FFmt) (r : RMode) (d x y : FVal) : Nat × BitVec 5 :=
  let bad := (x.isInf && y.isZero) || (x.isZero && y.isInf)
  if anyNan [d, x, y] then
    (f.qnan, nanFlags [d, x, y] ||| (if bad && Config.fmaInvalid then flagNV else 0))
  else if bad then f.invalid
  else
    let neg := x.sign != y.sign
    if x.isInf || y.isInf then (if d.isInf && d.sign != neg then f.invalid else (f.inf neg, 0))
    else if d.isInf then (f.inf d.sign, 0)
    else f.round r (sumExact r d.exact (x.exact.mul y.exact))

/-! ### Roots -/

/-- The integer square root, bit by bit from bit `i`. -/
def isqrtGo (n : Nat) : Nat → Nat → Nat
  | 0, acc => acc
  | i + 1, acc =>
    let t := acc + 2 ^ i
    isqrtGo n i (if t * t ≤ n then t else acc)

/-- floor(√n). -/
def isqrt (n : Nat) : Nat := isqrtGo n (Nat.log2 n / 2 + 1) 0

/-- √(n/d) for n > 0, with 128 bits or more and, where it is irrational, strictly between its neighbours. -/
def rootFrac (n d : Nat) : Exact :=
  let k := 128 + Nat.log2 d
  let t := n * 2 ^ (2 * k) / d
  let s := isqrt t
  if s * s * d == n * 2 ^ (2 * k) then { neg := false, n := s, d := 2 ^ k }
  else { neg := false, n := 2 * s + 1, d := 2 ^ (k + 1) }

/-- √x (R153, R175). -/
def FFmt.sqrt (f : FFmt) (r : RMode) (x : FVal) : Nat × BitVec 5 :=
  match x with
  | .nan s => (f.qnan, nanFlags [.nan s])
  | .inf neg => if neg then f.invalid else (f.inf false, 0)
  | .num neg m e =>
    if m == 0 then (f.zero neg, 0)
    else if neg then f.invalid
    else
      let a := dyadic false m e
      f.round r (rootFrac a.n a.d)

/-- 1 ÷ √x (R175). -/
def FFmt.rsqrt (f : FFmt) (r : RMode) (x : FVal) : Nat × BitVec 5 :=
  match x with
  | .nan s => (f.qnan, nanFlags [.nan s])
  | .inf neg => if neg then f.invalid else (f.zero false, 0)
  | .num neg m e =>
    if m == 0 then f.pole neg
    else if neg then f.invalid
    else
      let a := dyadic false m e
      f.round r (rootFrac a.d a.n)

/-- 1 ÷ x (R175). -/
def FFmt.rcp (f : FFmt) (r : RMode) (x : FVal) : Nat × BitVec 5 :=
  match x with
  | .nan s => (f.qnan, nanFlags [.nan s])
  | .inf neg => (f.zero neg, 0)
  | .num neg m e =>
    if m == 0 then f.pole neg
    else
      let a := dyadic neg m e
      f.round r { neg := neg, n := a.d, d := a.n }

/-! ### Exponentials and logarithms in fixed point (R175, log 13) -/

/-- Fraction bits of the fixed-point series. -/
def fxBits : Nat := 448

/-- The sum of 1/(k 2^k) for k from `k`: ln 2 with `fxBits` bits. -/
def ln2Go : Nat → Nat → Nat → Nat
  | 0, _, acc => acc
  | i + 1, k, acc => ln2Go i (k + 1) (acc + 2 ^ fxBits / (k * 2 ^ k))

/-- ln 2 in fixed point. -/
def fxLn2 : Nat := ln2Go 448 1 0

/-- The exponential series of a fixed-point argument below 1. -/
def expGo (y : Nat) : Nat → Nat → Nat → Nat → Nat
  | 0, _, _, acc => acc
  | i + 1, k, term, acc =>
    let t := term * y / 2 ^ fxBits / k
    expGo y i (k + 1) t (acc + t)

/-- e^y in fixed point, for y below 1. -/
def fxExp (y : Nat) : Nat := expGo y 96 1 (2 ^ fxBits) (2 ^ fxBits)

/-- 2^x of an exact x that is no integer, with |x| below 2^12, as a fraction between its neighbours. -/
def exp2Frac (x : Exact) : Exact :=
  let k : Int := x.int / (x.d : Int)
  let fr : Nat := (x.int % (x.d : Int)).toNat * 2 ^ fxBits / x.d
  dyadic false (2 * fxExp (fr * fxLn2 / 2 ^ fxBits) + 1) (k - fxBits - 1)

/-- e^x by 2^(x ÷ ln 2), with |x| below 2^10. -/
def expFrac (x : Exact) : Exact :=
  exp2Frac { neg := x.neg, n := x.n * 2 ^ fxBits, d := x.d * fxLn2 }

/-- The series of atanh z = z + z³/3 + ... in fixed point. -/
def atanhGo (zz : Nat) : Nat → Nat → Nat → Nat → Nat
  | 0, _, _, acc => acc
  | i + 1, k, term, acc => atanhGo zz i (k + 2) (term * zz / 2 ^ fxBits) (acc + term / k)

/-- log2 of n/d > 0, as a fraction; exact for powers of two. -/
def log2Exact (n d : Nat) : Exact :=
  let e := log2Frac n d
  let (a, b) := unitsOf n d e
  if a == b then Exact.ofInt e 1
  else
    let z := (a - b) * 2 ^ fxBits / (a + b)
    let l := 2 * atanhGo (z * z / 2 ^ fxBits) 160 1 z 0
    Exact.ofInt (e * (2 * fxLn2 : Nat) + 2 * l + 1) (2 * fxLn2)

/-- 2^a (R175). -/
def FFmt.exp2 (f : FFmt) (r : RMode) (x : FVal) : Nat × BitVec 5 :=
  match x with
  | .nan s => (f.qnan, nanFlags [.nan s])
  | .inf neg => (if neg then f.zero false else f.inf false, 0)
  | .num neg m e =>
    let a := dyadic neg m e
    if 2048 * a.d ≤ a.n then f.round r (dyadic false 1 (if neg then -2048 else 2048))
    else if a.n % a.d == 0 then f.round r (dyadic false 1 (a.int / (a.d : Int)))
    else f.round r (exp2Frac a)

/-- log2 a (R175). -/
def FFmt.log2 (f : FFmt) (r : RMode) (x : FVal) : Nat × BitVec 5 :=
  match x with
  | .nan s => (f.qnan, nanFlags [.nan s])
  | .inf neg => if neg then f.invalid else (f.inf false, 0)
  | .num neg m e =>
    if m == 0 then f.pole true
    else if neg then f.invalid
    else
      let a := dyadic false m e
      f.round r (log2Exact a.n a.d)

/-- tanh of a positive fraction: for small arguments its series, for large ones a value just below 1. -/
def tanhFrac (a : Exact) : Exact :=
  if a.n * 2 ^ 20 < a.d then
    let t := a.mul a
    let one : Exact := { neg := false, n := 1, d := 1 }
    a.mul (one.add (t.mul ((Exact.ofInt (-1) 3).add (t.mul ((Exact.ofInt 2 15).add (t.mul (Exact.ofInt (-17) 315)))))))
  else if 200 * a.d ≤ a.n then { neg := false, n := 2 ^ 577 - 1, d := 2 ^ 577 }
  else
    let x := expFrac { a with n := 2 * a.n }
    { neg := false, n := x.n - x.d, d := x.n + x.d }

/-- tanh a (R175). -/
def FFmt.tanh (f : FFmt) (r : RMode) (x : FVal) : Nat × BitVec 5 :=
  match x with
  | .nan s => (f.qnan, nanFlags [.nan s])
  | .inf neg => f.round r { neg := neg, n := 1, d := 1 }
  | .num neg m e =>
    if m == 0 then (f.zero neg, 0) else f.round r { tanhFrac (dyadic false m e) with neg := neg }

/-- 1 ÷ (1 + e^-a) (R175). -/
def FFmt.sigmoid (f : FFmt) (r : RMode) (x : FVal) : Nat × BitVec 5 :=
  match x with
  | .nan s => (f.qnan, nanFlags [.nan s])
  | .inf neg => if neg then (f.zero false, 0) else f.round r { neg := false, n := 1, d := 1 }
  | .num neg m e =>
    let a := dyadic neg m e
    if m == 0 then f.round r { neg := false, n := 1, d := 2 }
    else if 400 * a.d ≤ a.n then
      f.round r (if neg then { neg := false, n := 1, d := 2 ^ 577 } else { neg := false, n := 2 ^ 577 - 1, d := 2 ^ 577 })
    else
      let y := expFrac a.minus
      f.round r { neg := false, n := y.d, d := y.d + y.n }

/-! ### Comparison, minimum, classes and conversions -/

/-- Order of two operands that are no NaN; zeros are equal. -/
def FVal.lt (x y : FVal) : Bool :=
  match x, y with
  | .inf a, .inf b => a && !b
  | .inf a, _ => a
  | _, .inf b => !b
  | x, y => x.exact.int * (y.exact.d : Int) < y.exact.int * (x.exact.d : Int)

/-- Equality of two operands that are no NaN; zeros are equal. -/
def FVal.eq (x y : FVal) : Bool := !x.lt y && !y.lt x

/-- Minimum (`mx` false) or maximum: -0 is below +0, a NaN gives the other operand (R76, R153). -/
def FFmt.minmax (f : FFmt) (mx : Bool) (a b : Nat) : Nat × BitVec 5 :=
  let x := f.decode a
  let y := f.decode b
  let fl := nanFlags [x, y]
  if anyNan [x] && anyNan [y] then (f.qnan, fl)
  else if anyNan [x] then (b, fl)
  else if anyNan [y] then (a, fl)
  else
    let less := x.lt y || (x.eq y && x.sign && !y.sign)
    (if less != mx then a else b, fl)

/-- A comparison (R154, R182): op 0 EQ, 1 NE, 2 LT, 3 LE, 4 GT, 5 GE. A NaN makes all but NE false; EQ and
NE set NV for a signalling NaN, the others for any. -/
def FFmt.compare (f : FFmt) (op : Nat) (a b : Nat) : Bool × BitVec 5 :=
  let x := f.decode a
  let y := f.decode b
  if anyNan [x, y] then (op == 1, if 2 ≤ op then flagNV else nanFlags [x, y])
  else
    (match op with
     | 0 => x.eq y
     | 1 => !x.eq y
     | 2 => x.lt y
     | 3 => !y.lt x
     | 4 => y.lt x
     | _ => !x.lt y, 0)

/-- The class number of R154. -/
def FFmt.classOf (f : FFmt) (a : Nat) : Nat :=
  match f.decode a with
  | .nan s => if s then 8 else 9
  | .inf neg => if neg then 0 else 7
  | .num neg m _ =>
    let k := if m == 0 then 0 else if m < 2 ^ (f.p - 1) then 1 else 2
    if neg then 3 - k else 4 + k

/-- An exact value to an `n`-bit integer under a mode: saturated, NV beyond the range, else NX (R68, R71). -/
def toInteger (r : RMode) (signed : Bool) (n : Nat) (x : Exact) : Nat × BitVec 5 :=
  let q := roundMag r x.neg x.n x.d
  let v : Int := if x.neg then -(q : Int) else q
  let s := if signed then satS n v else satU n v
  (wrapTo n s, if s ≠ v then flagNV else if x.n % x.d == 0 then 0 else flagNX)

/-- A floating pattern to an `n`-bit integer (R71, R155). -/
def FFmt.toInt (f : FFmt) (r : RMode) (signed : Bool) (n : Nat) (a : Nat) : Nat × BitVec 5 :=
  let big := if signed then 2 ^ (n - 1) - 1 else 2 ^ n - 1
  let small := if signed then 2 ^ (n - 1) else 0
  match f.decode a with
  | .nan _ => (big, flagNV)
  | .inf neg => (if neg then small else big, flagNV)
  | .num neg m e => toInteger r signed n (dyadic neg m e)

/-- An integer to a floating pattern (R71, R155). -/
def FFmt.ofInteger (f : FFmt) (r : RMode) (v : Int) : Nat × BitVec 5 := f.round r (Exact.ofInt v 1)

/-- A floating pattern of one format to another (R63, R71). -/
def FFmt.convert (f g : FFmt) (r : RMode) (a : Nat) : Nat × BitVec 5 :=
  match f.decode a with
  | .nan s => (g.qnan, nanFlags [.nan s])
  | .inf neg => if g.e4m3 then (g.qnan, flagNV) else (g.inf neg, 0)
  | .num neg m e => g.round r (dyadic neg m e)

/-- One step of the stochastic-rounding generator (R67). -/
def rsrStep (s : BitVec 32) : BitVec 32 :=
  let s := s ^^^ (s <<< 13)
  let s := s ^^^ (s >>> 17)
  s ^^^ (s <<< 5)

end Sys2Proof.Machine
end

