-- ==== Sys2Proof/Machine/Reduce.lean ====
section
/-!
DEFINITION. What reduce-on-write and the scaled exponential sum compute (R198, R231).
-/
namespace Sys2Proof.Machine

/-- The value of an `n`-bit pattern under a signedness. -/
def valueOf (sg : Bool) (n v : Nat) : Int := if sg then sintOf n v else (v % 2 ^ n : Nat)

/-- One term of the scaled exponential sum (R231). -/
def expTerm (m s top : Nat) : Nat :=
  let t := binary32
  if m = t.inf true then 0
  else
    let d := (t.add rne (t.decode m) (t.decode top).minus).1
    (t.mul rne (t.decode s) (t.decode (t.exp2 rne (t.decode d)).1)).1

/-- The scaled exponential sum of two pairs (R231). -/
def expSum (m1 s1 m2 s2 : Nat) : Nat × Nat :=
  let t := binary32
  let plus (a b : Nat) : Nat := (t.add rne (t.decode a) (t.decode b)).1
  if anyNan [t.decode m1, t.decode s1, t.decode m2, t.decode s2] then (t.qnan, t.qnan)
  else
    let top := (t.minmax true m1 m2).1
    if top = t.inf true then (top, plus s1 s2)
    else if top = t.inf false then
      (top, if m1 = m2 then plus s1 s2 else if m1 = top then s1 else s2)
    else (top, plus (expTerm m1 s1 top) (expTerm m2 s2 top))

/-- The combination of a word with a value by an operator and a format (R198); none where R198 has none. -/
def reduceWith (op : RedOp) (fmt n : Nat) : Option (Nat → Nat → Nat) :=
  let w := 8 * n
  match op with
  | .expsum =>
    if fmt = 1 && n = 8 then
      some fun o v =>
        let r := expSum (o % 2 ^ 32) (o / 2 ^ 32 % 2 ^ 32) (v % 2 ^ 32) (v / 2 ^ 32 % 2 ^ 32)
        r.1 + r.2 * 2 ^ 32
    else none
  | _ =>
    if fmt = 1 || fmt = 2 then
      some fun o v =>
        match op with
        | .max => if valueOf (fmt == 2) w o < valueOf (fmt == 2) w v then v else o
        | .min => if valueOf (fmt == 2) w v < valueOf (fmt == 2) w o then v else o
        | _ => (o + v) % 2 ^ w
    else if fmt = 3 && n = 4 then
      some fun o v =>
        match op with
        | .max => (binary32.minmax true o v).1
        | .min => (binary32.minmax false o v).1
        | _ => (binary32.add rne (binary32.decode o) (binary32.decode v)).1
    else none

end Sys2Proof.Machine
end

