-- ==== Sys2Proof/Machine/Mem.lean ====
section
/-!
DEFINITION. Memory as a context reaches it: where bytes lie, the page-table walk, the stash window and
its maps, permissions, the stalls of an access, and reading and writing (R79 to R98, R345 to R353).
-/
namespace Sys2Proof.Machine

/-! ### Where bytes lie -/

/-- The memory classes of R80. -/
inductive MemClass where
  | general | plane | host | peer | stash
deriving DecidableEq, Repr

/-- What an access wants to do (R348, R351). -/
inductive Access where
  | load | store | atomic | fetch
deriving DecidableEq, Repr

/-- Key of a byte of a stack's general space (R349). -/
def generalKey (stack name : Nat) : Nat := stack % 16 * 2 ^ 40 + name % 2 ^ 40

/-- Key of a byte of host memory (R349). -/
def hostKey (hpa : Nat) : Nat := 2 ^ 52 + hpa % 2 ^ 52

/-- Key of a byte of another module's window (R349, R370). -/
def peerKey (module offset : Nat) : Nat := 2 ^ 53 + module % 64 * 2 ^ 46 + offset % 2 ^ 46

/-- Key of a byte of the save areas, which lie outside every translated space (R340). -/
def saveKey (a : Nat) : Nat := 2 ^ 56 + a % 2 ^ 56

/-- Key of a stash byte by window offset (R85). -/
def stashKey (o : Nat) : Nat := 2 ^ 57 + o

/-- Key of a byte of a mailbox; number 16 is PF0's (R362, R366). -/
def mailKey (part o : Nat) : Nat := 2 ^ 58 + part * 4096 + o

/-- Key of a byte of a function's MSI-X table (R362); number 16 is PF0. -/
def msixKey (fn o : Nat) : Nat := 2 ^ 58 + 2 ^ 20 + fn * 4096 + o

/-- Key of a byte of a function's pending-bit array (R362). -/
def pendingKey (fn o : Nat) : Nat := 2 ^ 58 + 2 ^ 21 + fn * 64 + o

/-- Key of a byte of a DRAM row (R97). -/
def planeKey (row byte : Nat) : Nat := 2 ^ 60 + row * 1024 + byte

/-- The number of a subarray in the module (R3). -/
def subId (stack vault bank slot : Nat) : Nat := ((stack * 32 + vault) * 48 + bank) * 32 + slot

/-- The row key of a row of a subarray: 0 to 1,023 data rows, 1,024 to 1,031 are t0 to t7 (R207). -/
def rowKey (sub row : Nat) : Nat := sub * 1040 + row

/-- One byte by key. -/
def State.byte (s : State) (k : Nat) : Byte :=
  if k < 2 ^ 60 then cellGet 0 s.mem k
  else BitVec.ofNat 8 (slice (cellGet 0 s.rows ((k - 2 ^ 60) / 1024)) (8 * ((k - 2 ^ 60) % 1024)) 8)

/-- The state with one byte changed. -/
def State.setByte (s : State) (k : Nat) (b : Byte) : State :=
  if k < 2 ^ 60 then { s with mem := cellPut 0 s.mem k b }
  else
    let r := (k - 2 ^ 60) / 1024
    let row := splice (cellGet 0 s.rows r) (8 * ((k - 2 ^ 60) % 1024)) 8 b.toNat
    { s with rows := cellPut 0 s.rows r row }

/-- `n` bytes from a key, little-endian (R5). -/
def State.readN (s : State) (k : Nat) : Nat → Nat
  | 0 => 0
  | n + 1 => (s.byte k).toNat + 256 * s.readN (k + 1) n

/-- The state with `n` bytes from a key replaced by the low bytes of `v` (R5). -/
def State.writeN (s : State) (k : Nat) (v : Nat) : Nat → State
  | 0 => s
  | n + 1 => (s.setByte k (BitVec.ofNat 8 v)).writeN (k + 1) (v / 256) n

/-- The vaults of a stack, ascending, without those whose DRAM failed the memory test (R398). -/
def State.stackVaults (s : State) (stack : Nat) : List Nat :=
  (List.range 32).filter fun v => !s.mgmt.leftOut.any fun u => u.1 == 0 && u.2 / 128 == stack * 32 + v

/-- General chunks that DRAM of so many vaults holds: 768 for each (R3). -/
def stackChunks (vaults : Nat) : Nat := vaults * 768

/-- The first chunk of a stack that its DRAM does not take at partition creation: M backs it by LPDDR 6 (R357, R397). -/
def State.firstTier (s : State) (stack : Nat) : Nat := stackChunks (s.stackVaults stack).length

/-- The vaults of a stack that are not set aside, ascending (R94, R355). -/
def State.interleave (s : State) (stack : Nat) : List Nat :=
  (s.stackVaults stack).filter fun v => !s.grants.any fun g => g.stack == stack && g.vault == v

/-- The home of a byte: stack and vault; none where the class has no home here (R33, R80, R94). -/
def State.home (s : State) (cls : MemClass) (k : Nat) : Option (Nat × Nat) :=
  match cls with
  | .general =>
    let vs := s.interleave (k / 2 ^ 40)
    vs[(k % 2 ^ 40) / 2048 % vs.length]?.map fun v => (k / 2 ^ 40, v)
  | .plane =>
    let sub := (k - 2 ^ 60) / 1024 / 1040
    some (sub / 32 / 48 / 32, sub / 32 / 48 % 32)
  | _ => none

/-! ### Plane regions -/

/-- A region by handle, if the partition holds it (R346, R356). -/
def State.region? (s : State) (p : Fin 16) (handle : Nat) : Option PlaneRegion :=
  s.regions.find? fun r => r.handle == handle && r.part == p.val

/-- The bank list of a region: vault and bank, ascending (R356). -/
def PlaneRegion.bankList (r : PlaneRegion) : List (Nat × Nat) :=
  r.vaults.flatMap fun v => r.banks.map fun b => (v, b)

/-- The number of subarrays of a region (R356). -/
def PlaneRegion.subarrays (r : PlaneRegion) : Nat := r.vaults.length * r.banks.length * r.slots

/-- The subarray of the module that region subarray `n` is (R96). -/
def PlaneRegion.sub (r : PlaneRegion) (n : Nat) : Nat :=
  let bl := r.bankList
  let (v, b) := bl[n % bl.length]?.getD (0, 0)
  subId r.stack v b (r.slot0 + n / bl.length)

/-- The bank of a subarray: stack, vault, bank. -/
def bankOf (sub : Nat) : Nat × Nat × Nat := (sub / 32 / 48 / 32, sub / 32 / 48 % 32, sub / 32 % 48)

/-- The banks of a set of positions of a region's bank list (R227). -/
def State.bankSet (s : State) (handle first count : Nat) : List (Nat × Nat × Nat) :=
  match s.regions.find? fun r => r.handle == handle with
  | none => []
  | some r => ((r.bankList.drop first).take count).map fun b => (r.stack, b)

/-- The banks of a lock (R117). -/
def State.lockBanks (s : State) (l : BankLock) : List (Nat × Nat × Nat) := s.bankSet l.region l.first l.count

/-- A context other than `c` holds a lock over this subarray: its strictness. A saved context keeps its lock
(R117). -/
def State.lockOver (s : State) (c : Fin 12) (sub : Nat) : Option Bool :=
  ((s.others c).filterMap fun x => x.lock.bind fun l =>
    if (s.lockBanks l).contains (bankOf sub) then some l.strict else none).head?

/-- The subarrays of the module that a plane instruction covers (R96, R201). -/
def State.planeSubs (s : State) (o : PlaneOp) : List Nat :=
  match s.regions.find? fun r => r.handle == o.region with
  | none => []
  | some r => (span o.first (ceilDiv o.count 8192)).map r.sub

/-- A plane instruction of the context that covers one of these banks is not retired. -/
def State.planeOn (s : State) (c : Fin 12) (banks : List (Nat × Nat × Nat)) : Bool :=
  (s.ctxs.get c).planes.any fun o => (s.planeSubs o).any fun n => banks.contains (bankOf n)

/-- The holder's own access to a locked row waits for its earlier plane instructions there (R117). -/
def State.ownLockBusy (s : State) (c : Fin 12) (sub : Nat) : Bool :=
  (s.ctxs.get c).lock.any fun l => (s.lockBanks l).contains (bankOf sub) && s.planeOn c [bankOf sub]

/-! ### The page-table walk -/

/-- The general address of a node or page lies in the partition (R346, R349). -/
def State.ownsGeneral (s : State) (p : Fin 16) (stack name : Nat) : Bool :=
  (s.part p).ownStacks.contains stack && name / 2 ^ 21 < (s.part p).chunks

/-- The node that bits [51:16] of a root or table entry name: its key (R347, R349). -/
def State.nodeKey (s : State) (p : Fin 16) (e : Nat) : Except (BitVec 8) Nat :=
  if bitsAt e 40 8 ≠ 0 then .error 0x04
  else if s.ownsGeneral p (bitsAt e 48 4) (bitsAt e 16 24 * 65536) then
    .ok (generalKey (bitsAt e 48 4) (bitsAt e 16 24 * 65536))
  else .error 0x15

/-- The zero fields and V that every entry must have (R348, R351). -/
def entryOk (e : Nat) : Bool := e % 2 == 1 && bitsAt e 52 12 == 0 && bitsAt e 13 3 == 0

/-- A table entry: kind 0, class general, bits [12:3] zero (R348). -/
def tableOk (e : Nat) : Bool := entryOk e && bitsAt e 1 2 == 0 && bitsAt e 3 10 == 0

/-- A leaf without reserved class, priv or run (R348, R351). -/
def leafOk (e : Nat) : Bool := entryOk e && bitsAt e 10 3 ≤ 3 && bitsAt e 8 2 ≠ 3 && bitsAt e 3 2 ≠ 3

/-- The entries of a run of level-2 pages (R350). -/
def runLength (e : Nat) : Nat :=
  match bitsAt e 3 2 with
  | 0 => 1
  | 1 => 32
  | _ => 512

/-- Every entry of the run equals `e` (R350). -/
def State.runAgrees (s : State) (k e : Nat) : Nat → Bool
  | 0 => true
  | n + 1 => s.readN k 8 == e && s.runAgrees (k + 8) e n

/-- The walk of a partition's table at a virtual address: the leaf, or the cause of the first failure in
walk order (R347 to R351). -/
def State.walk (s : State) (p : Fin 16) (va : Nat) : Except (BitVec 8) Nat := do
  let k0 ← s.nodeKey p (s.part p).liveRoot.toNat
  let e0 := s.readN (k0 + va / 2 ^ 42 % 8192 * 8) 8
  if !tableOk e0 then throw 0x04
  let k1 ← s.nodeKey p e0
  let e1 := s.readN (k1 + va / 2 ^ 29 % 8192 * 8) 8
  if bitsAt e1 1 2 == 2 then
    if leafOk e1 && (bitsAt e1 10 3 == 0 || bitsAt e1 10 3 == 2) && bitsAt e1 16 13 == 0 then pure e1
    else throw 0x04
  else
    if !tableOk e1 then throw 0x04
    let k2 ← s.nodeKey p e1
    let ix := va / 2 ^ 16 % 8192
    let e2 := s.readN (k2 + ix * 8) 8
    let n := runLength e2
    if !(leafOk e2 && bitsAt e2 1 2 == 1) then throw 0x04
    if bitsAt e2 16 36 % n ≠ 0 then throw 0x04
    if n ≠ 1 && !s.runAgrees (k2 + ix / n * n * 8) e2 n then throw 0x04
    pure e2

/-- The class of a leaf (R348). -/
def leafClass (e : Nat) : MemClass :=
  match bitsAt e 10 3 with
  | 0 => .general
  | 1 => .plane
  | 2 => .host
  | _ => .peer

/-- The key that a leaf gives an address, checked against the partition's resources (R346, R349). -/
def State.leafKey (s : State) (p : Fin 16) (e va : Nat) : Except (BitVec 8) Nat :=
  let off := if bitsAt e 1 2 == 2 then va % 2 ^ 29
    else va / 2 ^ 16 % runLength e * 65536 + va % 65536
  let out := bitsAt e 16 36 * 65536
  match leafClass e with
  | .general =>
    let name := out % 2 ^ 40 + off
    if bitsAt out 40 8 ≠ 0 then .error 0x04
    else if s.ownsGeneral p (out / 2 ^ 48) name then .ok (generalKey (out / 2 ^ 48) name)
    else .error 0x15
  | .plane =>
    match s.region? p (out / 2 ^ 36) with
    | none => .error 0x15
    | some r =>
      let o := out % 2 ^ 36 + off
      if r.subarrays * 2 ^ 20 ≤ o then .error 0x15
      else .ok (planeKey (rowKey (r.sub (o / 2 ^ 20)) (o % 2 ^ 20 / 1024)) (o % 1024))
  | .host =>
    if (s.part p).hostWindows.any fun w => w.1 ≤ out + off && out + off < w.1 + w.2 then .ok (hostKey (out + off))
    else .error 0x15
  | _ =>
    if s.mgmt.accepted.getLsbD 1 && (s.part p).paired.any fun x => x.1 == out / 2 ^ 46 then
      (if bitsAt (out + off) 44 2 ≠ 0 then .error 0x15
       else .ok (peerKey (out / 2 ^ 46) (out % 2 ^ 46 + off)))
    else .error 0x15

/-- The leaf permits the access at a privilege (R348, R351). Fetch reads general pages only (R81). -/
def leafPermits (e priv : Nat) (acc : Access) : Bool :=
  bitsAt e 8 2 ≤ priv &&
    (match acc with
     | .load => bitsAt e 5 1 == 1
     | .store => bitsAt e 6 1 == 1
     | .atomic => bitsAt e 5 1 == 1 && bitsAt e 6 1 == 1
     | .fetch => bitsAt e 7 1 == 1 && leafClass e == .general)

/-- Where an access lands: class, key, and the stash granule it touches, if any. -/
structure Phys where
  cls : MemClass
  key : Nat
  granule : Option Nat
deriving DecidableEq, Repr

/-- What a leaf gives: the place, or the cause (R346, R351). -/
def State.leafPhys (s : State) (p : Fin 16) (priv : Nat) (acc : Access) (e va : Nat) :
    Except (BitVec 8) Phys := do
  let k ← s.leafKey p e va
  if leafPermits e priv acc then pure { cls := leafClass e, key := k, granule := none } else throw 0x05

/-- The place of an address for an engine, without a TLB: the scheduler, a collective engine, a stream or
the command hardware (R329, R286). The stash window belongs to contexts and engines of the core. -/
def State.xlate (s : State) (p : Fin 16) (priv : Nat) (acc : Access) (va : Nat) : Except (BitVec 8) Phys := do
  if 2 ^ 54 ≤ va then throw 0x04
  let e ← s.walk p va
  s.leafPhys p priv acc e va

/-! ### The stash window -/

/-- The first address of the stash window (R79). -/
def windowBase : Nat := 0x7FFFFFFFC00000

/-- Macros in held regions, or reserved by an MSTAT that is not complete (R85, R233, R243). -/
def State.macroHeld (s : State) (m : Nat) : Bool :=
  (s.sd.toList.any fun r => r.any fun r => r.macro0 ≤ m && m < r.macro0 + r.kmac * r.nmac) ||
    s.ctxs.toList.any fun x => x.reserve.any fun r => r.macro0 ≤ m && m < r.macro0 + r.count

/-- The stash maps in force on the core (R86). -/
def State.coreMaps (s : State) : List StashMap :=
  s.tiles.toList.flatMap fun t => (t.map fun t => t.desc.maps).getD []

/-- The stage queues in force on the core (R258). -/
def State.coreQueues (s : State) : List StageQueue :=
  s.tiles.toList.flatMap fun t => (t.map fun t => t.desc.squeues).getD []

/-- The stage queue that owns a granule (R258). -/
def State.queueOf (s : State) (g : Nat) : Option StageQueue :=
  s.coreQueues.find? fun q => q.offset / 16 ≤ g && g < q.offset / 16 + q.granules

/-- The global address of a mapped window offset (R86, R242). -/
def State.mapOf (s : State) (o : Nat) : Option Nat :=
  if s.outside.contains (o / 16384) then none
  else (s.coreMaps.find? fun m => m.window ≤ o && o < m.window + m.length).map fun m => m.base + (o - m.window)

/-- The window granule of a global address inside a stash map (R86). -/
def State.granuleOf (s : State) (va : Nat) : Option Nat :=
  match s.coreMaps.find? fun m => m.base ≤ va && va < m.base + m.length with
  | none => none
  | some m =>
    let o := m.window + (va - m.base)
    if s.outside.contains (o / 16384) then none else some (o / 16)

/-- First touch of a mapped granule fills it: its bit becomes full, or the saved value after a restore
(R87, R88, R344). -/
def State.touch (s : State) (g : Nat) : State :=
  if (s.mapOf (g * 16)).isNone || s.present.contains g then s
  else
    let v := ((s.restoreFull.find? fun x => x.1 == g).map (·.2)).getD true
    { s with present := setAdd g s.present,
             full := if v then setAdd g s.full else setDrop s.full g,
             restoreFull := s.restoreFull.filter fun x => x.1 != g, emptied := setDrop s.emptied g }

/-! ### Checks of an access -/

/-- The pages of 64 KiB that a leaf maps: a page, a run or a block (R348, R350). -/
def leafPages (e : Nat) : Nat := if bitsAt e 1 2 == 2 then 8192 else runLength e

/-- A TLB entry maps this address: it holds a whole run or block (R350). -/
def TlbEntry.covers (t : TlbEntry) (p : Fin 16) (va : Nat) : Bool :=
  t.part == p.val && t.page / leafPages t.entry.toNat == va / 65536 / leafPages t.entry.toNat

/-- The leaf for an address: the walk's, or one that a TLB still holds, where they differ a free choice
(R352, R353, log 4). -/
def leafFor (va : Nat) : M Nat := do
  let s ← get
  let p := s.partOf s.cur
  let fresh := s.walk p va
  match s.tlb.find? fun t => t.covers p va with
  | none =>
    match fresh with
    | .error c => trap c (BitVec.ofNat 64 va)
    | .ok e => pure e
  | some t =>
    match fresh with
    | .ok e =>
      if BitVec.ofNat 64 e = t.entry then pure e
      else do
        let d ← draw
        pure (if Config.usesCached d va then t.entry.toNat else e)
    | .error c => do
      let d ← draw
      if Config.usesCached d va then pure t.entry.toNat else trap c (BitVec.ofNat 64 va)

/-- What the residence map holds of a chunk at partition creation: in stack DRAM or in LPDDR 6, unpinned (R357). -/
def Chunk.fresh (stack chunk : Nat) (tier : Bool) : Chunk :=
  { stack := stack, chunk := chunk, tier := tier, pinned := false, counter := 0, copies := 0, moving := false,
    commanded := false, blocks := [] }

/-- The entry of a chunk. -/
def State.chunk (s : State) (stack chunk : Nat) : Chunk :=
  (s.chunks.find? fun c => c.stack == stack && c.chunk == chunk).getD
    (Chunk.fresh stack chunk (decide (s.firstTier stack ≤ chunk)))

/-- The state with a chunk's entry changed. -/
def State.updChunk (s : State) (stack chunk : Nat) (f : Chunk → Chunk) : State :=
  { s with chunks := f (s.chunk stack chunk) :: s.chunks.filter fun c => !(c.stack == stack && c.chunk == chunk) }

/-- An access of general memory adds 1 to its chunk's counter, which saturates at 16 bits (R359). -/
def State.countAccess (s : State) (k : Nat) : State :=
  if k < 2 ^ 52 then
    s.updChunk (k / 2 ^ 40) (k % 2 ^ 40 / 2 ^ 21) fun c => { c with counter := min 65535 (c.counter + 1) }
  else s

/-- The entries of nodes that a walk reads, from entry `e` on, by the place of each level's index (R347, R348). -/
def State.walkKeys (s : State) (p : Fin 16) (va e : Nat) : List Nat → List Nat
  | [] => []
  | sh :: t =>
    match s.nodeKey p e with
    | .error _ => []
    | .ok k =>
      let at_ := k + va / 2 ^ sh % 8192 * 8
      let e := s.readN at_ 8
      at_ :: (if bitsAt e 1 2 = 0 then s.walkKeys p va e t else [])

/-- A TLB holds a leaf that an access has used without a failure (R352); the walk's reads count (R359). -/
def State.holdLeaf (s : State) (e va : Nat) : State :=
  let p := s.partOf s.cur
  if s.tlb.any fun t => t.covers p va then s
  else
    let s := (s.walkKeys p va (s.part p).liveRoot.toNat [42, 29, 16]).foldl State.countAccess s
    { s with tlb := { part := p.val, page := va / 65536, entry := BitVec.ofNat 64 e } :: s.tlb }

/-- A guest reaches only bytes whose home is its vault; a far access is cause 0x0D with the address (R281). -/
def guestHome (va : Nat) (ph : Phys) : M Unit := fun s =>
  match s.ctx.guest with
  | none => .ok () s
  | some g =>
    if s.home ph.cls ph.key = some (g.homeStack, g.homeVault) then .ok () s
    else .error (.trap 0x0D#8 (BitVec.ofNat 64 va)) s

/-- An access to host memory whose completion is poisoned fails: cause 0x05 with its address; one to host or peer memory whose
completion does not come: cause 0x04. A store to peer memory has retired by then (R364, R372, R379). -/
def completionCheck (acc : Access) (va : Nat) (ph : Phys) : M Unit := fun s =>
  match s.failing.find? fun f => f.ctx == s.cur.val && f.addr == va &&
      (ph.cls == .host || (!f.poisoned && ph.cls == .peer && acc != .store)) with
  | some f => .error (.trap (if f.poisoned then 0x05#8 else 0x04#8) (BitVec.ofNat 64 va)) s
  | none => .ok () s

/-- The place of a translated address. A mapped granule whose page is not general raises cause 0x05
(R79, R80, R86, R346, R351). -/
def placeOf (acc : Access) (va : Nat) : M Phys := do
  let s ← get
  let a := BitVec.ofNat 64 va
  let p := s.partOf s.cur
  let mb := (s.part p).mbox.toNat
  if mb ≠ 0 && mb ≤ va && va < mb + 4096 then
    if s.privOf s.cur = 0 || acc = .fetch then trap 0x05 a
    else pure { cls := .general, key := mailKey p.val (va - mb), granule := none }
  else do
    let e ← leafFor va
    match s.leafPhys p (s.privOf s.cur) acc e va with
    | .error c => trap c a
    | .ok ph => do
      modS fun s => s.holdLeaf e va
      if acc = .fetch then pure ph
      else do
        guestHome va ph
        completionCheck acc va ph
        let g := s.granuleOf va
        demand (g.isNone || ph.cls == .general) 0x05 a
        pure { ph with granule := g }

/-- The place of a stash window address (R85, R86, R334). DESIGN CHOICE (log 67): a guest's far-access fault comes
before the other causes, and the window name of a mapped granule needs what its global page permits. -/
def windowOf (acc : Access) (va : Nat) : M Phys := do
  let s ← get
  let a := BitVec.ofNat 64 va
  let o := va - windowBase
  if s.kind = .guest then trap 0x0D a
  else if ((s.tileOf s.cur).map (·.desc.second)).getD false || 0x3F0000 ≤ o || acc = .fetch then trap 0x05 a
  else if s.macroHeld (o / 16384) then trap 0x0A a
  else
    match s.mapOf o with
    | none => pure { cls := .stash, key := stashKey o, granule := some (o / 16) }
    | some va' =>
      match s.xlate (s.partOf s.cur) (s.privOf s.cur) acc va' with
      | .error c => trap c a
      | .ok ph => if ph.cls = .general then pure { ph with granule := some (o / 16) } else trap 0x05 a

/-- Only stitches of a queue's producer stage store to its granules (R259). -/
def queueCheck (acc : Access) (va : Nat) (ph : Phys) : M Unit := fun s =>
  if acc = .load || acc = .fetch then .ok () s
  else
    match ph.granule.bind s.queueOf with
    | none => .ok () s
    | some q =>
      let mask := ((s.tileOf s.cur).bind fun t => t.desc.stages[q.producer]?).getD 0
      if s.kind = .stitch && bitsAt mask (s.stitchNo s.cur) 1 == 1 then .ok () s
      else .error (.trap 0x05#8 (BitVec.ofNat 64 va)) s

/-- Every check of one access of `n` bytes at `a`: alignment 0x03, address and translation 0x04 and 0x15,
class and permission 0x05, with the address as info (R79, R80, R190). -/
def checkAccess (acc : Access) (a : Word) (n : Nat) : M Phys := do
  let va := a.toNat
  demand (va % n == 0) 0x03 a
  demand (va < 2 ^ 55) 0x04 a
  let ph ← if windowBase ≤ va then windowOf acc va
    else if 2 ^ 54 ≤ va then trap 0x04 a
    else placeOf acc va
  queueCheck acc va ph
  pure ph

/-! ### Stalls of an access -/

/-- The launch that made a binding. -/
def State.bindLaunch (s : State) (w : Watermark) : Option Nat := (s.tileAt w.slot).map (·.launch)

/-- The context belongs to the launch of the binding (R52). -/
def State.inLaunch (s : State) (c : Fin 12) (w : Watermark) : Bool :=
  (s.launchOf c).isSome && s.launchOf c == s.bindLaunch w

/-- The ranges [a, a + n) and [b, b + m) have a byte in common. -/
def rangesMeet (a n b m : Nat) : Bool := a < b + m && b < a + n

/-- The first watermark binding that holds back a load of `n` bytes at `va`: its number and the value it must reach (R31,
R274). DESIGN CHOICE (log 86): a load that covers several elements, or begins below the range, waits for the last element
that it covers. -/
def State.markStall (s : State) (c : Fin 12) (va n : Nat) : Option (Nat × Nat) :=
  (List.range 16).findSome? fun i =>
    match s.wm.get (Fin.ofNat 16 i) with
    | none => none
    | some w =>
      let e := (min (va + n) (w.base + w.count * w.esz) - 1 - w.base) / w.esz
      if w.role == .consumer && s.inLaunch c w && rangesMeet va n w.base (w.count * w.esz) && w.value ≤ e
      then some (i, e + 1) else none

/-- The strip mapped to slot `j` of a kicked channel (R270): `none` when there is none. -/
def Watermark.stripAt (w : Watermark) (j : Nat) : Option Nat :=
  let strips := ceilDiv w.count w.stripLen
  if !w.kicked || strips ≤ w.ended then none
  else
    let k := if w.ended % 2 = j then w.ended else w.ended + 1
    if k < strips then some k else none

/-- The element of a channel that a window offset names while it is mapped (R271). -/
def Watermark.elementAt (w : Watermark) (o : Nat) : Option Nat :=
  let slot := w.stripLen * w.esz
  if o < w.offset || w.offset + 2 * slot ≤ o then none
  else
    (w.stripAt ((o - w.offset) / slot)).bind fun k =>
      let e := k * w.stripLen + (o - w.offset) % slot / w.esz
      if e < min ((k + 1) * w.stripLen) w.count then some e else none

/-- A channel's value: X[xs] + F × esz − 1, or 0 before element 0 (R271). -/
def Watermark.chanValue (w : Watermark) (f : Nat) : Nat := if f = 0 then 0 else w.base + f * w.esz - 1

/-- The first channel that holds back an access to `n` bytes at window offset `o` (R271): number, bound to reach,
and the failing source address if the channel has stopped before it. -/
def State.chanStall (s : State) (c : Fin 12) (o n : Nat) : Option (Nat × Nat × Option Word) :=
  (List.range 16).findSome? fun i =>
    match s.wm.get (Fin.ofNat 16 i) with
    | none => none
    | some w =>
      if w.role == .channel && s.inLaunch c w then
        (span o n).findSome? fun b => (w.elementAt b).bind fun e =>
          if e < w.filled then none else some (i, w.chanValue (e + 1), w.failed)
      else none

/-- An access of `n` bytes by a context waits for nothing, or waits or traps: a lock over its row (R117), a
channel over any of its bytes (R271), for loads a watermark (R31). -/
def stalls (acc : Access) (a : Word) (n : Nat) (ph : Phys) : M Unit := fun s =>
  let va := a.toNat
  let loads := acc = .load || acc = .atomic
  match (if ph.cls = .plane then s.lockOver s.cur ((ph.key - 2 ^ 60) / 1024 / 1040) else none) with
  | some true => .error (.trap 0x0C#8 a) s
  | some false => .error (.wait (.lock ph.key) false) s
  | none =>
    if ph.cls = .plane && s.ownLockBusy s.cur ((ph.key - 2 ^ 60) / 1024 / 1040) then .error .stall s
    else
    match (if windowBase ≤ va then s.chanStall s.cur (va - windowBase) n else none) with
    | some (_, _, some bad) => .error (.trap 0x09#8 bad) s
    | some (i, bound, none) => .error (.wait (.mark i bound) false) s
    | none =>
      match (if loads then s.markStall s.cur va n else none) with
      | some (i, bound) => .error (.wait (.mark i bound) false) s
      | none => .ok () s

/-- The faults of an access that would otherwise wait, alone: a strict lock (R117), a stopped channel (R271). -/
def stallFaults (acc : Access) (a : Word) (n : Nat) (ph : Phys) : M Unit := fun s =>
  match stalls acc a n ph s with
  | .error (.trap c i) s => .error (.trap c i) s
  | _ => .ok () s

/-- A producer's store waits, in a stall that is not architectural, while its granule is full (R259). -/
def queueRoom (ph : Phys) : M Unit := fun s =>
  match ph.granule with
  | none => .ok () s
  | some g => if (s.queueOf g).isSome && s.full.contains g then .error .stall s else .ok () s

/-! ### Performing an access -/

/-- The host line of a key (R399). -/
def hostLine (k : Nat) : Option Nat := if 2 ^ 52 ≤ k && k < 2 ^ 53 then some ((k - 2 ^ 52) / 64) else none

/-- The state with a host line's state set; `none` is I. -/
def State.setLine (s : State) (line : Nat) (st : Option LineState) : State :=
  { s with hostLines :=
      match st with
      | none => cellErase line s.hostLines
      | some v => cellInsert line v (cellErase line s.hostLines) }

/-- The state of a host line (R399). -/
def State.line? (s : State) (line : Nat) : Option LineState := (s.hostLines.find? fun x => x.1 == line).map (·.2)

/-- What a read does besides returning bytes: a host line becomes S at least, a mapped granule is filled. -/
def State.noteRead (s : State) (ph : Phys) : State :=
  let s := s.countAccess ph.key
  let s := match hostLine ph.key with
    | some l => if (s.line? l).isSome then s else (s.setLine l (some .shared)).send (.cxl 0 l)
    | none => s
  match ph.granule with
  | some g => s.touch g
  | none => s

/-- The words of a write lose their reduction tags (R113). -/
def State.clearTags (s : State) (k n : Nat) : State :=
  if s.redTags.isEmpty then s
  else { s with redTags := s.redTags.filter fun t => t.1 * 4 + 4 ≤ k || k + n ≤ t.1 * 4 }

/-- The slice evicts a host line: DirtyEvict for M, CleanEvict for E and S (R400). -/
def State.evictLine (s : State) (line : Nat) : State :=
  match s.line? line with
  | none => s
  | some st => (s.setLine line none).send (.cxl (if st = LineState.modified then 4 else 5) line)

/-- What the halfwords of general memory that a write touches held before it: a fetch (R81) or a read of a
discarded line (R93) may still return it. -/
def State.keepOld (s : State) (k n : Nat) : State :=
  if k < 2 ^ 52 then
    let hs := span (k / 2) ((k + n + 1) / 2 - k / 2)
    { s with history := hs.map (fun h => (h, s.readN (2 * h) 2)) ++ s.history, codeNew := s.codeNew + hs.length }
  else s

/-- Before a write of `n` bytes at a key the host gives up the lines of device memory that it holds through HDM, by a
back-invalidate snoop (R361, R364); peers that watch a word of them are told (R370). -/
def State.announce (s : State) (k n : Nat) : State :=
  let hit (l : Nat) : Bool := rangesMeet (64 * l) 64 k n
  { s with
    hdmLines := s.hdmLines.filter fun l => !hit l,
    outbox := s.outbox ++ (s.hdmLines.filter hit).map .backInvalidate ++
      (s.watches.filter fun w => rangesMeet w.2 8 k n).map fun w => .peerWake w.1 w.2 }

/-- The 2 KiB blocks, of a chunk that is being copied, that a write of `n` bytes touches (R357, R358). -/
def State.noteBlock (s : State) (k n : Nat) : State :=
  if k < 2 ^ 52 && s.chunks.any fun c => c.moving && c.stack == k / 2 ^ 40 && c.chunk == k % 2 ^ 40 / 2 ^ 21 then
    s.updChunk (k / 2 ^ 40) (k % 2 ^ 40 / 2 ^ 21) fun c =>
      { c with blocks := (span (k % 2 ^ 21 / 2048) ((k % 2048 + n + 2047) / 2048)).foldl (fun l b => setAdd b l) c.blocks }
  else s

/-- A host line is written: it becomes M, and is asked for by RdOwn unless the slice has it to write (R400). -/
def State.ownLine (s : State) (line : Nat) : State :=
  match s.line? line with
  | some .modified => s
  | some .exclusive => s.setLine line (some .modified)
  | _ => (s.setLine line (some .modified)).send (.cxl 1 line)

/-- An ordinary write of `n` bytes at a place (R87, R88, R101, R113, R149, R400). -/
def State.put (s : State) (ph : Phys) (n v : Nat) : State :=
  let s := (((s.announce ph.key n).countAccess ph.key).keepOld ph.key n).clearTags ph.key n
  let s := s.noteBlock ph.key n
  let s := match hostLine ph.key with
    | some l => s.ownLine l
    | none => s
  let s := s.writeN ph.key v n
  match ph.granule with
  | some g => { s.touch g with full := setAdd g s.full }
  | none => s

/-- The stash copy of a mapped granule is lost (R87); that its bit was empty is kept for a save (R344). -/
def State.loseCopy (s : State) (g : Nat) : State :=
  { s with present := setDrop s.present g,
           emptied := if s.present.contains g && !s.full.contains g then setAdd g s.emptied else s.emptied }

/-- The stash copies of written bytes are lost (R87, R364). -/
def State.dropPresent (s : State) (key n : Nat) : State :=
  (s.present.filter fun g => (s.mapOf (g * 16)).any fun va =>
      match s.xlate s.corePart 1 .load va with
      | .ok ph => rangesMeet ph.key 16 key n
      | .error _ => false).foldl State.loseCopy s

/-- A write by an agent that is no context of the core: stash copies of its bytes are lost, and the next touch fills them
again (R87, R88). -/
def State.agentPut (s : State) (ph : Phys) (n v : Nat) : State :=
  (s.put { ph with granule := none } n v).dropPresent ph.key n

/-! ### Reduce-on-write at its home (R113, R198) -/

/-- The word takes a combination under this tag: each of its 4-byte words has it or none (R113, R198). -/
def State.tagAgrees (s : State) (key n : Nat) (tag : RedTag) : Bool :=
  (List.range (n / 4)).all fun j => (s.redTags.find? fun t => t.1 == key / 4 + j).all fun t => t.2 == tag

/-- The words of a combination carry its tag (R113). -/
def State.setTags (s : State) (key n : Nat) (tag : RedTag) : State :=
  { s with redTags := (span (key / 4) (n / 4)).foldl (fun l w => cellInsert w tag (cellErase w l)) s.redTags }

/-- A combination performed at the home: a stash-mapped granule of it is recalled (R98, R198). -/
def State.reduceAt (s : State) (ph : Phys) (n v : Nat) (tag : RedTag) : State :=
  let f := (reduceWith tag.op tag.fmt.toNat n).getD fun old _ => old
  (s.agentPut ph n (f (s.readN ph.key n) v)).setTags ph.key n tag

/-! ### Stores that others see later, loads that read ahead (R99 to R108, R371)

A thread path orders its accesses to one location and its loads before its later stores, and nothing else. A store
may therefore stay unseen by others after it retires, and a load may return what its bytes held earlier. The
schedule chooses (log 3); a store to peer memory always stays unseen until its completion. Accesses of distinct
sequencers of a context are unordered. -/

/-- A store to peer memory: it is performed when its completion comes (R370 to R372). -/
def PendStore.peer (e : PendStore) : Bool := 2 ^ 53 ≤ e.key && e.key < 2 ^ 54

/-- A store of the thread path of a context. -/
def PendStore.by (e : PendStore) (c : Fin 12) : Bool := e.ctx == c.val && e.seq == 0

/-- A write of a stream slot: a slot performs its writes in the order of its pattern (R99). -/
def PendStore.inPattern (e : PendStore) : Bool := 1 ≤ e.seq && e.seq ≤ 8

/-- The stores to perform so that those a test names are performed, each after the earlier ones of its sequencer that it
must follow (R99), and those that stay. -/
def splitStores (hit : PendStore → Bool) (l : List PendStore) : List PendStore × List PendStore :=
  l.foldr (fun e r =>
    if hit e || r.1.any (fun g => g.ctx == e.ctx && g.seq == e.seq && (e.inPattern || rangesMeet e.key e.size g.key g.size))
    then (e :: r.1, r.2)
    else (r.1, e :: r.2)) ([], [])

/-- A whole host line written under `.byp`: it goes to the host, which is asked nothing but to take it, and is not kept
(R400). -/
def State.putLine (s : State) (line v : Nat) : State :=
  let s := if [some .modified, some .exclusive].contains (s.line? line) then s else s.send (.cxl 3 line)
  (s.setLine line none).writeN (2 ^ 52 + 64 * line) v 64

/-- A store, a combination of reduce-on-write, or a whole host line becomes visible to every agent (R101, R198, R400). -/
def State.perform (s : State) (e : PendStore) : State :=
  let ph : Phys := { cls := .general, key := e.key, granule := e.granule }
  match e.red with
  | some tag => s.reduceAt ph e.size e.value tag
  | none =>
    match (if e.size = 64 ∧ e.key % 64 = 0 then hostLine e.key else none) with
    | some line => s.putLine line e.value
    | none => s.put ph e.size e.value

/-- The stores that a test names become visible, in program order where they meet. -/
def State.settleStores (s : State) (hit : PendStore → Bool) : State :=
  let r := splitStores hit s.pending
  r.1.foldl State.perform { s with pending := r.2 }

/-- Every store of a context's thread path becomes visible. -/
def State.settleCtx (s : State) (c : Fin 12) : State := s.settleStores fun e => e.by c

/-- What the moving context has read ahead of these bytes is forgotten. -/
def State.dropEarly (s : State) (k n : Nat) : State :=
  s.upd fun c => { c with early := c.early.filter fun e => !rangesMeet e.key e.size k n }

/-- The bytes whose stores a context's access to `n` bytes at a place must not overtake: a peer place's line of 64
bytes (R371), else the bytes themselves (R99). -/
def Phys.reach (ph : Phys) (n : Nat) : Nat × Nat := if ph.cls = .peer then (ph.key / 64 * 64, 64) else (ph.key, n)

/-- The moving context's earlier accesses to the bytes of its next one are performed (R99, R102, R371). -/
def State.claim (s : State) (ph : Phys) (n : Nat) : State :=
  let r := ph.reach n
  (s.settleStores fun e => e.by s.cur && rangesMeet e.key e.size r.1 r.2).dropEarly ph.key n

/-- What every context has read ahead of `n` bytes at `k` is forgotten. -/
def State.forgetEarly (s : State) (k n : Nat) : State :=
  { s with ctxs := s.ctxs.map fun c => { c with early := c.early.filter fun e => !rangesMeet e.key e.size k n } }

/-- The part of a wider value that `n` bytes at `k` are, if they lie inside it. -/
def insideOf (key size value k n : Nat) : Option Nat :=
  if key ≤ k && k + n ≤ key + size then some (value / 2 ^ (8 * (k - key)) % 2 ^ (8 * n)) else none

/-- What the moving context knows of these bytes without memory: what it has read ahead, or its own latest store to
them, unless that is a peer's (R99, R102, R371). -/
def State.known (s : State) (ph : Phys) (n : Nat) : Option Nat :=
  match s.ctx.early.findSome? fun e => insideOf e.key e.size e.value ph.key n with
  | some v => some v
  | none =>
    match (s.pending.filter fun e => e.by s.cur && rangesMeet e.key e.size ph.key n).getLast? with
    | none => none
    | some e => if e.peer || e.red.isSome then none else insideOf e.key e.size e.value ph.key n

/-- The value that a load of `n` bytes at a place returns. -/
def State.loadValue (s : State) (ph : Phys) (n : Nat) : Nat :=
  match s.known ph n with
  | some v => v
  | none => (s.claim ph n).readN ph.key n

/-- The state after that load: one that memory has answered before does not reach it again. -/
def State.afterLoad (s : State) (ph : Phys) (n : Nat) : State :=
  match s.known ph n with
  | some _ => s.dropEarly ph.key n
  | none => (s.claim ph n).noteRead ph

/-- The moving context's own lock covers this row: its accesses there are performed at the vault (R117). -/
def State.ownsRow (s : State) (k : Nat) : Bool :=
  decide (2 ^ 60 ≤ k) && s.ctx.lock.any fun l => (s.lockBanks l).contains (bankOf ((k - 2 ^ 60) / 1024 / 1040))

/-- A store to this place may stay unseen after it retires: not in a stage queue (R259), a mailbox, or rows under the
context's own lock (R117). -/
def State.delayable (s : State) (ph : Phys) : Bool :=
  ph.cls == .peer || s.late && !(ph.granule.any fun g => (s.queueOf g).isSome) &&
    (ph.key < 2 ^ 53 || ph.cls == .stash || (2 ^ 60 ≤ ph.key && !s.ownsRow ph.key))

/-- A participant of collectives that are not complete has written these bytes (R119). -/
def State.noteStore (s : State) (k n : Nat) : State :=
  if s.ctx.colls.isEmpty then s
  else s.upd fun c => { c with colls := c.colls.map fun x => { x with stores := (k, n) :: x.stores } }

/-- A store of `n` bytes by the moving context at a checked place (R99, R101, R371). -/
def State.store (s : State) (a : Word) (ph : Phys) (n v : Nat) : State :=
  let s := s.noteStore ph.key n
  if s.delayable ph then
    let s := if ph.cls = .peer then s.claim ph n else s.dropEarly ph.key n
    { s with pending := s.pending ++
        [{ ctx := s.cur.val, seq := 0, addr := a.toNat, key := ph.key, granule := ph.granule, size := n, value := v,
           red := none }] }
  else (s.claim ph n).put ph n v

/-- An element of a VRDW by the moving context at a checked place: its words have its tag at once, the combination may be
performed later (R100, R113, R198). -/
def State.reduceLate (s : State) (a : Word) (ph : Phys) (n v : Nat) (tag : RedTag) : State :=
  let s := (s.claim ph n).noteStore ph.key n
  if s.delayable ph then
    { s.setTags ph.key n tag with pending := s.pending ++
        [{ ctx := s.cur.val, seq := 0, addr := a.toNat, key := ph.key, granule := none, size := n, value := v,
           red := some tag }] }
  else s.reduceAt ph n v tag

/-- MemRead: every check, every stall, then the bytes (R7, R147). -/
def memRead (a : Word) (n : Nat) : M Nat := do
  let ph ← checkAccess .load a n
  stalls .load a n ph
  let s ← get
  set (s.afterLoad ph n)
  pure (s.loadValue ph n)

/-- MemWrite: every check, every stall, then the bytes (R7, R147). -/
def memWrite (a : Word) (n v : Nat) : M Unit := do
  let ph ← checkAccess .store a n
  stalls .store a n ph
  queueRoom ph
  modS fun s => s.store a ph n v

/-- One indivisible read-modify-write: `f` gives the new word, or none to write nothing (R110, R158, R159). -/
def memRmw (a : Word) (n : Nat) (f : Nat → Option Nat) : M Nat := do
  let ph ← checkAccess .atomic a n
  stalls .atomic a n ph
  queueRoom ph
  let s ← get
  let t := s.claim ph n
  let old := t.readN ph.key n
  match f old with
  | none => set (t.noteRead ph)
  | some v => set (((t.noteRead ph).noteStore ph.key n).put ph n v)
  pure old

/-- A context whose accesses go on: it runs, or waits for one of them, and neither a save nor a power state holds it. -/
def State.reads (s : State) (c : Fin 12) : Bool :=
  s.movable c || ((s.ctxs.get c).run == .waiting && s.stays c)

/-- A context reads `n` bytes ahead of its program: the access that needs them may return them (R99, R352). A context that
waits reads on too (R403). -/
def State.readAhead (s : State) (c : Fin 12) (addr n : Nat) : State :=
  let s' := { s with cur := c }
  let place : M Phys := do
    let ph ← checkAccess .load (BitVec.ofNat 64 addr) n
    stalls .load (BitVec.ofNat 64 addr) n ph
    pure ph
  if [1, 2, 4, 8, 16].contains n && s.reads c then
    match place s' with
    | .error _ _ => s
    | .ok ph t =>
      if t.ownsRow ph.key then s
      else
      let e : EarlyRead := { addr := addr, key := ph.key, size := n, value := t.loadValue ph n, far := none, own := 0 }
      { (t.afterLoad ph n).upd fun x => { x with early := x.early ++ [e] } with cur := s.cur }
  else s

/-- What a context that holds a scope makes visible when it releases: nothing at stitch scope, whose instance is the
context alone; stores to peer memory at domain and system scope only (R103 to R106, R371). What an agent outside the
core sees at a scope that does not contain it is not told apart (log 5). -/
def State.releases (s : State) (sc : BitVec 3) : State :=
  if sc = 0 then s else s.settleStores fun e => e.by s.cur && (5 ≤ sc.toNat || !e.peer)

/-- An acquire of scope `sc` leaves what was read ahead of peer memory below domain scope, and of bytes that only an agent
outside its instance has written since, memory holding `now` (R103, R105, R123, R371). -/
def EarlyRead.outlives (e : EarlyRead) (sc : BitVec 3) (now : Nat) : Bool :=
  (sc.toNat < 5 && 2 ^ 53 ≤ e.key && e.key < 2 ^ 54) || e.far.any fun f => sc.toNat < f.1 && f.2 == now

/-- An acquire: later loads of the context read afresh, those of peer memory from domain scope on (R103 to R106,
R371). One narrower than system orders nothing after a write of the host (R403). -/
def State.acquires (s : State) (sc : BitVec 3) : State :=
  if sc = 0 then s
  else s.upd fun c => { c with early := c.early.filter fun e => e.outlives sc (s.readN e.key e.size) }

/-- A value read ahead of bytes that held `was` and hold `now`, since an agent has written them that
synchronises from scope `sc` on only (R103, R403). -/
def EarlyRead.farWrote (e : EarlyRead) (sc was now : Nat) : EarlyRead :=
  let old := e.far.getD (sc, e.value)
  if was ≠ now && old.2 == was then { e with far := some (min sc old.1, now) } else e

/-- What contexts have read ahead of bytes that an agent outside the module has just changed: `s` is the state before, `sc`
the lowest scope that has an instance with the agent (R103, R403). -/
def State.noteFar (t s : State) (sc : Nat) : State :=
  let note (e : EarlyRead) : EarlyRead := e.farWrote sc (s.readN e.key e.size) (t.readN e.key e.size)
  { t with ctxs := t.ctxs.map fun c => { c with early := c.early.map note } }

/-- What a context has read ahead of bytes that one of its own other sequencers has just changed, `s` being the state
before: `mask` says which (R99, R108). -/
def State.noteOwn (t s : State) (c : Fin 12) (mask : Nat) : State :=
  let note (e : EarlyRead) : EarlyRead :=
    let was := s.readN e.key e.size
    let now := t.readN e.key e.size
    if was = now then e else { e.farWrote 7 was now with own := Nat.lor e.own mask }
  t.updAt c fun x => { x with early := x.early.map note }

/-- What the moving context has read ahead before its own sequencers of a mask wrote there is forgotten (R106, R108). -/
def State.dropOwn (s : State) (mask : Nat) : State :=
  s.upd fun c => { c with early := c.early.filter fun e => Nat.land e.own mask = 0 }

/-- What context `c` has read ahead of bytes that its collective has written is marked as such (R119). -/
def State.markEarly (s : State) (c : Fin 12) (mask : Nat) (places : List (Nat × Nat)) : State :=
  let note (e : EarlyRead) : EarlyRead :=
    if places.any (fun p => rangesMeet e.key e.size p.1 p.2) then { e with own := Nat.lor e.own mask } else e
  s.updAt c fun x => { x with early := x.early.map note }

/-- A release by context `c`. -/
def State.releasesBy (s : State) (c : Fin 12) (sc : BitVec 3) : State :=
  { { s with cur := c }.releases sc with cur := s.cur }

/-- An acquire by context `c`. -/
def State.acquiresBy (s : State) (c : Fin 12) (sc : BitVec 3) : State :=
  { { s with cur := c }.acquires sc with cur := s.cur }

/-- The scope of the acquire that ends a wait besides the one that its instruction makes itself: a watermark's is its
binding's, a channel's the core's, a bank lock's system (R31, R104, R115, R117, log 84). -/
def State.waitScope (s : State) (w : WaitCond) : BitVec 3 :=
  match w with
  | .mark n _ => ((s.wm.get (Fin.ofNat 16 n)).map (·.scope)).getD 0
  | .lock _ => 6
  | _ => 0

/-- The moving context releases at a scope. -/
def release (sc : BitVec 3) : M Unit := modS fun s => s.releases sc

/-- The moving context acquires at a scope. -/
def acquire (sc : BitVec 3) : M Unit := modS fun s => s.acquires sc

end Sys2Proof.Machine
end

