-- ==== Sys2Proof/Machine/Records.lean ====
section
/-!
DEFINITION. Records that instructions read at issue, blocks of lines, and the contexts, cores and tiles
that an ident operand names (R57, R246, R263, R310).
-/
namespace Sys2Proof.Machine

/-! ### Records -/

/-- The address causes of a record's loads carry the record's address as info (R262, R263, R354). -/
def forRecord (a : Word) (m : M α) : M α := fun s =>
  match m s with
  | .error (.trap c i) s =>
    .error (.trap c (if c = 0x03#8 || c = 0x04#8 || c = 0x05#8 || c = 0x15#8 then a else i)) s
  | r => r

/-- An instruction that traps performs no access: nothing of what it has read is noted (R142). -/
def orNothing (m : M α) : M α := fun s =>
  match m s with
  | .error (.trap c i) _ => .error (.trap c i) s
  | r => r

/-- `n` 8-byte loads from an address as one number. -/
def readWords (a : Word) : Nat → M Nat
  | 0 => pure 0
  | n + 1 => do
    let v ← memRead a 8
    let t ← readWords (a + 8) n
    pure (v + 2 ^ 64 * t)

/-- A record of `n` 8-byte words, aligned to `align` bytes, read by loads of the thread path. -/
def readRecord (a : Word) (align n : Nat) : M Nat :=
  forRecord a (do
    demand (a.toNat % align == 0) 0x03 a
    readWords a n)

/-- The checks of an access that admits pages of these classes alone: alignment, translation, class. The stash window
and a mailbox are pages of none of them (R80, R362). -/
def checkClass (classes : List MemClass) (acc : Access) (a : Word) (n : Nat) : M Phys := do
  demand (a.toNat % n == 0) 0x03 a
  demand (!(windowBase ≤ a.toNat && a.toNat < 2 ^ 55)) 0x05 a
  let ph ← checkAccess acc a n
  demand (classes.contains ph.cls && ph.key / 2 ^ 58 != 1) 0x05 a
  pure ph

/-- A record of `n` 8-byte words lies in general pages (R262, R354). -/
def generalRecord (a : Word) (n : Nat) : M Unit :=
  forRecord a ((List.range n).forM fun i => do
    let _ ← checkClass [.general] .load (a + BitVec.ofNat 64 (8 * i)) 8
    pure ())

/-- `n` lines of 64 bytes permit the access, checked in ascending order (R310). -/
def checkLines (acc : Access) (a : Word) : Nat → M Unit
  | 0 => pure ()
  | n + 1 => do
    let _ ← checkAccess acc a 64
    checkLines acc (a + 64) n

/-- Stores of 16 bytes each from an address. -/
def storeBlock (a : Word) : List Byte → Nat → M Unit
  | _, 0 => pure ()
  | bs, n + 1 => do
    memWrite a 16 (leValue (bs.take 16))
    storeBlock (a + 16) (bs.drop 16) n

/-- Loads of 16 bytes each from an address. -/
def loadBlock (a : Word) : Nat → M (List Byte)
  | 0 => pure []
  | n + 1 => do
    let v ← memRead a 16
    let t ← loadBlock (a + 16) n
    pure (leBytes 16 v ++ t)

/-- Bytes by key. -/
def State.readBytes (s : State) (k n : Nat) : List Byte := (List.range n).map fun i => s.byte (k + i)

/-- The state with bytes from a key on. -/
def State.writeBytes (s : State) (k : Nat) : List Byte → State
  | [] => s
  | b :: bs => (s.setByte k b).writeBytes (k + 1) bs

/-! ### Idents (R57) -/

/-- The stack that an ident names. -/
def identStack (id : Nat) : Nat := id / 4096 % 16
/-- The core of the module that an ident names. -/
def identCore (id : Nat) : Nat := id / 32 % 2048
/-- The kind that an ident names: 0 needle, 1 stitch, 2 guest. -/
def identKind (id : Nat) : Nat := id / 8 % 4
/-- The number that an ident names. -/
def identNum (id : Nat) : Nat := id % 8

/-- The stack of an ident belongs to the partition of the executing core (R298, 0x15). -/
def State.identInside (s : State) (id : Nat) : Bool := (s.part s.corePart).ownStacks.contains (identStack id)

/-- An ident operand outside the executing needle's partition is cause 0x15 with the ident (R305). -/
def insideIdent (id : Word) : M Unit := do
  let s ← get
  demand (s.identInside id.toNat) 0x15 id

/-- A core operand has kind and number zero, or cause 0x02 with the operand. -/
def coreOperand (id : Word) : M Unit := demand (id.toNat % 32 == 0) 0x02 id

/-- The tile slot of this core that holds the context an ident names. -/
def State.slotNamed (s : State) (id : Nat) : Option Nat :=
  if identCore id ≠ s.coreId then none
  else
    [0, 1].find? fun slot =>
      match s.tileAt slot with
      | none => false
      | some t =>
        (identKind id == 0 && identNum id == slot) || (identKind id == 1 && t.holds (identNum id))

/-- A frozen tile that pre-emption took off this core and that holds the context an ident names (R309, R337). DESIGN CHOICE
(log 77): where a tile that stands frozen on the core has that ident too, the ident names that one. -/
def State.savedNamed (s : State) (id : Nat) : Option SavedTile :=
  s.savedTiles.find? fun e => e.tile.kept && identCore id == s.coreId &&
    ((identKind id == 0 && identNum id == e.slot) || (identKind id == 1 && e.tile.holds (identNum id)))

/-- The remote tile that holds the context an ident names. -/
def RemoteTile.named (t : RemoteTile) (id : Nat) : Bool :=
  t.core == identCore id &&
    ((identKind id == 0 && identNum id == t.slot) ||
      (identKind id == 1 && t.base ≤ identNum id && identNum id < t.base + t.count))

/-- The remote tile of an ident. -/
def State.remoteNamed (s : State) (id : Nat) : Option RemoteTile := s.remote.find? fun t => t.named id

/-- Whose store a store of a context of a tile is while the tile is off the core. -/
def savedOwner (t : Tile) (c : Nat) : Nat := 16 + (t.launch * 2 ^ 32 + t.number) * 16 + c

/-- The stores that others have not seen yet change owners: by pairs of the old and the new one. -/
def State.relabel (s : State) (l : List (Nat × Nat)) : State :=
  { s with pending := s.pending.map fun e =>
      match l.find? fun p => p.1 == e.ctx with
      | some p => { e with ctx := p.2 }
      | none => e }

/-- A tile of another core ends early: its launch counts it (R313, R331). -/
def State.endRemote (s : State) (t : RemoteTile) : State :=
  let s := { s with remote := s.remote.filter fun r => r != t }
  s.updLaunch t.launch fun l => { l with running := l.running - 1, ended := l.ended + 1, early := l.early + 1 }

/-- The save-area offset of the context record an ident names (R340). -/
def State.recordKey (s : State) (p : Fin 16) (core index : Nat) : Nat :=
  let rank := ((s.part p).ownStacks.findIdx? (· == core / 128)).getD 0
  saveKey ((s.part p).savebase.toNat + (rank * 128 + core % 128) * 0x800000 + 0x4A0000 + index * 0x9600)

/-- The index of a context record in its block: needle slots, then context slots (R340). -/
def recordIndex (id : Nat) : Nat := if identKind id = 0 then identNum id else 2 + identNum id

end Sys2Proof.Machine
end

