-- ==== Sys2Proof/Machine/ScalarMem.lean ====
section
/-!
DEFINITION. Scalar loads and stores, majors 4 and 5 (R147 to R149).
-/
namespace Sys2Proof.Machine

/-- The effective address of a load or store (R147). -/
def Ctx.effective (c : Ctx) (a : BitVec 5) (im : BitVec 12) : Word := c.rx a + sx im

/-- A load of `n` bytes whose value `f` extends (R147). -/
def loadX (n : Nat) (f : Nat → Word) (d a : BitVec 5) (im : BitVec 12) (s : State) :
    Host.Outcome State Fault Refusal :=
  settle (do
    let c ← getC
    let v ← memRead (c.effective a im) n
    retireX 4 d (f v)) s

/-- A store of the low `n` bytes of X[rs2] (R147). -/
def storeX (n : Nat) (a b : BitVec 5) (im : BitVec 12) (s : State) : Host.Outcome State Fault Refusal :=
  settle (do
    let c ← getC
    memWrite (c.effective a im) n (c.rx b).toNat
    retire 4) s

/-- The low `n` bits sign-extended. -/
def extendS (n v : Nat) : Word := BitVec.ofInt 64 (sintOf n v)

/-- LB: 1 byte(s) (R147). -/
def execLb (d a : BitVec 5) (im : BitVec 12) (s : State) : Host.Outcome State Fault Refusal :=
  loadX 1 (extendS 8) d a im s

/-- LBU: 1 byte(s) (R147). -/
def execLbu (d a : BitVec 5) (im : BitVec 12) (s : State) : Host.Outcome State Fault Refusal :=
  loadX 1 (BitVec.ofNat 64) d a im s

/-- LH: 2 byte(s) (R147). -/
def execLh (d a : BitVec 5) (im : BitVec 12) (s : State) : Host.Outcome State Fault Refusal :=
  loadX 2 (extendS 16) d a im s

/-- LHU: 2 byte(s) (R147). -/
def execLhu (d a : BitVec 5) (im : BitVec 12) (s : State) : Host.Outcome State Fault Refusal :=
  loadX 2 (BitVec.ofNat 64) d a im s

/-- LW: 4 byte(s) (R147). -/
def execLw (d a : BitVec 5) (im : BitVec 12) (s : State) : Host.Outcome State Fault Refusal :=
  loadX 4 (extendS 32) d a im s

/-- LWU: 4 byte(s) (R147). -/
def execLwu (d a : BitVec 5) (im : BitVec 12) (s : State) : Host.Outcome State Fault Refusal :=
  loadX 4 (BitVec.ofNat 64) d a im s

/-- LD: 8 byte(s) (R147). -/
def execLd (d a : BitVec 5) (im : BitVec 12) (s : State) : Host.Outcome State Fault Refusal :=
  loadX 8 (BitVec.ofNat 64) d a im s

/-- LQ: bytes 0 to 7 to X[rd], bytes 8 to 15 to X[rd + 1]; ldst records rd (R134, R148). -/
def execLq (d a : BitVec 5) (im : BitVec 12) (s : State) : Host.Outcome State Fault Refusal :=
  settle (do
    let c ← getC
    let v ← memRead (c.effective a im) 16
    modC fun c => c.setX (d + 1) (BitVec.ofNat 64 (v / 2 ^ 64))
    retireX 4 d (BitVec.ofNat 64 v)) s

/-- SB: 1 byte(s) (R147). -/
def execSb (a b : BitVec 5) (im : BitVec 12) (s : State) : Host.Outcome State Fault Refusal :=
  storeX 1 a b im s

/-- SH: 2 byte(s) (R147). -/
def execSh (a b : BitVec 5) (im : BitVec 12) (s : State) : Host.Outcome State Fault Refusal :=
  storeX 2 a b im s

/-- SW: 4 byte(s) (R147). -/
def execSw (a b : BitVec 5) (im : BitVec 12) (s : State) : Host.Outcome State Fault Refusal :=
  storeX 4 a b im s

/-- SD: 8 byte(s) (R147). -/
def execSd (a b : BitVec 5) (im : BitVec 12) (s : State) : Host.Outcome State Fault Refusal :=
  storeX 8 a b im s

/-- SQ: X[rs2] at bytes 0 to 7 and X[rs2 + 1] at bytes 8 to 15; register 0 gives zero (R148). -/
def execSq (a b : BitVec 5) (im : BitVec 12) (s : State) : Host.Outcome State Fault Refusal :=
  settle (do
    let c ← getC
    memWrite (c.effective a im) 16 ((c.rx b).toNat + 2 ^ 64 * (c.rx (b + 1)).toNat)
    retire 4) s

end Sys2Proof.Machine
end

