-- ==== Sys2Proof/Machine/Waits.lean ====
section
/-!
DEFINITION. When an architectural wait has its condition (R36), and how time passes: the cycle count, the
time that timeouts and watchdogs count, and the watchdog timers (R3, R314, R384).
-/
namespace Sys2Proof.Machine

/-- Cycles in a microsecond (R3, R30). -/
def cyclesPerUs : Nat := 1050

/-- Cycles in a millisecond. -/
def cyclesPerMs : Nat := 1050000

/-- The value that a binding shows: completed elements, or for a channel the filled address (R52, R271). -/
def Watermark.shown (w : Watermark) : Nat :=
  match w.role with
  | .channel => w.chanValue w.filled
  | _ => w.value

/-- The number of strips of a channel (R269). -/
def Watermark.strips (w : Watermark) : Nat := ceilDiv w.count w.stripLen

/-- Every strip whose fetch has started is written, or the channel has stopped (R270 to R272). -/
def Watermark.settled (w : Watermark) : Bool :=
  w.failed.isSome || !w.kicked || min w.count (min (w.ended + 2) w.strips * w.stripLen) ≤ w.filled

/-- The channels that a context has kicked have written every strip whose fetch has started (R161). -/
def State.stripsWritten (s : State) (c : Fin 12) : Bool :=
  s.wm.toList.all fun w => w.all fun b => b.role != .channel || b.owner != c.val || b.settled

/-- The key of a word, without a context's stalls. -/
def State.peekKey (s : State) (c : Fin 12) (va : Nat) : Option Nat :=
  let outside (a : Nat) : Option Nat :=
    match s.xlate (s.partOf c) (s.privOf c) .load a with
    | .ok ph => some ph.key
    | .error _ => none
  if windowBase ≤ va && va < 2 ^ 55 then
    match s.mapOf (va - windowBase) with
    | none => some (stashKey (va - windowBase))
    | some g => outside g
  else outside va

/-- Read a word without a context's stalls, its own stores performed: for the hardware that tests a wait (R102, R278,
R370). -/
def State.peek (s : State) (c : Fin 12) (a : Word) (n : Nat) : Option Nat :=
  (s.peekKey c a.toNat).map fun k =>
    (s.settleStores fun e => e.by c && rangesMeet e.key e.size k n).readN k n

/-- The comparison of a VWAIT on words of `esz` bytes: op 0 eq, 1 ne, 2 ge, 3 lt, plus 4 when signed (R197). -/
def waitTest (op esz w v : Nat) : Bool :=
  let l : Int := if 4 ≤ op then sintOf (8 * esz) w else w
  let r : Int := if 4 ≤ op then sintOf (8 * esz) v else v
  match op % 4 with
  | 0 => l == r
  | 1 => l != r
  | 2 => r ≤ l
  | _ => l < r

/-- The timeout of a ticket has passed in counted time (R283). -/
def State.ticketLate (s : State) (t : Ticket) : Bool := t.issued + t.timeout * cyclesPerUs ≤ s.counted

/-- Context `a` is older than `b`: by its launch's enqueue or its throw's arrival, then by its number (R37). -/
def State.olderThan (s : State) (a b : Fin 12) : Bool :=
  let age (c : Fin 12) : Nat :=
    match (s.ctxs.get c).guest with
    | some g => g.arrived
    | none => (((s.launchOf c).bind fun id => s.launches.find? fun l => l.id == id).map (·.enqueued)).getD 0
  age a < age b || (age a == age b && a.val < b.val)

/-- A granule is reserved for another clearing step that waits for it: an older one, or any if `c` does not
wait itself (R89, R193). -/
def State.reserved (s : State) (c : Fin 12) (g : Nat) : Bool :=
  (List.range 12).any fun n =>
    let o := ctxIx n
    o != c && !(s.ctxs.get o).saved &&
      (match (s.ctxs.get o).wait with
       | some (.granules gs true) => gs.contains g && ((s.ctxs.get c).wait.isNone || s.olderThan o c)
       | _ => false)

/-- No delivered element of the store streams of a mask of slots is left to perform (R109, R161). -/
def Ctx.streamsDrained (c : Ctx) (mask : Nat) : Bool :=
  (List.range 8).all fun n =>
    bitsAt mask n 1 == 0 ||
      (match c.sq.get (Fin.ofNat 8 n) with
       | some q => q.deliveries.isEmpty
       | none => true)

/-- A stitch's STOP is complete, or it has faulted: a stopped one's streams are drained (R250, R251). -/
def Ctx.finished (c : Ctx) : Bool := (c.run == .stopped && c.streamsDrained 255) || c.run == .faulted

/-- The condition that ends a wait holds now (R36). A word that cannot be read ends the wait, so that its
instruction runs again and traps; a VWAIT runs again when a word of it passes and records that (R112).
DESIGN CHOICE (log 70): a full-empty load that waits on a mapped granule whose copy another agent's write takes away
does not touch it again by itself. -/
def State.waitMet (s : State) (c : Fin 12) (w : WaitCond) : Bool :=
  match w with
  | .waits mask =>
    let base := ((s.tileOf c).map (·.base)).getD 0
    (List.range 8).all fun n =>
      !mask.getLsbD n ||
        (s.ctxs.get (ctxIx (2 + base + n))).finished
  | .reply ticket =>
    let t := (s.ctxs.get c).tickets.get (Fin.ofNat 8 (ticket.toNat % 8))
    !t.used || t.seq.toNat != ticket.toNat / 16 || t.reply.isSome || s.ticketLate t
  | .signal addr value =>
    match s.peek c addr 8 with
    | some v => value ≤ v
    | none => true
  | .mark n bound =>
    match s.wm.get (Fin.ofNat 16 n) with
    | none => true
    | some w => bound ≤ w.shown || w.failed.isSome || !s.inLaunch c w
  | .words esz op pending =>
    pending.any fun p =>
      match s.peek c (BitVec.ofNat 64 p.2.1) esz with
      | some v => waitTest op esz v p.2.2
      | none => true
  | .granules gs clear => gs.all fun g => s.full.contains g && !(clear && s.reserved c g)
  | .bank _ _ _ => true
  | .coll _ _ => true
  | .push _ _ _ _ _ => true
  | .lock key => s.lockOver c ((key - 2 ^ 60) / 1024 / 1040) != some false

/-- The power-fail clamp, HOLD or RET is in force: bounds, timeouts and watchdogs do not count (R35, R384). -/
def State.suspended (s : State) : Bool :=
  s.mgmt.clamp || s.mgmt.power == .hold || s.mgmt.power == .ret

/-- Contexts may issue: an active operating state with its rails on (R35, R382, R384). -/
def State.active (s : State) : Bool :=
  (match s.mgmt.power with
   | .op _ => true
   | _ => false) && !s.mgmt.railsOff && !s.mgmt.halted

/-- Launches and throws may start, tiles may return: no entry into RET is under way (R386). -/
def State.accepting (s : State) : Bool := s.active && s.mgmt.entering.isNone

/-- The timer of a context runs: that of a needle at S or M is held (R314). -/
def State.watched (s : State) (c : Fin 12) : Bool :=
  let x := s.ctxs.get c
  x.run != .stopped && x.run != .faulted && !x.saved &&
    !((s.tileOf c).any fun t => t.frozen) &&
    !(x.run == .waiting && x.unbounded && !(x.wait.any fun w => s.waitMet c w)) &&
    (kindOf c != .needle || x.priv == 0)

/-- Time passes: `n` cycles (R56, R314). -/
def State.elapse (s : State) (n : Nat) : State :=
  if s.suspended then { s with now := s.now + n }
  else
    { s with now := s.now + n, counted := s.counted + n,
             ctxs := Vector.ofFn fun c =>
               let x := s.ctxs.get c
               if s.watched c then { x with timer := x.timer + n } else x }

/-- The lanes a context has now: none under the clamp (R384). -/
def State.lanes (s : State) (c : Fin 12) : BitVec 6 := if s.mgmt.clamp then 0 else (s.ctxs.get c).alc

end Sys2Proof.Machine
end

