-- ==== Sys2Proof/Machine/Atomic.lean ====
section
/-!
DEFINITION. Scalar atomics, FENCE and SBAR, major 10 (R108, R109, R158 to R162).
-/
namespace Sys2Proof.Machine

/-- The operand size in bytes (R158). -/
def atomSize (z : BitVec 1) : Nat := if z = 1 then 8 else 4

/-- An old value as X[rd] receives it: sign-extended from 32 bits when sz = 0 (R158). -/
def atomWord (n v : Nat) : Word := extendS (8 * n) v

/-- The new memory value of an atomic on words of `n` bytes (R158, R195). -/
def applyAtom (op : AtomOp) (n old v : Nat) : Nat :=
  let w := 8 * n
  let o := old % 2 ^ w
  let x := v % 2 ^ w
  match op with
  | .swap => x
  | .add => (o + x) % 2 ^ w
  | .and => Nat.land o x
  | .or => Nat.lor o x
  | .xor => Nat.xor o x
  | .min => if sintOf w o < sintOf w x then o else x
  | .max => if sintOf w o < sintOf w x then x else o
  | .minu => min o x
  | .maxu => max o x

/-- An atomic read-modify-write of X[rd] at X[rs1] (R158). -/
def atomic (op : AtomOp) (d a b : BitVec 5) (q e : BitVec 1) (sc : BitVec 3) (z : BitVec 1) (s : State) :
    Host.Outcome State Fault Refusal :=
  settle (do
    scopeOk sc
    let c ← getC
    let n := atomSize z
    if e = 1 then release sc else pure ()
    let old ← memRmw (c.rx a) n (fun o => some (applyAtom op n o (c.rx b).toNat))
    if q = 1 then acquire sc else pure ()
    retireX 4 d (atomWord n old)) s

/-- SWAP: new memory value by `swap` (R158). -/
def execSwap (d a b : BitVec 5) (q e : BitVec 1) (sc : BitVec 3) (z : BitVec 1) (s : State) :
    Host.Outcome State Fault Refusal :=
  atomic .swap d a b q e sc z s

/-- AADD: new memory value by `add` (R158). -/
def execAadd (d a b : BitVec 5) (q e : BitVec 1) (sc : BitVec 3) (z : BitVec 1) (s : State) :
    Host.Outcome State Fault Refusal :=
  atomic .add d a b q e sc z s

/-- AAND: new memory value by `and` (R158). -/
def execAand (d a b : BitVec 5) (q e : BitVec 1) (sc : BitVec 3) (z : BitVec 1) (s : State) :
    Host.Outcome State Fault Refusal :=
  atomic .and d a b q e sc z s

/-- AOR: new memory value by `or` (R158). -/
def execAor (d a b : BitVec 5) (q e : BitVec 1) (sc : BitVec 3) (z : BitVec 1) (s : State) :
    Host.Outcome State Fault Refusal :=
  atomic .or d a b q e sc z s

/-- AXOR: new memory value by `xor` (R158). -/
def execAxor (d a b : BitVec 5) (q e : BitVec 1) (sc : BitVec 3) (z : BitVec 1) (s : State) :
    Host.Outcome State Fault Refusal :=
  atomic .xor d a b q e sc z s

/-- AMIN: new memory value by `min` (R158). -/
def execAmin (d a b : BitVec 5) (q e : BitVec 1) (sc : BitVec 3) (z : BitVec 1) (s : State) :
    Host.Outcome State Fault Refusal :=
  atomic .min d a b q e sc z s

/-- AMAX: new memory value by `max` (R158). -/
def execAmax (d a b : BitVec 5) (q e : BitVec 1) (sc : BitVec 3) (z : BitVec 1) (s : State) :
    Host.Outcome State Fault Refusal :=
  atomic .max d a b q e sc z s

/-- AMINU: new memory value by `minu` (R158). -/
def execAminu (d a b : BitVec 5) (q e : BitVec 1) (sc : BitVec 3) (z : BitVec 1) (s : State) :
    Host.Outcome State Fault Refusal :=
  atomic .minu d a b q e sc z s

/-- AMAXU: new memory value by `maxu` (R158). -/
def execAmaxu (d a b : BitVec 5) (q e : BitVec 1) (sc : BitVec 3) (z : BitVec 1) (s : State) :
    Host.Outcome State Fault Refusal :=
  atomic .maxu d a b q e sc z s

/-- CAS: writes X[rs2] where the old value equals X[rd]; a failing CAS only reads (R159). -/
def execCas (d a b : BitVec 5) (q e : BitVec 1) (sc : BitVec 3) (z : BitVec 1) (s : State) :
    Host.Outcome State Fault Refusal :=
  settle (do
    scopeOk sc
    let c ← getC
    let n := atomSize z
    let want := (c.rx d).toNat % 2 ^ (8 * n)
    if e = 1 then release sc else pure ()
    let old ← memRmw (c.rx a) n (fun o => if o = want then some (c.rx b).toNat else none)
    if q = 1 then acquire sc else pure ()
    retireX 4 d (atomWord n old)) s

/-- LDA: a load that is an acquire (R160). -/
def execLda (d a : BitVec 5) (sc : BitVec 3) (z : BitVec 1) (s : State) : Host.Outcome State Fault Refusal :=
  settle (do
    scopeOk sc
    let c ← getC
    let v ← memRead (c.rx a) (atomSize z)
    acquire sc
    retireX 4 d (atomWord (atomSize z) v)) s

/-- STL: a store that is a release (R160). -/
def execStl (a b : BitVec 5) (sc : BitVec 3) (z : BitVec 1) (s : State) : Host.Outcome State Fault Refusal :=
  settle (do
    scopeOk sc
    let c ← getC
    release sc
    memWrite (c.rx a) (atomSize z) (c.rx b).toNat
    retire 4) s

/-- A wait that is not architectural: the instruction runs again. -/
def stall : M α := fun s => .error .stall s

/-- Stall unless the condition holds. -/
def waitFor (ok : Bool) : M Unit := if ok then pure () else stall

/-- A detected plane error that is pending is raised here, once (R218, R290). -/
def planeErrorPending : M Unit := fun s =>
  match s.ctx.planeErr with
  | a :: t => .error (.trap 0x16#8 a) (s.upd fun c => { c with planeErr := t })
  | [] => .ok () s

/-- Load streams of the mask discard every group fetched and not delivered (R109). -/
def Ctx.discardFetched (c : Ctx) (mask : Nat) : Ctx :=
  { c with sq := Vector.ofFn fun n =>
      (c.sq.get n).map fun q => if bitsAt mask n.val 1 == 1 && !q.store then { q with fetched := [] } else q }

/-- Every write that the stream slots of a mask of slots of a context have made becomes visible. -/
def State.settleSlots (s : State) (c : Fin 12) (mask : Nat) : State :=
  s.settleStores fun e => e.ctx == c.val && e.inPattern && bitsAt mask (e.seq - 1) 1 == 1

/-- What a complete FENCE leaves (R106, R108, R161). Stores of P are visible at its scope, and at every scope to the
context's own sequencers of S; so are the writes of its streams; loads of S come after what its own sequencers of P have
written and acquire at the scope; stream fetches of S come afresh. With engines in P it observes the completion of the
context's collectives (R119, R286). An empty P or S orders nothing else. -/
def State.fenced (s : State) (p su : BitVec 5) (sc : BitVec 3) : State :=
  let s := if p.getLsbD 4 then s.dropOwn 16 else s
  if p = 0 || su = 0 then s
  else
    let s := if !p.getLsbD 1 then s
      else if su &&& 0x1C#5 ≠ 0 then s.settleCtx s.cur
      else s.releases sc
    let s := if p.getLsbD 2 then s.settleSlots s.cur 255 else s
    let s := if su.getLsbD 0 then (s.dropOwn p.toNat).acquires sc else s
    if su.getLsbD 2 then s.upd fun c => c.discardFetched 255 else s

/-- FENCE: waits until every class of P is complete (R161). -/
def execFence (p su : BitVec 5) (sc : BitVec 3) (s : State) : Host.Outcome State Fault Refusal :=
  settle (do
    scopeOk sc
    let x ← getC
    if p.getLsbD 3 then planeErrorPending else pure ()
    waitFor (!p.getLsbD 2 || x.streamsDrained 255)
    waitFor (!p.getLsbD 3 || x.planes.isEmpty)
    let s ← get
    waitFor (!p.getLsbD 4 || (x.colls.isEmpty && s.stripsWritten s.cur))
    modS fun s => s.fenced p su sc
    retire 4) s

/-- A slot of the mask is bound to a stream of this direction. -/
def Ctx.streamNamed (c : Ctx) (mask : Nat) (store : Bool) : Bool :=
  (List.range 8).any fun n => bitsAt mask n 1 == 1 && (c.sq.get (Fin.ofNat 8 n)).any fun q => q.store == store

/-- What SBAR leaves, its store streams being drained (R109): what they wrote comes before every later access; what a named
load stream delivers from now on is read after every earlier access. -/
def State.barred (s : State) (mask : Nat) : State :=
  let s := if s.ctx.streamNamed mask true then (s.settleSlots s.cur mask).dropOwn 4 else s
  let s := if s.ctx.streamNamed mask false then s.settleCtx s.cur else s
  s.upd fun c => c.discardFetched mask

/-- SBAR: named store streams are drained, named load streams forget what they fetched (R109, R162). -/
def execSbar (m : BitVec 8) (s : State) : Host.Outcome State Fault Refusal :=
  settle (do
    onlyStitch
    let x ← getC
    waitFor (x.streamsDrained m.toNat)
    modS fun s => s.barred m.toNat
    retire 4) s

end Sys2Proof.Machine
end

