-- ==== Sys2Proof/Machine/Branch.lean ====
section
/-!
DEFINITION. Branches, jumps and VLOOP, majors 6 to 8 (R150 to R152), and what a VLOOP does to the copy
channels of its context (R270, R272).
-/
namespace Sys2Proof.Machine

/-- A branch: taken to pc + 2 × sign-extend(off12), else on to pc + 4 (R150). -/
def branchIf (cond : Word → Word → Bool) (a b : BitVec 5) (im : BitVec 12) (s : State) :
    Host.Outcome State Fault Refusal :=
  let c := s.ctx
  .next (if cond (c.rx a) (c.rx b) then s.jump (c.pc + 2 * sx im) (ldNone c.ldst) else s.done 4)

/-- BEQ: a = b (R150). -/
def execBeq (a b : BitVec 5) (im : BitVec 12) (s : State) : Host.Outcome State Fault Refusal :=
  branchIf (fun a b => a == b) a b im s

/-- BNE: a ≠ b (R150). -/
def execBne (a b : BitVec 5) (im : BitVec 12) (s : State) : Host.Outcome State Fault Refusal :=
  branchIf (fun a b => a != b) a b im s

/-- BLT: s(a) < s(b) (R150). -/
def execBlt (a b : BitVec 5) (im : BitVec 12) (s : State) : Host.Outcome State Fault Refusal :=
  branchIf (fun a b => a.slt b) a b im s

/-- BGE: s(a) ≥ s(b) (R150). -/
def execBge (a b : BitVec 5) (im : BitVec 12) (s : State) : Host.Outcome State Fault Refusal :=
  branchIf (fun a b => !a.slt b) a b im s

/-- BLTU: u(a) < u(b) (R150). -/
def execBltu (a b : BitVec 5) (im : BitVec 12) (s : State) : Host.Outcome State Fault Refusal :=
  branchIf (fun a b => a.ult b) a b im s

/-- BGEU: u(a) ≥ u(b) (R150). -/
def execBgeu (a b : BitVec 5) (im : BitVec 12) (s : State) : Host.Outcome State Fault Refusal :=
  branchIf (fun a b => !a.ult b) a b im s

/-- A jump that writes the link X[rd] = pc + 4 (R151). -/
def State.link (s : State) (d : BitVec 5) (target : Word) : State :=
  (s.upd fun c => c.setX d (c.pc + 4)).jump target (ldX d)

/-- JAL: to pc + 2 × sign-extend(off20) (R151). -/
def execJal (d : BitVec 5) (f : BitVec 20) (s : State) : Host.Outcome State Fault Refusal :=
  .next (s.link d (s.ctx.pc + 2 * sx f))

/-- JALR: to X[rs1] + sign-extend(imm12); an odd target is cause 0x03 and nothing is written (R151). -/
def execJalr (d a : BitVec 5) (im : BitVec 12) (s : State) : Host.Outcome State Fault Refusal :=
  let t := s.ctx.rx a + sx im
  settle (do
    demand (!t.getLsbD 0) 0x03 t
    modS fun s => s.link d t) s

/-- A channel binding after one more retired VLOOP of its owner; it becomes free when it has ended and
every started strip is written (R270, R272). An unbinding channel starts no strip; the others note when (R115). -/
def Watermark.advance (w : Watermark) (now : Nat) : Option Watermark :=
  if !w.kicked || w.unbinding || w.strips ≤ w.ended then some w
  else
    let w' := { w with ended := w.ended + 1,
                       starts := if w.ended + 2 < w.strips then w.starts ++ [now] else w.starts }
    if w'.ended = w.strips && w'.settled then none else some w'

/-- The channels that the moving context owns advance by a strip (R270); nothing read ahead of their buffers stays (R271). -/
def State.advanceChannels (s : State) : State :=
  let mine (w : Option Watermark) : Bool := w.any fun b => b.role == .channel && b.owner == s.cur.val
  let s := s.wm.toList.foldl (fun s w =>
    if mine w then (w.map fun b => s.forgetEarly (stashKey b.offset) (2 * b.stripLen * b.esz)).getD s else s) s
  { s with wm := s.wm.map fun w => if mine w then w.bind (·.advance s.now) else w }

/-- VLOOP: the strip-mining back-edge on X[rd] (R152). Its retirement ends a strip of the context's
channels whether or not it is taken (R270). -/
def execVloop (d : BitVec 5) (im : BitVec 12) (s : State) : Host.Outcome State Fault Refusal :=
  let c := s.ctx
  let n := (c.rx d).toNat
  let vl := c.vl.toNat
  let s := s.advanceChannels
  .next (if vl = 0 || n ≤ vl then s.doneX 4 d 0
    else (s.upd fun c => c.setX d (BitVec.ofNat 64 (n - vl))).jump (c.pc + 2 * sx im) (ldX d))

end Sys2Proof.Machine
end

