-- ==== Sys2Proof/Machine/Launch.lean ====
section
/-!
DEFINITION. Launch queues and LAUNCH, major 29 and long major 4 (R287, R320 to R323, R327); accesses of the
scheduler and of other engines of the module.
-/
namespace Sys2Proof.Machine

/-! ### Accesses of engines (R329, R354) -/

/-- `n` bytes that an engine reads in a partition at a privilege. -/
def State.engineRead (s : State) (p : Fin 16) (priv va n : Nat) : Except (BitVec 8) Nat :=
  if va % n ≠ 0 then .error 0x03
  else
    match s.xlate p priv .load va with
    | .error c => .error c
    | .ok ph => .ok (s.readN ph.key n)

/-- An engine's read counts and brings a host line, as every read does (R359, R400). -/
def State.noteEngine (s : State) (p : Fin 16) (priv va : Nat) : State :=
  match s.xlate p priv .load va with
  | .error _ => s
  | .ok ph => s.noteRead { ph with granule := none }

/-- `n` bytes that an engine writes. -/
def State.engineWrite (s : State) (p : Fin 16) (priv va n v : Nat) : Except (BitVec 8) State :=
  if va % n ≠ 0 then .error 0x03
  else
    match s.xlate p priv .store va with
    | .error c => .error c
    | .ok ph => .ok (s.agentPut ph n v)

/-- An engine adds to an 8-byte word (R110). -/
def State.engineAdd (s : State) (p : Fin 16) (priv va v : Nat) : Except (BitVec 8) State :=
  match s.engineRead p priv va 8, s.xlate p priv .atomic va with
  | .ok old, .ok _ => s.engineWrite p priv va 8 (old + v)
  | .error c, _ => .error c
  | _, .error c => .error c

/-- The address lies below the stash window and the reserved range, and its leaf, where it has one, is of class general
(R79, R320, log 39). -/
def State.generalLeaf (s : State) (p : Fin 16) (va : Nat) : Bool :=
  va < 2 ^ 54 &&
    (match s.walk p va with
     | .ok e => leafClass e == .general
     | .error _ => true)

/-- The address lies in a general page that is readable at the privilege. -/
def State.generalAt (s : State) (p : Fin 16) (priv : Nat) (acc : Access) (va : Nat) : Bool :=
  match s.xlate p priv acc va with
  | .ok ph => ph.cls == .general
  | .error _ => false

/-! ### Queue headers (R320) -/

/-- The fields of a queue's header line. -/
structure QueueHead where
  base : Nat
  n : Nat
  prio : Nat
  enable : Bool
  home : Nat
  head : Nat
  tail : Nat
deriving DecidableEq, Repr

/-- The address of a queue's header line. -/
def State.headAddr (s : State) (p : Fin 16) (q : Nat) : Nat := (s.part p).qbase.toNat + 128 * q

/-- A number is a power of two between two bounds. -/
def powerBetween (lo hi n : Nat) : Bool := lo ≤ n && n ≤ hi && 2 ^ Nat.log2 n == n

/-- A header line as the scheduler reads it; none where it cannot be read or breaks a limit (R320). -/
def State.queueHead (s : State) (p : Fin 16) (q : Nat) : Option QueueHead :=
  match s.engineRead p 1 (s.headAddr p q) 128 with
  | .error _ => none
  | .ok r =>
    let h : QueueHead := QueueHead.mk (bitsAt r 0 64) (bitsAt r 64 32) (bitsAt r 96 8) (bitsAt r 104 1 == 1)
      (bitsAt r 112 8) (bitsAt r 128 64) (bitsAt r 512 64)
    if powerBetween 16 65536 h.n && h.base % (32 * h.n) == 0 && s.generalLeaf p h.base && h.prio ≤ 7 &&
        bitsAt r 105 7 == 0 && h.home < (s.part p).ownStacks.length && bitsAt r 120 8 == 0 && bitsAt r 192 320 == 0 &&
        bitsAt r 576 448 == 0
    then some h else none

/-- The queue takes entries: its header is whole, enabled, and the queue is not stopped (R320, R322). -/
def State.queueOpen (s : State) (p : Fin 16) (q : Nat) : Option QueueHead :=
  (s.queueHead p q).bind fun h => if h.enable && !(s.part p).stopped.getLsbD q then some h else none

/-- The address of the ring entry of a count (R321). -/
def QueueHead.entryAddr (h : QueueHead) (c : Nat) : Nat := h.base + 32 * (c % h.n)

/-! ### LAUNCH -/

/-- When entry `n` of a queue was enqueued is noted, once (R37, R332). -/
def State.noteEntry (s : State) (p : Fin 16) (q n : Nat) : State :=
  s.updPart p fun x =>
    { x with queued := if x.queued.any fun y => y.1 == q && y.2.1 == n then x.queued else x.queued ++ [(q, n, s.now)] }

/-- Both forms write an entry at tail and then tail + 1, in one step (R323); a stopped queue is as a disabled one
(R322). -/
def enqueue (q : Nat) (entry : Nat) (len : Nat) : M Unit := do
  let s ← get
  let p := s.partOf s.cur
  match s.queueOpen p q with
  | none => trap 0x05 (BitVec.ofNat 64 q)
  | some h => do
    waitFor ((h.tail + 2 ^ 64 - h.head) % 2 ^ 64 < h.n)
    release 6
    let s ← get
    match s.engineWrite p 1 (h.entryAddr h.tail) 32 entry with
    | .error c => trap c (BitVec.ofNat 64 (h.entryAddr h.tail))
    | .ok s =>
      match s.engineWrite p 1 (s.headAddr p q + 64) 8 (h.tail + 1) with
      | .error _ => trap 0x05 (BitVec.ofNat 64 q)
      | .ok s => do
        set (s.noteEntry p q h.tail)
        retire len

/-- LAUNCH: the descriptor is readable in general memory; the info is the address in its page that fails (R287,
R323, log 39). -/
def execLaunch (b c : BitVec 5) (s : State) : Host.Outcome State Fault Refusal :=
  settle (do
    notGuest
    let x ← getC
    let q := x.rx b
    let d := x.rx c
    demand (q.toNat ≤ 63) 0x02 q
    demand (d.toNat % 128 == 0) 0x03 d
    let _ ← checkClass [.general] .load d 1
    let e := if d.toNat % 65536 + 1151 < 65536 then d else d + BitVec.ofNat 64 (65536 - d.toNat % 65536)
    let _ ← checkClass [.general] .load e 1
    enqueue q.toNat d.toNat 4) s

/-- The inline entry of R321. -/
def inlineEntry (scode count : Nat) (entry signal : Word) : Nat :=
  1 + 2 * scode + 2 ^ 8 * count + 2 ^ 64 * entry.toNat + 2 ^ 128 * signal.toNat

/-- LAUNCH, the inline form (R327). -/
def execLaunchInline (sreg : BitVec 5) (count : BitVec 32) (scode : BitVec 2) (queue : BitVec 6) (a : BitVec 5)
    (s : State) : Host.Outcome State Fault Refusal :=
  settle (do
    notGuest
    let x ← getC
    enqueue queue.toNat (inlineEntry scode.toNat count.toNat (x.rx a) (x.rx sreg)) 8) s

end Sys2Proof.Machine
end

