-- ==== Sys2Proof/Machine/Lanes.lean ====
section
/-!
DEFINITION. Lane groups of the core: what a tile holds, loans and caps (R24, R26, R311, R335, R336).
-/
namespace Sys2Proof.Machine

/-- The contexts of a tile's stitches. -/
def Tile.stitchCtxs (t : Tile) : List (Fin 12) := (List.range t.count).map fun n => ctxIx (2 + t.base + n)

/-- The lane groups that a tile holds. -/
def State.groupsOf (s : State) (t : Tile) : Nat :=
  (t.stitchCtxs.map fun c => (s.ctxs.get c).alc.toNat / 4).foldl (· + ·) 0

/-- The lane groups that are a tile's, those among them that guests have borrowed from it (R24, R34). -/
def State.nominal (s : State) (t : Tile) : Nat :=
  s.groupsOf t +
    ([10, 11].filter fun n => ((s.ctxs.get (ctxIx n)).guest.bind (·.lender)).any fun l =>
      2 + t.base ≤ l && l < 2 + t.base + t.count).length

/-- The tiles of the core, the one that started first before the other. -/
def State.tilesByStart (s : State) : List Tile :=
  match s.tileAt 0, s.tileAt 1 with
  | none, none => []
  | some a, none => [a]
  | none, some b => [b]
  | some a, some b => if a.order ≤ b.order then [a, b] else [b, a]

/-- The age of a tile: the moment at which its launch was enqueued (R37). -/
def State.tileAge (s : State) (t : Tile) : Nat :=
  ((s.launches.find? fun l => l.id == t.launch).map (·.enqueued)).getD t.order

/-- Tile `a` goes before tile `b`: higher priority, then older (R37). -/
def State.tileBefore (s : State) (a b : Tile) : Bool :=
  b.prio < a.prio || (a.prio == b.prio &&
    (s.tileAge a < s.tileAge b || (s.tileAge a == s.tileAge b && a.launch ≤ b.launch)))

/-- The groups the first of two tiles may hold beside `held` groups of the other (R311). -/
def State.olderShare (s : State) (older younger : Tile) (held : Nat) : Nat :=
  if older.prio = 7 then s.coreGroups - held
  else if younger.prio = 7 then min (s.coreGroups - held) s.laneCap.toNat
  else min s.coreGroups s.laneCap.toNat - held

/-- The lane groups that a second tile may hold while `held` are the other's, those lent to guests among them, under the cap
(R24, R311, R335). -/
def State.secondGroups (s : State) (o : Tile) (prio held : Nat) : Nat :=
  if prio = 7 then s.coreGroups - held
  else min (s.coreGroups - held) (s.laneCap.toNat - (if o.prio = 7 then 0 else held))

/-- A lane cap or limit 1 takes effect: the tiles of priority 0 to 6 hold at most the cap together, all of them what the core
has (R311, R384). A second tile keeps what it was given at its start as far as that goes, under limit 1 at most half
(DESIGN CHOICE, log 68). -/
def State.reshare (s : State) : State :=
  match s.tilesByStart with
  | [] => s
  | [t] => s.shareLanes t (s.laneGroups t.prio)
  | a :: b :: _ =>
    let most := if s.mgmt.limit1 then s.laneGroups b.prio / 2 else s.laneGroups b.prio
    let held := min b.share most
    (s.shareLanes b held).shareLanes a (s.olderShare a b held)

/-- A stitch that may issue: not stopped, not faulted, not in an architectural wait (R35). -/
def Ctx.runnable (c : Ctx) : Bool := c.run == .running

/-- Stitch `i` of the lending tile keeps a group: it is runnable, or its stage has no runnable stitch and
it is the lowest of it (R335). -/
def State.keepsGroup (s : State) (t : Tile) (i : Nat) : Bool :=
  let runs (n : Nat) : Bool := (s.ctxs.get (ctxIx (2 + t.base + n))).runnable
  runs i || t.desc.stages.any fun m =>
    m % 256 / 2 ^ i % 2 == 1 &&
      (List.range 8).all fun n => m / 2 ^ n % 2 == 0 || (!runs n && i ≤ n)

/-- The loan of R335: the lending tile keeps one group for each stitch that must have one. -/
def State.lend (s : State) (t : Tile) : State :=
  (List.range t.count).foldl (fun s' i => s'.updAt (ctxIx (2 + t.base + i)) fun c =>
    { c with alc := if s.keepsGroup t i && 4 ≤ c.alc.toNat then 4 else 0 }) s

/-- A guest holds a lane group while a vector instruction of it has begun and not retired, and only then (R34). -/
def State.loans (s : State) : State :=
  [10, 11].foldl (fun s n =>
    let c := ctxIx n
    let x := s.ctxs.get c
    if x.begun && x.alc == 0 then s.borrow c else if !x.begun && x.alc != 0 then s.giveBack c else s) s

end Sys2Proof.Machine
end

