-- ==== Sys2Proof/Machine/Log.lean ====
section
/-!
DEFINITION. The event log: appending a record, the ring of 65,536 (R381, R393).
-/
namespace Sys2Proof.Machine

/-- The module signals an MSI-X vector of a function: the message goes out, or its pending bit is set while the table masks the
vector (R362, R367; the mask bit of an entry is PCIe's, log 87). -/
def State.msix (s : State) (fn : Option Nat) (vector : Nat) : State :=
  let f := fn.getD 16
  if (s.byte (msixKey f (16 * vector + 12))).getLsbD 0 then
    let k := pendingKey f (vector / 8)
    s.setByte k (s.byte k ||| BitVec.ofNat 8 (2 ^ (vector % 8)))
  else s.send (.msix fn vector)

/-- A vector that is pending and masked no more is sent (R362, log 87). -/
def State.msixPending (s : State) (fn : Option Nat) : State :=
  (List.range 32).foldl (fun s v =>
    let f := fn.getD 16
    let k := pendingKey f (v / 8)
    if (s.byte k).getLsbD (v % 8) && !(s.byte (msixKey f (16 * v + 12))).getLsbD 0 then
      (s.setByte k (s.byte k &&& ~~~BitVec.ofNat 8 (2 ^ (v % 8)))).send (.msix fn v)
    else s) s

/-- Append a record: `rest` are bytes 8 to 63, padded and cut to 56; the log assigns the sequence number.
The full ring loses its oldest record; MSI-X vector 1 tells the function of the partition that the record names
(R367, R381, R393). -/
def State.appendLog (s : State) (rest : List Byte) : State :=
  let m := s.mgmt
  let r : LogRecord := { seq := m.nextSeq, bytes := leBytes 8 m.nextSeq ++ (rest ++ List.replicate 56 0).take 56 }
  let s := { s with mgmt := { m with log := (if 65536 ≤ m.log.length then m.log.drop 1 else m.log) ++ [r],
                                     nextSeq := m.nextSeq + 1 } }
  let p := ((rest[12]?).getD 0xFF).toNat
  if p < 16 && (s.part (partIx p)).on then s.msix (some p) 1 else s

/-- The fields of a record that the module itself writes (R381). -/
structure LogFields where
  cls : Nat
  unit : Nat
  place : Nat
  part : Nat
  addr : Nat
  syndrome : Nat
  length : Nat
  descriptor : Nat
deriving DecidableEq, Repr

/-- Bytes 8 to 63 of a record (R381). -/
def LogFields.encode (f : LogFields) (now : Nat) : List Byte :=
  leBytes 8 now ++ leBytes 1 f.cls ++ leBytes 1 f.unit ++ leBytes 2 f.place ++ leBytes 1 f.part ++
    leBytes 3 0 ++ leBytes 8 f.addr ++ leBytes 8 f.syndrome ++ leBytes 8 f.length ++ leBytes 8 f.descriptor

/-- Append a record of the module; its sequence number is `mgmt.nextSeq` before. -/
def State.logEvent (s : State) (f : LogFields) : State := s.appendLog (f.encode s.now)

/-- The place of a unit of this core (R381). -/
def State.herePlace (s : State) : Nat := s.coreId * 32

end Sys2Proof.Machine
end

