-- ==== Sys2Proof/Machine/Coll.lean ====
section
/-!
DEFINITION. COLL, long major 2: the checks at issue and what the engine keeps (R284 to R286). Exchange and
completion are events.
-/
namespace Sys2Proof.Machine

/-- The fields of a collective record (R284). -/
structure CollRecord where
  sendAddr : Nat
  recvAddr : Nat
  n : Nat
  team : Nat
  doneAddr : Nat
  addend : Word
  statusAddr : Nat
deriving DecidableEq, Repr

/-- The record in 56 bytes (R284). -/
def collRecord (r : Nat) : CollRecord :=
  CollRecord.mk (bitsAt r 0 64) (bitsAt r 64 64) (bitsAt r 128 64) (bitsAt r 192 64) (bitsAt r 256 64)
    (fld r 320 64) (bitsAt r 384 64)

/-- Send and receive elements of a member (R285). -/
def sendCount (kind n p : Nat) : Nat := if kind = 1 then p * n else n
def recvCount (kind n p : Nat) : Nat := if kind = 2 then p * n else n

/-- A team entry: a module number and an ident of a needle or stitch (R284). -/
def teamEntryOk (e : Nat) : Bool := e < 2 ^ 22 && e / 8 % 4 ≤ 1

/-- A team entry names a context of the partition, or a module that the partition is paired with (R346, R369). -/
def State.memberInside (s : State) (e : Nat) : Bool :=
  if e / 65536 = s.mgmt.moduleNumber then s.identInside e
  else s.mgmt.accepted.getLsbD 1 && (s.part s.corePart).paired.any fun x => x.1 == e / 65536

/-- The entries of a team record. -/
def teamEntries (a : Word) : Nat → M (List Nat)
  | 0 => pure []
  | n + 1 => do
    let e ← memRead a 8
    let t ← teamEntries (a + 8) n
    pure (e :: t)

/-- The addresses at which a buffer must be checked: every granule of the stash window, else each page. -/
def bufferStarts (base len : Nat) : List Nat :=
  if windowBase ≤ base then base :: (span (base / 16 + 1) ((base + len - 1) / 16 - base / 16)).map (· * 16)
  else base :: (span (base / 65536 + 1) ((base + len - 1) / 65536 - base / 65536)).map (· * 65536)

/-- The places of a buffer to check: the access, the address, and the alignment there. -/
def bufferPlaces (acc : Access) (base len esz : Nat) : List (Access × Nat × Nat) :=
  (bufferStarts base len).map fun p => (acc, p, if p = base then esz else 1)

/-- Two rising lists of places as one (R285: the lowest failing address). -/
def mergePlaces : Nat → List (Access × Nat × Nat) → List (Access × Nat × Nat) → List (Access × Nat × Nat)
  | 0, a, b => a ++ b
  | _ + 1, [], b => b
  | _ + 1, a, [] => a
  | n + 1, x :: a, y :: b =>
    if x.2.1 ≤ y.2.1 then x :: mergePlaces n a (y :: b) else y :: mergePlaces n (x :: a) b

/-- One place of a buffer: aligned, and general or in the stash window (R285). -/
def placeCheck (x : Access × Nat × Nat) : M Unit := do
  let a := BitVec.ofNat 64 x.2.1
  demand (x.2.1 % x.2.2 == 0) 0x03 a
  let ph ← checkAccess x.1 a 1
  demand ((ph.cls == .general || ph.cls == .stash) && ph.key / 2 ^ 58 != 1) 0x05 a

/-- The bytes that an engine of context `c` reads at an address; none where an element cannot be read. -/
def State.engineBytes (s : State) (c : Fin 12) (base esz : Nat) : Nat → Option (List Byte)
  | 0 => some []
  | n + 1 => do
    let v ← s.peek c (BitVec.ofNat 64 base) esz
    let t ← s.engineBytes c (base + esz) esz n
    pure (leBytes esz v ++ t)

/-- How many collectives of a team a context has issued (R285). -/
def Ctx.collCount (c : Ctx) (team : Nat) : Nat := ((c.collCounts.find? fun x => x.1 == team).map (·.2)).getD 0

/-- What a member brings goes to the members that are not on this core (R375). -/
def State.tellMembers (s : State) (m : CollMember) : State :=
  if m.entries.all fun e => e / 65536 == s.mgmt.moduleNumber && (s.local (e % 65536)).isSome then s
  else s.send (.collective m)

/-- The send buffer that a context of the core reads for a collective now; a buffer that is not read is empty;
none where an element cannot be read (R286). -/
def State.sendNow (s : State) (c : Fin 12) (k : Coll) : Option (List Byte) :=
  if k.mem.kind = 3 && k.mem.rank ≠ 0 then some []
  else s.engineBytes c k.sendAddr k.mem.esz (sendCount k.mem.kind k.mem.n k.mem.p)

/-- The collectives of this core that are members of one. -/
def State.localMembers (s : State) (m : CollMember) : List (Fin 12 × Coll) :=
  (List.range 12).flatMap fun n =>
    ((s.ctxs.get (ctxIx n)).colls.filter fun k => k.mem.team == m.team && k.mem.seq == m.seq).map fun k => (ctxIx n, k)

/-- What a member brings is kept, once; that it has aborted is kept beside it (R286). -/
def State.learn (s : State) (mem : CollMember) : State :=
  if s.collMembers.any fun m =>
      m.team == mem.team && m.seq == mem.seq && m.rank == mem.rank && (m.aborted || !mem.aborted) then s
  else { s with collMembers := mem :: s.collMembers }

/-- Where an engine of a context writes: the stash window, a mapped window address, or a translated one
(R85, R86). -/
def State.pokePhys (s : State) (c : Fin 12) (va : Nat) : Option Phys :=
  let put (a : Nat) (g : Option Nat) : Option Phys :=
    match s.xlate (s.partOf c) (s.privOf c) .store a with
    | .ok ph => some { ph with granule := if ph.cls = .general then (if g.isSome then g else s.granuleOf a) else none }
    | .error _ => none
  if windowBase ≤ va && va < 2 ^ 55 then
    let o := va - windowBase
    if 0x3F0000 ≤ o || s.macroHeld (o / 16384) then none
    else
      match s.mapOf o with
      | none => some { cls := .stash, key := stashKey o, granule := some (o / 16) }
      | some a => put a (some (o / 16))
  else put va none

/-- An engine of a context writes `n` bytes, an ordinary write. -/
def State.poke (s : State) (c : Fin 12) (va n v : Nat) : Option State :=
  if va % n ≠ 0 then none else (s.pokePhys c va).map fun ph => s.put ph n v

/-- The bytes of `n` elements of a buffer as memory holds them: keys and sizes (R284). -/
def State.bufferKeys (s : State) (c : Fin 12) (base esz n : Nat) : List (Nat × Nat) :=
  (List.range n).filterMap fun j => (s.peekKey c (base + j * esz)).map fun k => (k, esz)

/-- The named buffers of a member: the one it sends, if the engine reads it, and the one it receives into (R285). -/
def State.namedKeys (s : State) (c : Fin 12) (k : Coll) : List (Nat × Nat) :=
  (if k.mem.kind = 3 && k.mem.rank ≠ 0 then []
    else s.bufferKeys c k.sendAddr k.mem.esz (sendCount k.mem.kind k.mem.n k.mem.p)) ++
    s.bufferKeys c k.recvAddr k.mem.esz (recvCount k.mem.kind k.mem.n k.mem.p)

/-- The issue of a COLL releases what its context has stored to its named buffers, and nothing else (R104, R119). -/
def State.releaseBuffers (s : State) (c : Fin 12) (k : Coll) : State :=
  if s.pending.isEmpty then s
  else
    let ks := s.namedKeys c k
    s.settleStores fun e => e.by c && ks.any fun p => rangesMeet e.key e.size p.1 p.2

/-- Elements written to a receive buffer; none where one cannot be written. -/
def State.pokeAll (s : State) (c : Fin 12) (base esz : Nat) : List Nat → Option State
  | [] => some s
  | v :: vs =>
    match s.poke c base esz v with
    | some s => s.pokeAll c (base + esz) esz vs
    | none => none

/-- A word that an engine cannot write is left (R286). -/
def State.pokeWord (s : State) (c : Fin 12) (va v : Nat) : State := if va = 0 then s else (s.poke c va 8 v).getD s

/-- A class that a SIGP may signal in (R277). -/
def sigpClass (c : MemClass) : Bool := c == .general || c == .host || c == .peer

/-- The completion word takes the addend, as by SIGP: in general, host or peer memory only, never through the
stash window (R277, R286, log 38). -/
def State.pokeAdd (s : State) (c : Fin 12) (va : Nat) (v : Word) : State :=
  if va = 0 || windowBase ≤ va || !(s.pokePhys c va).any fun ph => sigpClass ph.cls then s
  else
    match s.peek c (BitVec.ofNat 64 va) 8 with
    | some old => s.pokeWord c va (old + v.toNat)
    | none => s

/-- A value of an unspecified receive element (log 4). -/
def freeElem (draw esz j : Nat) : Nat :=
  leValue ((List.range esz).map fun i => Config.freeByte draw (j * esz + i))

/-- The status word and the completion word of a collective of a context (R286). What it brought stays known to the members
that have not completed. -/
def State.reportColl (s : State) (c : Fin 12) (k : Coll) (status : Nat) : State :=
  ((s.pokeWord c k.statusAddr status).pokeAdd c k.doneAddr k.addend).learn k.mem

/-- A collective of a context completes with a status, and its slot is free (R286). What the context has read ahead of its
receive buffer is older than what the engines wrote (R119). -/
def State.finishColl (s : State) (c : Fin 12) (i : Nat) (k : Coll) (status : Nat) : State :=
  ((s.reportColl c k status).markEarly c 16
    (s.bufferKeys c k.recvAddr k.mem.esz (recvCount k.mem.kind k.mem.n k.mem.p))).updAt c fun x =>
      { x with colls := x.colls.take i ++ x.colls.drop (i + 1) }

/-- An aborted collective: its receive buffer is unspecified, status 2, and every other member, also one that
issues later, learns that it is aborted (R286). -/
def State.spoilColl (s : State) (c : Fin 12) (k : Coll) : State :=
  let s := s.settleStores fun e => e.seq == 9 && e.ctx == c.val
  let n := recvCount k.mem.kind k.mem.n k.mem.p
  let vs := (List.range n).map fun j => freeElem s.draws k.mem.esz j
  let t := { s with draws := s.draws + 1 }
  let k := { k with mem := { k.mem with aborted := true } }
  (((t.pokeAll c k.recvAddr k.mem.esz vs).getD t).reportColl c k 2).tellMembers k.mem

/-- An aborted collective completes, and its slot is free (R286). -/
def State.abortColl (s : State) (c : Fin 12) (i : Nat) (k : Coll) : State :=
  (s.spoilColl c k).updAt c fun x => { x with colls := x.colls.take i ++ x.colls.drop (i + 1) }

/-- A collective is aborted at every member on this core; the others learn it (R286). -/
def State.abortTeam (s : State) (m : CollMember) : State :=
  (List.range 12).foldl (fun s n =>
    match (s.ctxs.get (ctxIx n)).colls.zipIdx.find? fun x => x.1.mem.team == m.team && x.1.mem.seq == m.seq with
    | some x => s.abortColl (ctxIx n) x.2 x.1
    | none => s) s

/-- A tile that had left the core ends early, with its collectives (R286, R331, R339). -/
def State.endSaved (s : State) (e : SavedTile) : State :=
  let s := e.ctxs.foldl (fun s p => p.2.colls.foldl (fun s k => s.spoilColl (ctxIx p.1) k) s) s
  { s.relabel (e.ctxs.map fun (p : Nat × Ctx) => (savedOwner e.tile p.1, 12)) with
    savedTiles := s.savedTiles.erase e }.updLaunch e.tile.launch fun l =>
    { l with running := l.running - 1, ended := l.ended + 1, early := l.early + 1 }

/-- Every collective that a context has issued and that is not complete is aborted at every member (R255, R286). -/
def State.killColls (s : State) (c : Fin 12) : State :=
  (s.ctxs.get c).colls.foldl (fun s k => s.abortTeam k.mem) s

/-! ### Engine commands that meet in the stash (R115) -/

/-- The window offsets that a buffer takes: of the window itself, or of the stash maps it runs through. -/
def State.stashRanges (s : State) (base len : Nat) : List (Nat × Nat) :=
  if windowBase ≤ base then [(base - windowBase, len)]
  else s.coreMaps.filterMap fun m =>
    let lo := max base m.base
    let hi := min (base + len) (m.base + m.length)
    if lo < hi then some (m.window + (lo - m.base), hi - lo) else none

/-- Two lists of ranges have a byte in common. -/
def rangeListsMeet (a b : List (Nat × Nat)) : Bool := a.any fun x => b.any fun y => rangesMeet x.1 x.2 y.1 y.2

/-- What a collective reads and writes of the stash. -/
def State.collReads (s : State) (k : Coll) : List (Nat × Nat) :=
  if k.mem.kind = 3 && k.mem.rank ≠ 0 then []
  else s.stashRanges k.sendAddr (sendCount k.mem.kind k.mem.n k.mem.p * k.mem.esz)

/-- What a collective writes of the stash. -/
def State.collWrites (s : State) (k : Coll) : List (Nat × Nat) :=
  s.stashRanges k.recvAddr (recvCount k.mem.kind k.mem.n k.mem.p * k.mem.esz)

/-- The strips that channels have started before a cycle and not yet written: their places in the window (R270). -/
def State.stripsBefore (s : State) (t : Nat) : List (Nat × Nat) :=
  s.wm.toList.flatMap fun w =>
    match w with
    | none => []
    | some w =>
      if w.role != .channel || w.failed.isSome then []
      else
        w.starts.zipIdx.filterMap fun x =>
          if x.1 < t && w.filled < min ((x.2 + 1) * w.stripLen) w.count
          then some (w.offset + x.2 % 2 * w.stripLen * w.esz, w.stripLen * w.esz) else none

/-- The collectives of the core that were issued before a cycle. -/
def State.collsBefore (s : State) (t : Nat) : List Coll := s.ctxs.toList.flatMap fun c => c.colls.filter (·.issued < t)

/-- An engine command issued at cycle `t` that reads and writes these ranges of the stash waits for no earlier one
(R115, R272). -/
def State.engineFree (s : State) (t : Nat) (reads writes : List (Nat × Nat)) : Bool :=
  !rangeListsMeet (s.stripsBefore t) (reads ++ writes) &&
    !(s.pending.any fun e => e.seq == 9 && e.granule.any fun g => rangeListsMeet [(16 * g, 16)] (reads ++ writes)) &&
    (s.collsBefore t).all fun k =>
      (k.written || !rangeListsMeet (s.collWrites k) (reads ++ writes)) &&
        (k.read || !rangeListsMeet (s.collReads k) writes)

/-- The engine reads the send buffer of a collective that no earlier engine command holds back, and tells the members
(R115, R285). -/
def State.captureColl (s : State) (c : Fin 12) (i : Nat) : State :=
  match (s.ctxs.get c).colls[i]? with
  | none => s
  | some k =>
    if k.read || !s.engineFree k.issued (s.collReads k) [] then s
    else
      let m := { k.mem with send := (s.sendNow c k).getD [] }
      (s.updAt c fun x => { x with colls := x.colls.set i { k with mem := m, read := true } }).tellMembers m

/-- Every collective of the core that can be captured is. -/
def State.captureColls (s : State) : State :=
  (List.range 12).foldl (fun s n =>
    (List.range (s.ctxs.get (ctxIx n)).colls.length).foldl (fun s i => s.captureColl (ctxIx n) i) s) s

/-- A collective of the context begins (R285, R286). -/
def Ctx.issueColl (c : Ctx) (k : Coll) : Ctx :=
  { c with colls := c.colls ++ [k],
           collCounts := (k.mem.team, k.mem.seq + 1) :: c.collCounts.filter fun x => x.1 != k.mem.team }

/-- The encoding's value checks (R284). -/
def collFields (esz : BitVec 2) (op : BitVec 3) (kind : BitVec 2) (sc : BitVec 3) : M Unit :=
  if (3 < op.toNat) || (2 ≤ kind.toNat && op != 0) || (kind.toNat < 2 && (op == 1 || op == 3) && esz != 2) ||
      (sc != 4 && sc != 5 && sc != 7) then reserved
  else scopeOk sc

/-- A fifth COLL stalls until the oldest of its context's four has completed (R286). -/
def collRoom : M Unit := do
  let c ← getC
  match c.wait with
  | some (.coll team seq) => waitFor (!c.colls.any fun k => k.mem.team == team && k.mem.seq == seq)
  | _ =>
    if c.colls.length < 4 then pure ()
    else do
      modC fun c => { c with wait := c.colls.head?.map fun k => .coll k.mem.team k.mem.seq }
      stall

/-- COLL (R284 to R286); an ident of this module outside the partition is cause 0x15 (R346). -/
def execColl (esz : BitVec 2) (op : BitVec 3) (kind : BitVec 2) (sc : BitVec 3) (a : BitVec 5) (s : State) :
    Host.Outcome State Fault Refusal :=
  settle (orNothing do
    collFields esz op kind sc
    notGuest
    let c ← getC
    let at_ := c.rx a
    let r ← readRecord at_ 8 7
    let r := collRecord r
    let team := BitVec.ofNat 64 r.team
    let head ← readRecord team 8 1
    let p := bitsAt head 0 32
    let id := bitsAt head 32 32
    demand (2 ≤ p && p ≤ 4096) 0x02 at_
    let es ← forRecord team (teamEntries (team + 8) p)
    let s ← get
    let eb := 2 ^ esz.toNat
    let k := kind.toNat
    let rank := es.findIdx? (· == (s.farIdent s.cur).toNat)
    let sn := sendCount k r.n p * eb
    let rn := recvCount k r.n p * eb
    let unread := k = 3 && rank.any (· != 0)
    let overlap := r.sendAddr < r.recvAddr + rn && r.recvAddr < r.sendAddr + sn
    demand (id != 0 && 1 ≤ r.n && r.n < 2 ^ 32 && r.doneAddr % 8 == 0 && r.statusAddr % 8 == 0 && es.all teamEntryOk &&
      es.eraseDups.length == p && (sc != 4 || es.all fun e => e / 65536 == s.mgmt.moduleNumber) &&
      (unread || !(overlap && r.sendAddr != r.recvAddr)) &&
      !((k == 1 || k == 2) && r.sendAddr == r.recvAddr)) 0x02 at_
    match es.find? fun e => !s.memberInside e with
    | some e => trap 0x15 (BitVec.ofNat 64 e)
    | none =>
    match rank with
    | none => trap 0x05 at_
    | some rank => do
      let sends := if unread then [] else bufferPlaces .load r.sendAddr sn eb
      let recvs := bufferPlaces .store r.recvAddr rn eb
      (mergePlaces (sends.length + recvs.length) sends recvs).forM placeCheck
      collRoom
      let c ← getC
      let s ← get
      let m : CollMember := CollMember.mk id (c.collCount id) rank k op.toNat eb r.n p sc.toNat es [] false
      let k := Coll.mk m r.sendAddr r.recvAddr r.doneAddr r.addend r.statusAddr s.now false false []
      modS fun s => s.releaseBuffers s.cur k
      modC fun c => c.issueColl k
      modS State.captureColls
      retire 8) s

end Sys2Proof.Machine
end

