-- ==== Sys2Proof/Decode.lean ====
section
/-!
DEFINITION. The decoder (R125 to R133, R136 steps 1 to 3) and the encoder.
The decoder takes the bytes at the fetch address and answers an instruction and its length, or the
name of the rejection. It checks lengths, majors, function codes and zero fields. Values that a field
marks reserved (R136 step 3) and the fields of step 4 are checked by Instr.staticFault, the last
definition of this file; WellFormed.lean builds on it.
-/
namespace Sys2Proof

/-- Why bytes name no instruction (R136). -/
inductive Reject where
  /-- Fewer bytes than the instruction needs were given. -/
  | truncated
  /-- Step 1: reserved major, reserved long major or compact op 0. -/
  | reservedMajor
  /-- Step 2: reserved function, op, mode, sub or system-group code. -/
  | reservedFunction
  /-- A function of majors 12 to 18 with M = 1 that has no plane form (R130, R204). -/
  | noPlaneForm
  /-- Step 3: a zero field that is not zero. -/
  | zeroField
deriving DecidableEq, Repr

/-- The trap cause of a rejection (R136, R204). -/
def Reject.cause : Reject → BitVec 8
  | .zeroField => 0x02#8
  | _ => 0x01#8

/-- `i` if its zero fields are zero. -/
def need (ok : Bool) (i : Instr) : Except Reject Instr := if ok then .ok i else .error .zeroField

/-- The immediate of formats S and B: [31:27] above [16:10] (R126). -/
def split12 (w : Nat) : BitVec 12 := BitVec.ofNat 12 (w / 2 ^ 27 % 32 * 128 + w / 2 ^ 10 % 128)

/-- The system group of major 0, selected by imm12 (R129). -/
noncomputable def decodeSystem (w : Nat) : Except Reject Instr :=
  match bitsAt w 10 12 with
  | 0 => need (bitsAt w 27 5 == 0) (.svc (fld w 22 5))
  | 1 => need (bitsAt w 27 5 == 0) (.brk (fld w 22 5))
  | 2 => need (bitsAt w 22 10 == 0) .uret
  | 3 => need (bitsAt w 22 10 == 0) .pmark
  | 4 => need (bitsAt w 27 5 == 0) (.phase (fld w 22 5))
  | 256 => need (bitsAt w 22 10 == 0) .sret
  | 257 => need (bitsAt w 22 10 == 0) .wfi
  | 258 => need (bitsAt w 27 5 == 0) (.tlbinv (fld w 22 5))
  | 259 => need (bitsAt w 22 10 == 0) .tlbinva
  | 260 => .ok (.ctxsv (fld w 27 5) (fld w 22 5))
  | 261 => .ok (.ctxld (fld w 27 5) (fld w 22 5))
  | 262 => .ok (.lnset (fld w 27 5) (fld w 22 5))
  | 263 => .ok (.freeze (fld w 27 5) (fld w 22 5))
  | 264 => need (bitsAt w 27 5 == 0) (.ipi (fld w 22 5))
  | 512 => need (bitsAt w 22 10 == 0) .mret
  | 513 => need (bitsAt w 27 5 == 0) (.creset (fld w 22 5))
  | 514 => .ok (.mcrec (fld w 27 5) (fld w 22 5))
  | _ => .error .reservedFunction

/-- Major 0 of the base form (R128). -/
noncomputable def decodeMajor0 (w : Nat) : Except Reject Instr :=
  match bitsAt w 7 3 with
  | 0 => .ok (.csrrw (fld w 27 5) (fld w 22 5) (fld w 10 12))
  | 1 => .ok (.csrrs (fld w 27 5) (fld w 22 5) (fld w 10 12))
  | 2 => .ok (.csrrc (fld w 27 5) (fld w 22 5) (fld w 10 12))
  | 3 => .ok (.csrrwi (fld w 27 5) (fld w 22 5) (fld w 10 12))
  | 4 => .ok (.csrrsi (fld w 27 5) (fld w 22 5) (fld w 10 12))
  | 5 => .ok (.csrrci (fld w 27 5) (fld w 22 5) (fld w 10 12))
  | 6 => decodeSystem w
  | _ => .error .reservedFunction

/-- Major 1 of the base form (R128). -/
noncomputable def decodeMajor1 (w : Nat) : Except Reject Instr :=
  match bitsAt w 7 6 with
  | 0 => need (bitsAt w 13 4 == 0) (.add (fld w 27 5) (fld w 22 5) (fld w 17 5))
  | 1 => need (bitsAt w 13 4 == 0) (.sub (fld w 27 5) (fld w 22 5) (fld w 17 5))
  | 2 => need (bitsAt w 13 4 == 0) (.and (fld w 27 5) (fld w 22 5) (fld w 17 5))
  | 3 => need (bitsAt w 13 4 == 0) (.or (fld w 27 5) (fld w 22 5) (fld w 17 5))
  | 4 => need (bitsAt w 13 4 == 0) (.xor (fld w 27 5) (fld w 22 5) (fld w 17 5))
  | 5 => need (bitsAt w 13 4 == 0) (.sll (fld w 27 5) (fld w 22 5) (fld w 17 5))
  | 6 => need (bitsAt w 13 4 == 0) (.srl (fld w 27 5) (fld w 22 5) (fld w 17 5))
  | 7 => need (bitsAt w 13 4 == 0) (.sra (fld w 27 5) (fld w 22 5) (fld w 17 5))
  | 8 => need (bitsAt w 13 4 == 0) (.slt (fld w 27 5) (fld w 22 5) (fld w 17 5))
  | 9 => need (bitsAt w 13 4 == 0) (.sltu (fld w 27 5) (fld w 22 5) (fld w 17 5))
  | 10 => need (bitsAt w 13 4 == 0) (.min (fld w 27 5) (fld w 22 5) (fld w 17 5))
  | 11 => need (bitsAt w 13 4 == 0) (.max (fld w 27 5) (fld w 22 5) (fld w 17 5))
  | 12 => need (bitsAt w 13 4 == 0) (.minu (fld w 27 5) (fld w 22 5) (fld w 17 5))
  | 13 => need (bitsAt w 13 4 == 0) (.maxu (fld w 27 5) (fld w 22 5) (fld w 17 5))
  | 14 => need (bitsAt w 13 4 == 0) (.andn (fld w 27 5) (fld w 22 5) (fld w 17 5))
  | 15 => need (bitsAt w 13 4 == 0) (.orn (fld w 27 5) (fld w 22 5) (fld w 17 5))
  | 16 => need (bitsAt w 13 4 == 0) (.mul (fld w 27 5) (fld w 22 5) (fld w 17 5))
  | 17 => need (bitsAt w 13 4 == 0) (.mulh (fld w 27 5) (fld w 22 5) (fld w 17 5))
  | 18 => need (bitsAt w 13 4 == 0) (.mulhu (fld w 27 5) (fld w 22 5) (fld w 17 5))
  | 19 => need (bitsAt w 13 4 == 0) (.mulhsu (fld w 27 5) (fld w 22 5) (fld w 17 5))
  | 20 => need (bitsAt w 13 4 == 0) (.div (fld w 27 5) (fld w 22 5) (fld w 17 5))
  | 21 => need (bitsAt w 13 4 == 0) (.divu (fld w 27 5) (fld w 22 5) (fld w 17 5))
  | 22 => need (bitsAt w 13 4 == 0) (.rem (fld w 27 5) (fld w 22 5) (fld w 17 5))
  | 23 => need (bitsAt w 13 4 == 0) (.remu (fld w 27 5) (fld w 22 5) (fld w 17 5))
  | 24 => need (bitsAt w 13 9 == 0) (.clz (fld w 27 5) (fld w 22 5))
  | 25 => need (bitsAt w 13 9 == 0) (.ctz (fld w 27 5) (fld w 22 5))
  | 26 => need (bitsAt w 13 9 == 0) (.popc (fld w 27 5) (fld w 22 5))
  | 27 => need (bitsAt w 13 4 == 0) (.rol (fld w 27 5) (fld w 22 5) (fld w 17 5))
  | 28 => need (bitsAt w 13 4 == 0) (.ror (fld w 27 5) (fld w 22 5) (fld w 17 5))
  | _ => .error .reservedFunction

/-- Major 2 of the base form (R128). -/
noncomputable def decodeMajor2 (w : Nat) : Except Reject Instr :=
  match bitsAt w 7 3 with
  | 0 => .ok (.addi (fld w 27 5) (fld w 22 5) (fld w 10 12))
  | 1 => .ok (.andi (fld w 27 5) (fld w 22 5) (fld w 10 12))
  | 2 => .ok (.ori (fld w 27 5) (fld w 22 5) (fld w 10 12))
  | 3 => .ok (.xori (fld w 27 5) (fld w 22 5) (fld w 10 12))
  | 4 => .ok (.slti (fld w 27 5) (fld w 22 5) (fld w 10 12))
  | 5 => need (bitsAt w 16 6 == 0) (.slli (fld w 27 5) (fld w 22 5) (fld w 10 6))
  | 6 => need (bitsAt w 16 6 == 0) (.srli (fld w 27 5) (fld w 22 5) (fld w 10 6))
  | 7 => need (bitsAt w 16 6 == 0) (.srai (fld w 27 5) (fld w 22 5) (fld w 10 6))
  | _ => .error .reservedFunction

/-- Major 3 of the base form (R128). -/
noncomputable def decodeMajor3 (w : Nat) : Except Reject Instr :=
  match bitsAt w 7 1 with
  | 0 => .ok (.lih (fld w 27 5) (fld w 8 19))
  | 1 => .ok (.addpc (fld w 27 5) (fld w 8 19))
  | _ => .error .reservedFunction

/-- Major 4 of the base form (R128). -/
noncomputable def decodeMajor4 (w : Nat) : Except Reject Instr :=
  match bitsAt w 7 3 with
  | 0 => .ok (.lb (fld w 27 5) (fld w 22 5) (fld w 10 12))
  | 1 => .ok (.lbu (fld w 27 5) (fld w 22 5) (fld w 10 12))
  | 2 => .ok (.lh (fld w 27 5) (fld w 22 5) (fld w 10 12))
  | 3 => .ok (.lhu (fld w 27 5) (fld w 22 5) (fld w 10 12))
  | 4 => .ok (.lw (fld w 27 5) (fld w 22 5) (fld w 10 12))
  | 5 => .ok (.lwu (fld w 27 5) (fld w 22 5) (fld w 10 12))
  | 6 => .ok (.ld (fld w 27 5) (fld w 22 5) (fld w 10 12))
  | 7 => .ok (.lq (fld w 27 5) (fld w 22 5) (fld w 10 12))
  | _ => .error .reservedFunction

/-- Major 5 of the base form (R128). -/
noncomputable def decodeMajor5 (w : Nat) : Except Reject Instr :=
  match bitsAt w 7 3 with
  | 0 => .ok (.sb (fld w 22 5) (fld w 17 5) (split12 w))
  | 1 => .ok (.sh (fld w 22 5) (fld w 17 5) (split12 w))
  | 2 => .ok (.sw (fld w 22 5) (fld w 17 5) (split12 w))
  | 3 => .ok (.sd (fld w 22 5) (fld w 17 5) (split12 w))
  | 4 => .ok (.sq (fld w 22 5) (fld w 17 5) (split12 w))
  | _ => .error .reservedFunction

/-- Major 6 of the base form (R128). -/
noncomputable def decodeMajor6 (w : Nat) : Except Reject Instr :=
  match bitsAt w 7 3 with
  | 0 => .ok (.beq (fld w 22 5) (fld w 17 5) (split12 w))
  | 1 => .ok (.bne (fld w 22 5) (fld w 17 5) (split12 w))
  | 2 => .ok (.blt (fld w 22 5) (fld w 17 5) (split12 w))
  | 3 => .ok (.bge (fld w 22 5) (fld w 17 5) (split12 w))
  | 4 => .ok (.bltu (fld w 22 5) (fld w 17 5) (split12 w))
  | 5 => .ok (.bgeu (fld w 22 5) (fld w 17 5) (split12 w))
  | _ => .error .reservedFunction

/-- Major 7 of the base form (R128). -/
noncomputable def decodeMajor7 (w : Nat) : Except Reject Instr :=
  .ok (.jal (fld w 27 5) (fld w 7 20))

/-- Major 8 of the base form (R128). -/
noncomputable def decodeMajor8 (w : Nat) : Except Reject Instr :=
  match bitsAt w 7 3 with
  | 0 => .ok (.jalr (fld w 27 5) (fld w 22 5) (fld w 10 12))
  | 1 => need (bitsAt w 22 5 == 0) (.vloop (fld w 27 5) (fld w 10 12))
  | _ => .error .reservedFunction

/-- Major 9 of the base form (R128). -/
noncomputable def decodeMajor9 (w : Nat) : Except Reject Instr :=
  match bitsAt w 7 5 with
  | 0 => .ok (.fadd (fld w 27 5) (fld w 22 5) (fld w 17 5) (fld w 14 3) (fld w 12 2))
  | 1 => .ok (.fsub (fld w 27 5) (fld w 22 5) (fld w 17 5) (fld w 14 3) (fld w 12 2))
  | 2 => .ok (.fmul (fld w 27 5) (fld w 22 5) (fld w 17 5) (fld w 14 3) (fld w 12 2))
  | 3 => .ok (.fdiv (fld w 27 5) (fld w 22 5) (fld w 17 5) (fld w 14 3) (fld w 12 2))
  | 4 => need (bitsAt w 17 5 == 0) (.fsqrt (fld w 27 5) (fld w 22 5) (fld w 14 3) (fld w 12 2))
  | 5 => need (bitsAt w 14 3 == 0) (.fmin (fld w 27 5) (fld w 22 5) (fld w 17 5) (fld w 12 2))
  | 6 => need (bitsAt w 14 3 == 0) (.fmax (fld w 27 5) (fld w 22 5) (fld w 17 5) (fld w 12 2))
  | 7 => .ok (.fmac (fld w 27 5) (fld w 22 5) (fld w 17 5) (fld w 14 3) (fld w 12 2))
  | 8 => .ok (.fnmac (fld w 27 5) (fld w 22 5) (fld w 17 5) (fld w 14 3) (fld w 12 2))
  | 9 => need (bitsAt w 14 3 == 0) (.fsgnj (fld w 27 5) (fld w 22 5) (fld w 17 5) (fld w 12 2))
  | 10 => need (bitsAt w 14 3 == 0) (.fsgnjn (fld w 27 5) (fld w 22 5) (fld w 17 5) (fld w 12 2))
  | 11 => need (bitsAt w 14 3 == 0) (.fsgnjx (fld w 27 5) (fld w 22 5) (fld w 17 5) (fld w 12 2))
  | 12 => need (bitsAt w 14 3 == 0) (.feq (fld w 27 5) (fld w 22 5) (fld w 17 5) (fld w 12 2))
  | 13 => need (bitsAt w 14 3 == 0) (.flt (fld w 27 5) (fld w 22 5) (fld w 17 5) (fld w 12 2))
  | 14 => need (bitsAt w 14 3 == 0) (.fle (fld w 27 5) (fld w 22 5) (fld w 17 5) (fld w 12 2))
  | 15 => need (bitsAt w 14 8 == 0) (.fclass (fld w 27 5) (fld w 22 5) (fld w 12 2))
  | 16 => need (bitsAt w 17 5 == 0) (.fcvtfs (fld w 27 5) (fld w 22 5) (fld w 14 3) (fld w 12 2))
  | 17 => need (bitsAt w 17 5 == 0) (.fcvtfu (fld w 27 5) (fld w 22 5) (fld w 14 3) (fld w 12 2))
  | 18 => need (bitsAt w 17 5 == 0) (.fcvtsf (fld w 27 5) (fld w 22 5) (fld w 14 3) (fld w 12 2))
  | 19 => need (bitsAt w 17 5 == 0) (.fcvtuf (fld w 27 5) (fld w 22 5) (fld w 14 3) (fld w 12 2))
  | 20 => need (bitsAt w 19 3 == 0) (.fcvtff (fld w 27 5) (fld w 22 5) (fld w 17 2) (fld w 14 3) (fld w 12 2))
  | _ => .error .reservedFunction

/-- Major 10 of the base form (R128). -/
noncomputable def decodeMajor10 (w : Nat) : Except Reject Instr :=
  match bitsAt w 8 4 with
  | 0 => need (bitsAt w 15 7 == 2) (.lda (fld w 27 5) (fld w 22 5) (fld w 12 3) (fld w 7 1))
  | 1 => need (bitsAt w 15 2 == 1 && bitsAt w 27 5 == 0) (.stl (fld w 22 5) (fld w 17 5) (fld w 12 3) (fld w 7 1))
  | 2 => .ok (.swap (fld w 27 5) (fld w 22 5) (fld w 17 5) (fld w 16 1) (fld w 15 1) (fld w 12 3) (fld w 7 1))
  | 3 => .ok (.cas (fld w 27 5) (fld w 22 5) (fld w 17 5) (fld w 16 1) (fld w 15 1) (fld w 12 3) (fld w 7 1))
  | 4 => .ok (.aadd (fld w 27 5) (fld w 22 5) (fld w 17 5) (fld w 16 1) (fld w 15 1) (fld w 12 3) (fld w 7 1))
  | 5 => .ok (.aand (fld w 27 5) (fld w 22 5) (fld w 17 5) (fld w 16 1) (fld w 15 1) (fld w 12 3) (fld w 7 1))
  | 6 => .ok (.aor (fld w 27 5) (fld w 22 5) (fld w 17 5) (fld w 16 1) (fld w 15 1) (fld w 12 3) (fld w 7 1))
  | 7 => .ok (.axor (fld w 27 5) (fld w 22 5) (fld w 17 5) (fld w 16 1) (fld w 15 1) (fld w 12 3) (fld w 7 1))
  | 8 => .ok (.amin (fld w 27 5) (fld w 22 5) (fld w 17 5) (fld w 16 1) (fld w 15 1) (fld w 12 3) (fld w 7 1))
  | 9 => .ok (.amax (fld w 27 5) (fld w 22 5) (fld w 17 5) (fld w 16 1) (fld w 15 1) (fld w 12 3) (fld w 7 1))
  | 10 => .ok (.aminu (fld w 27 5) (fld w 22 5) (fld w 17 5) (fld w 16 1) (fld w 15 1) (fld w 12 3) (fld w 7 1))
  | 11 => .ok (.amaxu (fld w 27 5) (fld w 22 5) (fld w 17 5) (fld w 16 1) (fld w 15 1) (fld w 12 3) (fld w 7 1))
  | 12 => need (bitsAt w 7 1 == 0 && bitsAt w 15 2 == 0 && bitsAt w 22 5 == 0) (.fence (fld w 27 5) (fld w 17 5) (fld w 12 3))
  | 13 => need (bitsAt w 7 1 == 0 && bitsAt w 12 5 == 0 && bitsAt w 25 7 == 0) (.sbar (fld w 17 8))
  | _ => .error .reservedFunction

/-- Major 11 of the base form (R128). -/
noncomputable def decodeMajor11 (w : Nat) : Except Reject Instr :=
  match bitsAt w 7 4 with
  | 0 => .ok (.vsetl (fld w 27 5) (fld w 22 5) (fld w 11 11))
  | 1 => need (bitsAt w 13 5 == 0) (.vretag (fld w 27 5) (fld w 22 5) (fld w 18 4) (fld w 11 2))
  | _ => .error .reservedFunction

/-- Major 12 of the base form (R128). -/
noncomputable def decodeMajor12 (w : Nat) : Except Reject Instr :=
  match bitsAt w 7 6 with
  | 0 => if bitsAt w 13 1 == 1 then need (bitsAt w 14 3 == 0) (.vaddPVv (fld w 27 5) (fld w 22 5) (fld w 17 5)) else .ok (.vaddVv (fld w 27 5) (fld w 22 5) (fld w 17 5) (fld w 14 3))
  | 1 => if bitsAt w 13 1 == 1 then need (bitsAt w 14 3 == 0) (.vsubPVv (fld w 27 5) (fld w 22 5) (fld w 17 5)) else .ok (.vsubVv (fld w 27 5) (fld w 22 5) (fld w 17 5) (fld w 14 3))
  | 3 => if bitsAt w 13 1 == 1 then need (bitsAt w 14 3 == 0) (.vmulPVv (fld w 27 5) (fld w 22 5) (fld w 17 5)) else .ok (.vmulVv (fld w 27 5) (fld w 22 5) (fld w 17 5) (fld w 14 3))
  | 4 => if bitsAt w 13 1 == 1 then .error .noPlaneForm else .ok (.vmulhVv (fld w 27 5) (fld w 22 5) (fld w 17 5) (fld w 14 3))
  | 5 => if bitsAt w 13 1 == 1 then .error .noPlaneForm else .ok (.vdivVv (fld w 27 5) (fld w 22 5) (fld w 17 5) (fld w 14 3))
  | 6 => if bitsAt w 13 1 == 1 then .error .noPlaneForm else .ok (.vremVv (fld w 27 5) (fld w 22 5) (fld w 17 5) (fld w 14 3))
  | 7 => if bitsAt w 13 1 == 1 then need (bitsAt w 14 3 == 0) (.vminPVv (fld w 27 5) (fld w 22 5) (fld w 17 5)) else .ok (.vminVv (fld w 27 5) (fld w 22 5) (fld w 17 5) (fld w 14 3))
  | 8 => if bitsAt w 13 1 == 1 then need (bitsAt w 14 3 == 0) (.vmaxPVv (fld w 27 5) (fld w 22 5) (fld w 17 5)) else .ok (.vmaxVv (fld w 27 5) (fld w 22 5) (fld w 17 5) (fld w 14 3))
  | 9 => if bitsAt w 13 1 == 1 then need (bitsAt w 14 3 == 0) (.vandPVv (fld w 27 5) (fld w 22 5) (fld w 17 5)) else .ok (.vandVv (fld w 27 5) (fld w 22 5) (fld w 17 5) (fld w 14 3))
  | 10 => if bitsAt w 13 1 == 1 then need (bitsAt w 14 3 == 0) (.vorPVv (fld w 27 5) (fld w 22 5) (fld w 17 5)) else .ok (.vorVv (fld w 27 5) (fld w 22 5) (fld w 17 5) (fld w 14 3))
  | 11 => if bitsAt w 13 1 == 1 then need (bitsAt w 14 3 == 0) (.vxorPVv (fld w 27 5) (fld w 22 5) (fld w 17 5)) else .ok (.vxorVv (fld w 27 5) (fld w 22 5) (fld w 17 5) (fld w 14 3))
  | 12 => if bitsAt w 13 1 == 1 then .error .noPlaneForm else .ok (.vsllVv (fld w 27 5) (fld w 22 5) (fld w 17 5) (fld w 14 3))
  | 13 => if bitsAt w 13 1 == 1 then .error .noPlaneForm else .ok (.vsrlVv (fld w 27 5) (fld w 22 5) (fld w 17 5) (fld w 14 3))
  | 14 => if bitsAt w 13 1 == 1 then .error .noPlaneForm else .ok (.vsraVv (fld w 27 5) (fld w 22 5) (fld w 17 5) (fld w 14 3))
  | 15 => if bitsAt w 13 1 == 1 then need (bitsAt w 14 3 == 0) (.vsaddPVv (fld w 27 5) (fld w 22 5) (fld w 17 5)) else .ok (.vsaddVv (fld w 27 5) (fld w 22 5) (fld w 17 5) (fld w 14 3))
  | 16 => if bitsAt w 13 1 == 1 then need (bitsAt w 14 3 == 0) (.vssubPVv (fld w 27 5) (fld w 22 5) (fld w 17 5)) else .ok (.vssubVv (fld w 27 5) (fld w 22 5) (fld w 17 5) (fld w 14 3))
  | 17 => if bitsAt w 13 1 == 1 then .error .noPlaneForm else .ok (.vavgVv (fld w 27 5) (fld w 22 5) (fld w 17 5) (fld w 14 3))
  | 18 => if bitsAt w 13 1 == 1 then .error .noPlaneForm else .ok (.vsmulVv (fld w 27 5) (fld w 22 5) (fld w 17 5) (fld w 14 3))
  | 19 => if bitsAt w 13 1 == 1 then .error .noPlaneForm else .ok (.vsgnjVv (fld w 27 5) (fld w 22 5) (fld w 17 5) (fld w 14 3))
  | 20 => if bitsAt w 13 1 == 1 then .error .noPlaneForm else .ok (.vsgnjnVv (fld w 27 5) (fld w 22 5) (fld w 17 5) (fld w 14 3))
  | 21 => if bitsAt w 13 1 == 1 then .error .noPlaneForm else .ok (.vsgnjxVv (fld w 27 5) (fld w 22 5) (fld w 17 5) (fld w 14 3))
  | 22 => if bitsAt w 13 1 == 1 then need (bitsAt w 14 3 == 0) (.vmergePVv (fld w 27 5) (fld w 22 5) (fld w 17 5)) else .ok (.vmergeVv (fld w 27 5) (fld w 22 5) (fld w 17 5) (fld w 14 3))
  | 23 => if bitsAt w 13 1 == 1 then .error .noPlaneForm else need (bitsAt w 22 5 == 0) (.vmvVv (fld w 27 5) (fld w 17 5) (fld w 14 3))
  | 25 => if bitsAt w 13 1 == 1 then .error .noPlaneForm else .ok (.vbsclVv (fld w 27 5) (fld w 22 5) (fld w 17 5) (fld w 14 3))
  | _ => .error .reservedFunction

/-- Major 13 of the base form (R128). -/
noncomputable def decodeMajor13 (w : Nat) : Except Reject Instr :=
  match bitsAt w 7 6 with
  | 0 => if bitsAt w 13 1 == 1 then need (bitsAt w 14 3 == 0) (.vaddPVx (fld w 27 5) (fld w 22 5) (fld w 17 5)) else .ok (.vaddVx (fld w 27 5) (fld w 22 5) (fld w 17 5) (fld w 14 3))
  | 1 => if bitsAt w 13 1 == 1 then .error .noPlaneForm else .ok (.vsubVx (fld w 27 5) (fld w 22 5) (fld w 17 5) (fld w 14 3))
  | 2 => if bitsAt w 13 1 == 1 then .error .noPlaneForm else .ok (.vrsubVx (fld w 27 5) (fld w 22 5) (fld w 17 5) (fld w 14 3))
  | 3 => if bitsAt w 13 1 == 1 then need (bitsAt w 14 3 == 0) (.vmulPVx (fld w 27 5) (fld w 22 5) (fld w 17 5)) else .ok (.vmulVx (fld w 27 5) (fld w 22 5) (fld w 17 5) (fld w 14 3))
  | 4 => if bitsAt w 13 1 == 1 then .error .noPlaneForm else .ok (.vmulhVx (fld w 27 5) (fld w 22 5) (fld w 17 5) (fld w 14 3))
  | 5 => if bitsAt w 13 1 == 1 then .error .noPlaneForm else .ok (.vdivVx (fld w 27 5) (fld w 22 5) (fld w 17 5) (fld w 14 3))
  | 6 => if bitsAt w 13 1 == 1 then .error .noPlaneForm else .ok (.vremVx (fld w 27 5) (fld w 22 5) (fld w 17 5) (fld w 14 3))
  | 7 => if bitsAt w 13 1 == 1 then .error .noPlaneForm else .ok (.vminVx (fld w 27 5) (fld w 22 5) (fld w 17 5) (fld w 14 3))
  | 8 => if bitsAt w 13 1 == 1 then .error .noPlaneForm else .ok (.vmaxVx (fld w 27 5) (fld w 22 5) (fld w 17 5) (fld w 14 3))
  | 9 => if bitsAt w 13 1 == 1 then .error .noPlaneForm else .ok (.vandVx (fld w 27 5) (fld w 22 5) (fld w 17 5) (fld w 14 3))
  | 10 => if bitsAt w 13 1 == 1 then .error .noPlaneForm else .ok (.vorVx (fld w 27 5) (fld w 22 5) (fld w 17 5) (fld w 14 3))
  | 11 => if bitsAt w 13 1 == 1 then .error .noPlaneForm else .ok (.vxorVx (fld w 27 5) (fld w 22 5) (fld w 17 5) (fld w 14 3))
  | 12 => if bitsAt w 13 1 == 1 then .error .noPlaneForm else .ok (.vsllVx (fld w 27 5) (fld w 22 5) (fld w 17 5) (fld w 14 3))
  | 13 => if bitsAt w 13 1 == 1 then .error .noPlaneForm else .ok (.vsrlVx (fld w 27 5) (fld w 22 5) (fld w 17 5) (fld w 14 3))
  | 14 => if bitsAt w 13 1 == 1 then .error .noPlaneForm else .ok (.vsraVx (fld w 27 5) (fld w 22 5) (fld w 17 5) (fld w 14 3))
  | 15 => if bitsAt w 13 1 == 1 then .error .noPlaneForm else .ok (.vsaddVx (fld w 27 5) (fld w 22 5) (fld w 17 5) (fld w 14 3))
  | 16 => if bitsAt w 13 1 == 1 then .error .noPlaneForm else .ok (.vssubVx (fld w 27 5) (fld w 22 5) (fld w 17 5) (fld w 14 3))
  | 17 => if bitsAt w 13 1 == 1 then .error .noPlaneForm else .ok (.vavgVx (fld w 27 5) (fld w 22 5) (fld w 17 5) (fld w 14 3))
  | 18 => if bitsAt w 13 1 == 1 then .error .noPlaneForm else .ok (.vsmulVx (fld w 27 5) (fld w 22 5) (fld w 17 5) (fld w 14 3))
  | 19 => if bitsAt w 13 1 == 1 then .error .noPlaneForm else .ok (.vsgnjVx (fld w 27 5) (fld w 22 5) (fld w 17 5) (fld w 14 3))
  | 20 => if bitsAt w 13 1 == 1 then .error .noPlaneForm else .ok (.vsgnjnVx (fld w 27 5) (fld w 22 5) (fld w 17 5) (fld w 14 3))
  | 21 => if bitsAt w 13 1 == 1 then .error .noPlaneForm else .ok (.vsgnjxVx (fld w 27 5) (fld w 22 5) (fld w 17 5) (fld w 14 3))
  | 22 => if bitsAt w 13 1 == 1 then .error .noPlaneForm else .ok (.vmergeVx (fld w 27 5) (fld w 22 5) (fld w 17 5) (fld w 14 3))
  | 23 => if bitsAt w 13 1 == 1 then .error .noPlaneForm else need (bitsAt w 22 5 == 0) (.vmvVx (fld w 27 5) (fld w 17 5) (fld w 14 3))
  | _ => .error .reservedFunction

/-- Major 14 of the base form (R128). -/
noncomputable def decodeMajor14 (w : Nat) : Except Reject Instr :=
  match bitsAt w 7 6 with
  | 0 => if bitsAt w 13 1 == 1 then .error .noPlaneForm else .ok (.vaddVi (fld w 27 5) (fld w 22 5) (fld w 17 5) (fld w 14 3))
  | 2 => if bitsAt w 13 1 == 1 then need (bitsAt w 14 3 == 0) (.vrsubPVi (fld w 27 5) (fld w 22 5) (fld w 17 5)) else .ok (.vrsubVi (fld w 27 5) (fld w 22 5) (fld w 17 5) (fld w 14 3))
  | 9 => if bitsAt w 13 1 == 1 then .error .noPlaneForm else .ok (.vandVi (fld w 27 5) (fld w 22 5) (fld w 17 5) (fld w 14 3))
  | 10 => if bitsAt w 13 1 == 1 then .error .noPlaneForm else .ok (.vorVi (fld w 27 5) (fld w 22 5) (fld w 17 5) (fld w 14 3))
  | 11 => if bitsAt w 13 1 == 1 then need (bitsAt w 14 3 == 0) (.vxorPVi (fld w 27 5) (fld w 22 5) (fld w 17 5)) else .ok (.vxorVi (fld w 27 5) (fld w 22 5) (fld w 17 5) (fld w 14 3))
  | 12 => if bitsAt w 13 1 == 1 then need (bitsAt w 14 3 == 0) (.vsllPVi (fld w 27 5) (fld w 22 5) (fld w 17 5)) else .ok (.vsllVi (fld w 27 5) (fld w 22 5) (fld w 17 5) (fld w 14 3))
  | 13 => if bitsAt w 13 1 == 1 then need (bitsAt w 14 3 == 0) (.vsrlPVi (fld w 27 5) (fld w 22 5) (fld w 17 5)) else .ok (.vsrlVi (fld w 27 5) (fld w 22 5) (fld w 17 5) (fld w 14 3))
  | 14 => if bitsAt w 13 1 == 1 then need (bitsAt w 14 3 == 0) (.vsraPVi (fld w 27 5) (fld w 22 5) (fld w 17 5)) else .ok (.vsraVi (fld w 27 5) (fld w 22 5) (fld w 17 5) (fld w 14 3))
  | 15 => if bitsAt w 13 1 == 1 then .error .noPlaneForm else .ok (.vsaddVi (fld w 27 5) (fld w 22 5) (fld w 17 5) (fld w 14 3))
  | 22 => if bitsAt w 13 1 == 1 then .error .noPlaneForm else .ok (.vmergeVi (fld w 27 5) (fld w 22 5) (fld w 17 5) (fld w 14 3))
  | 23 => if bitsAt w 13 1 == 1 then .error .noPlaneForm else need (bitsAt w 22 5 == 0) (.vmvVi (fld w 27 5) (fld w 17 5) (fld w 14 3))
  | 24 => if bitsAt w 13 1 == 1 then need (bitsAt w 14 3 == 0) (.vsatPVi (fld w 27 5) (fld w 22 5) (fld w 17 5)) else .ok (.vsatVi (fld w 27 5) (fld w 22 5) (fld w 17 5) (fld w 14 3))
  | _ => .error .reservedFunction

/-- Major 15 of the base form (R128). -/
noncomputable def decodeMajor15 (w : Nat) : Except Reject Instr :=
  match bitsAt w 7 6 with
  | 0 => if bitsAt w 13 1 == 1 then .error .noPlaneForm else .ok (.vmacc (fld w 27 5) (fld w 22 5) (fld w 17 5) (fld w 14 3))
  | 1 => if bitsAt w 13 1 == 1 then .error .noPlaneForm else .ok (.vnmsac (fld w 27 5) (fld w 22 5) (fld w 17 5) (fld w 14 3))
  | 2 => if bitsAt w 13 1 == 1 then .error .noPlaneForm else .ok (.vmadd (fld w 27 5) (fld w 22 5) (fld w 17 5) (fld w 14 3))
  | 3 => if bitsAt w 13 1 == 1 then .error .noPlaneForm else .ok (.vnmsub (fld w 27 5) (fld w 22 5) (fld w 17 5) (fld w 14 3))
  | 4 => if bitsAt w 13 1 == 1 then .error .noPlaneForm else .ok (.vwmacc (fld w 27 5) (fld w 22 5) (fld w 17 5) (fld w 14 3))
  | 5 => if bitsAt w 13 1 == 1 then .error .noPlaneForm else .ok (.vwmul (fld w 27 5) (fld w 22 5) (fld w 17 5) (fld w 14 3))
  | 6 => if bitsAt w 13 1 == 1 then .error .noPlaneForm else .ok (.vwadd (fld w 27 5) (fld w 22 5) (fld w 17 5) (fld w 14 3))
  | 7 => if bitsAt w 13 1 == 1 then .error .noPlaneForm else .ok (.vwsub (fld w 27 5) (fld w 22 5) (fld w 17 5) (fld w 14 3))
  | 8 => if bitsAt w 13 1 == 1 then .error .noPlaneForm else .ok (.vqmacc (fld w 27 5) (fld w 22 5) (fld w 17 5) (fld w 14 3))
  | _ => .error .reservedFunction

/-- Major 16 of the base form (R128). -/
noncomputable def decodeMajor16 (w : Nat) : Except Reject Instr :=
  match bitsAt w 7 6 with
  | 0 => if bitsAt w 13 1 == 1 then .error .noPlaneForm else need (bitsAt w 25 2 == 0) (.vsqrt (fld w 27 5) (fld w 22 3) (fld w 17 5) (fld w 14 3))
  | 1 => if bitsAt w 13 1 == 1 then .error .noPlaneForm else need (bitsAt w 25 2 == 0) (.vrsqrt (fld w 27 5) (fld w 22 3) (fld w 17 5) (fld w 14 3))
  | 2 => if bitsAt w 13 1 == 1 then .error .noPlaneForm else need (bitsAt w 25 2 == 0) (.vrcp (fld w 27 5) (fld w 22 3) (fld w 17 5) (fld w 14 3))
  | 3 => if bitsAt w 13 1 == 1 then .error .noPlaneForm else need (bitsAt w 25 2 == 0) (.vexp2 (fld w 27 5) (fld w 22 3) (fld w 17 5) (fld w 14 3))
  | 4 => if bitsAt w 13 1 == 1 then .error .noPlaneForm else need (bitsAt w 25 2 == 0) (.vlog2 (fld w 27 5) (fld w 22 3) (fld w 17 5) (fld w 14 3))
  | 5 => if bitsAt w 13 1 == 1 then .error .noPlaneForm else need (bitsAt w 25 2 == 0) (.vtanh (fld w 27 5) (fld w 22 3) (fld w 17 5) (fld w 14 3))
  | 6 => if bitsAt w 13 1 == 1 then .error .noPlaneForm else need (bitsAt w 25 2 == 0) (.vsigm (fld w 27 5) (fld w 22 3) (fld w 17 5) (fld w 14 3))
  | 7 => if bitsAt w 13 1 == 1 then .error .noPlaneForm else need (bitsAt w 22 5 == 0) (.vclass (fld w 27 5) (fld w 17 5) (fld w 14 3))
  | 8 => if bitsAt w 13 1 == 1 then .error .noPlaneForm else need (bitsAt w 25 2 == 0) (.vcvt (fld w 27 5) (fld w 22 3) (fld w 17 5) (fld w 14 3))
  | 9 => if bitsAt w 13 1 == 1 then .error .noPlaneForm else need (bitsAt w 25 2 == 0) (.vwcvt (fld w 27 5) (fld w 22 3) (fld w 17 5) (fld w 14 3))
  | 10 => if bitsAt w 13 1 == 1 then .error .noPlaneForm else need (bitsAt w 25 2 == 0) (.vncvt (fld w 27 5) (fld w 22 3) (fld w 17 5) (fld w 14 3))
  | 11 => if bitsAt w 13 1 == 1 then need (bitsAt w 14 3 == 0 && bitsAt w 22 5 == 0) (.vsextP (fld w 27 5) (fld w 17 5)) else need (bitsAt w 22 5 == 0) (.vsext (fld w 27 5) (fld w 17 5) (fld w 14 3))
  | 12 => if bitsAt w 13 1 == 1 then need (bitsAt w 14 3 == 0 && bitsAt w 22 5 == 0) (.vzextP (fld w 27 5) (fld w 17 5)) else need (bitsAt w 22 5 == 0) (.vzext (fld w 27 5) (fld w 17 5) (fld w 14 3))
  | 13 => if bitsAt w 13 1 == 1 then need (bitsAt w 14 3 == 0 && bitsAt w 22 5 == 0) (.vnclipP (fld w 27 5) (fld w 17 5)) else need (bitsAt w 22 5 == 0) (.vnclip (fld w 27 5) (fld w 17 5) (fld w 14 3))
  | _ => .error .reservedFunction

/-- Major 17 of the base form (R128). -/
noncomputable def decodeMajor17 (w : Nat) : Except Reject Instr :=
  match bitsAt w 7 6 with
  | 0 => if bitsAt w 13 1 == 1 then .error .noPlaneForm else .ok (.vgather (fld w 27 5) (fld w 22 5) (fld w 17 5) (fld w 14 3))
  | 1 => if bitsAt w 13 1 == 1 then .error .noPlaneForm else .ok (.vslideup (fld w 27 5) (fld w 22 5) (fld w 17 5) (fld w 14 3))
  | 2 => if bitsAt w 13 1 == 1 then .error .noPlaneForm else .ok (.vslidedn (fld w 27 5) (fld w 22 5) (fld w 17 5) (fld w 14 3))
  | 3 => if bitsAt w 13 1 == 1 then .error .noPlaneForm else need (bitsAt w 17 5 == 0) (.vcompress (fld w 27 5) (fld w 22 5) (fld w 14 3))
  | 4 => if bitsAt w 13 1 == 1 then .error .noPlaneForm else need (bitsAt w 17 5 == 0) (.vrev (fld w 27 5) (fld w 22 5) (fld w 14 3))
  | 5 => if bitsAt w 13 1 == 1 then .error .noPlaneForm else .ok (.vbcast (fld w 27 5) (fld w 22 5) (fld w 17 5) (fld w 14 3))
  | 6 => if bitsAt w 13 1 == 1 then .error .noPlaneForm else need (bitsAt w 14 3 == 0) (.vextr (fld w 27 5) (fld w 22 5) (fld w 17 5))
  | 7 => if bitsAt w 13 1 == 1 then .error .noPlaneForm else .ok (.vinsr (fld w 27 5) (fld w 22 5) (fld w 17 5) (fld w 14 3))
  | 8 => if bitsAt w 13 1 == 1 then .error .noPlaneForm else .ok (.vzip (fld w 27 5) (fld w 22 5) (fld w 17 5) (fld w 14 3))
  | 9 => if bitsAt w 13 1 == 1 then .error .noPlaneForm else .ok (.vunzip (fld w 27 5) (fld w 22 5) (fld w 17 5) (fld w 14 3))
  | _ => .error .reservedFunction

/-- Major 18 of the base form (R128). -/
noncomputable def decodeMajor18 (w : Nat) : Except Reject Instr :=
  match bitsAt w 7 6 with
  | 0 => if bitsAt w 13 1 == 1 then need (bitsAt w 14 3 == 0 && bitsAt w 31 1 == 0) (.vcmpeqPVv (fld w 27 4) (fld w 22 5) (fld w 17 5)) else need (bitsAt w 30 2 == 0) (.vcmpeqVv (fld w 27 3) (fld w 22 5) (fld w 17 5) (fld w 14 3))
  | 1 => if bitsAt w 13 1 == 1 then need (bitsAt w 14 3 == 0 && bitsAt w 31 1 == 0) (.vcmpnePVv (fld w 27 4) (fld w 22 5) (fld w 17 5)) else need (bitsAt w 30 2 == 0) (.vcmpneVv (fld w 27 3) (fld w 22 5) (fld w 17 5) (fld w 14 3))
  | 2 => if bitsAt w 13 1 == 1 then need (bitsAt w 14 3 == 0 && bitsAt w 31 1 == 0) (.vcmpltPVv (fld w 27 4) (fld w 22 5) (fld w 17 5)) else need (bitsAt w 30 2 == 0) (.vcmpltVv (fld w 27 3) (fld w 22 5) (fld w 17 5) (fld w 14 3))
  | 3 => if bitsAt w 13 1 == 1 then need (bitsAt w 14 3 == 0 && bitsAt w 31 1 == 0) (.vcmplePVv (fld w 27 4) (fld w 22 5) (fld w 17 5)) else need (bitsAt w 30 2 == 0) (.vcmpleVv (fld w 27 3) (fld w 22 5) (fld w 17 5) (fld w 14 3))
  | 4 => if bitsAt w 13 1 == 1 then need (bitsAt w 14 3 == 0 && bitsAt w 31 1 == 0) (.vcmpgtPVv (fld w 27 4) (fld w 22 5) (fld w 17 5)) else need (bitsAt w 30 2 == 0) (.vcmpgtVv (fld w 27 3) (fld w 22 5) (fld w 17 5) (fld w 14 3))
  | 5 => if bitsAt w 13 1 == 1 then need (bitsAt w 14 3 == 0 && bitsAt w 31 1 == 0) (.vcmpgePVv (fld w 27 4) (fld w 22 5) (fld w 17 5)) else need (bitsAt w 30 2 == 0) (.vcmpgeVv (fld w 27 3) (fld w 22 5) (fld w 17 5) (fld w 14 3))
  | 8 => if bitsAt w 13 1 == 1 then need (bitsAt w 14 3 == 0 && bitsAt w 31 1 == 0) (.vcmpeqPVx (fld w 27 4) (fld w 22 5) (fld w 17 5)) else need (bitsAt w 30 2 == 0) (.vcmpeqVx (fld w 27 3) (fld w 22 5) (fld w 17 5) (fld w 14 3))
  | 9 => if bitsAt w 13 1 == 1 then need (bitsAt w 14 3 == 0 && bitsAt w 31 1 == 0) (.vcmpnePVx (fld w 27 4) (fld w 22 5) (fld w 17 5)) else need (bitsAt w 30 2 == 0) (.vcmpneVx (fld w 27 3) (fld w 22 5) (fld w 17 5) (fld w 14 3))
  | 10 => if bitsAt w 13 1 == 1 then need (bitsAt w 14 3 == 0 && bitsAt w 31 1 == 0) (.vcmpltPVx (fld w 27 4) (fld w 22 5) (fld w 17 5)) else need (bitsAt w 30 2 == 0) (.vcmpltVx (fld w 27 3) (fld w 22 5) (fld w 17 5) (fld w 14 3))
  | 11 => if bitsAt w 13 1 == 1 then need (bitsAt w 14 3 == 0 && bitsAt w 31 1 == 0) (.vcmplePVx (fld w 27 4) (fld w 22 5) (fld w 17 5)) else need (bitsAt w 30 2 == 0) (.vcmpleVx (fld w 27 3) (fld w 22 5) (fld w 17 5) (fld w 14 3))
  | 12 => if bitsAt w 13 1 == 1 then need (bitsAt w 14 3 == 0 && bitsAt w 31 1 == 0) (.vcmpgtPVx (fld w 27 4) (fld w 22 5) (fld w 17 5)) else need (bitsAt w 30 2 == 0) (.vcmpgtVx (fld w 27 3) (fld w 22 5) (fld w 17 5) (fld w 14 3))
  | 13 => if bitsAt w 13 1 == 1 then need (bitsAt w 14 3 == 0 && bitsAt w 31 1 == 0) (.vcmpgePVx (fld w 27 4) (fld w 22 5) (fld w 17 5)) else need (bitsAt w 30 2 == 0) (.vcmpgeVx (fld w 27 3) (fld w 22 5) (fld w 17 5) (fld w 14 3))
  | 16 => if bitsAt w 13 1 == 1 then .error .noPlaneForm else need (bitsAt w 14 3 == 0 && bitsAt w 20 2 == 0 && bitsAt w 25 2 == 0 && bitsAt w 30 2 == 0) (.kand (fld w 27 3) (fld w 22 3) (fld w 17 3))
  | 17 => if bitsAt w 13 1 == 1 then .error .noPlaneForm else need (bitsAt w 14 3 == 0 && bitsAt w 20 2 == 0 && bitsAt w 25 2 == 0 && bitsAt w 30 2 == 0) (.kor (fld w 27 3) (fld w 22 3) (fld w 17 3))
  | 18 => if bitsAt w 13 1 == 1 then .error .noPlaneForm else need (bitsAt w 14 3 == 0 && bitsAt w 20 2 == 0 && bitsAt w 25 2 == 0 && bitsAt w 30 2 == 0) (.kxor (fld w 27 3) (fld w 22 3) (fld w 17 3))
  | 19 => if bitsAt w 13 1 == 1 then .error .noPlaneForm else need (bitsAt w 14 3 == 0 && bitsAt w 20 2 == 0 && bitsAt w 25 2 == 0 && bitsAt w 30 2 == 0) (.kandn (fld w 27 3) (fld w 22 3) (fld w 17 3))
  | 20 => if bitsAt w 13 1 == 1 then .error .noPlaneForm else need (bitsAt w 14 8 == 0 && bitsAt w 25 2 == 0 && bitsAt w 30 2 == 0) (.knot (fld w 27 3) (fld w 22 3))
  | 21 => if bitsAt w 13 1 == 1 then .error .noPlaneForm else need (bitsAt w 14 8 == 0 && bitsAt w 25 2 == 0) (.kpopc (fld w 27 5) (fld w 22 3))
  | 22 => if bitsAt w 13 1 == 1 then .error .noPlaneForm else need (bitsAt w 14 8 == 0 && bitsAt w 25 2 == 0) (.kfirst (fld w 27 5) (fld w 22 3))
  | 32 => if bitsAt w 13 1 == 1 then .error .noPlaneForm else .ok (.vred (fld w 27 5) (fld w 22 5) (fld w 17 5) (fld w 14 3))
  | 33 => if bitsAt w 13 1 == 1 then .error .noPlaneForm else .ok (.vredmax (fld w 27 5) (fld w 22 5) (fld w 17 5) (fld w 14 3))
  | 34 => if bitsAt w 13 1 == 1 then .error .noPlaneForm else .ok (.vredmin (fld w 27 5) (fld w 22 5) (fld w 17 5) (fld w 14 3))
  | 35 => if bitsAt w 13 1 == 1 then .error .noPlaneForm else .ok (.vredand (fld w 27 5) (fld w 22 5) (fld w 17 5) (fld w 14 3))
  | 36 => if bitsAt w 13 1 == 1 then .error .noPlaneForm else .ok (.vredor (fld w 27 5) (fld w 22 5) (fld w 17 5) (fld w 14 3))
  | 37 => if bitsAt w 13 1 == 1 then .error .noPlaneForm else .ok (.vredxor (fld w 27 5) (fld w 22 5) (fld w 17 5) (fld w 14 3))
  | 38 => if bitsAt w 13 1 == 1 then .error .noPlaneForm else .ok (.vredo (fld w 27 5) (fld w 22 5) (fld w 17 5) (fld w 14 3))
  | _ => .error .reservedFunction

/-- Major 19 of the base form (R128). -/
noncomputable def decodeMajor19 (w : Nat) : Except Reject Instr :=
  match bitsAt w 11 3 with
  | 0 => need (bitsAt w 7 1 == 0 && bitsAt w 17 5 == 0) (.vld (fld w 27 5) (fld w 22 5) (fld w 14 3) (fld w 10 1) (fld w 8 2))
  | 1 => need (bitsAt w 7 1 == 0) (.vlds (fld w 27 5) (fld w 22 5) (fld w 17 5) (fld w 14 3) (fld w 10 1) (fld w 8 2))
  | 2 => need (bitsAt w 7 1 == 0) (.vldx (fld w 27 5) (fld w 22 5) (fld w 17 5) (fld w 14 3) (fld w 10 1) (fld w 8 2))
  | 3 => need (bitsAt w 17 5 == 0) (.vlseg (fld w 27 5) (fld w 22 5) (fld w 14 3) (fld w 10 1) (fld w 7 3))
  | 4 => .ok (.vlsseg (fld w 27 5) (fld w 22 5) (fld w 17 5) (fld w 14 3) (fld w 10 1) (fld w 7 3))
  | _ => .error .reservedFunction

/-- Major 20 of the base form (R128). -/
noncomputable def decodeMajor20 (w : Nat) : Except Reject Instr :=
  match bitsAt w 11 3 with
  | 0 => need (bitsAt w 7 3 == 0 && bitsAt w 17 5 == 0) (.vst (fld w 27 5) (fld w 22 5) (fld w 14 3) (fld w 10 1))
  | 1 => need (bitsAt w 7 3 == 0) (.vsts (fld w 27 5) (fld w 22 5) (fld w 17 5) (fld w 14 3) (fld w 10 1))
  | 2 => need (bitsAt w 7 3 == 0) (.vstx (fld w 27 5) (fld w 22 5) (fld w 17 5) (fld w 14 3) (fld w 10 1))
  | 3 => need (bitsAt w 17 5 == 0) (.vsseg (fld w 27 5) (fld w 22 5) (fld w 14 3) (fld w 10 1) (fld w 7 3))
  | 4 => .ok (.vssseg (fld w 27 5) (fld w 22 5) (fld w 17 5) (fld w 14 3) (fld w 10 1) (fld w 7 3))
  | _ => .error .reservedFunction

/-- Major 21 of the base form (R128). -/
noncomputable def decodeMajor21 (w : Nat) : Except Reject Instr :=
  match bitsAt w 7 4 with
  | 0 => .ok (.vamoSwap (fld w 27 5) (fld w 22 5) (fld w 17 5) (fld w 14 3) (fld w 11 3))
  | 1 => .ok (.vamoAdd (fld w 27 5) (fld w 22 5) (fld w 17 5) (fld w 14 3) (fld w 11 3))
  | 2 => .ok (.vamoAnd (fld w 27 5) (fld w 22 5) (fld w 17 5) (fld w 14 3) (fld w 11 3))
  | 3 => .ok (.vamoOr (fld w 27 5) (fld w 22 5) (fld w 17 5) (fld w 14 3) (fld w 11 3))
  | 4 => .ok (.vamoXor (fld w 27 5) (fld w 22 5) (fld w 17 5) (fld w 14 3) (fld w 11 3))
  | 5 => .ok (.vamoMin (fld w 27 5) (fld w 22 5) (fld w 17 5) (fld w 14 3) (fld w 11 3))
  | 6 => .ok (.vamoMax (fld w 27 5) (fld w 22 5) (fld w 17 5) (fld w 14 3) (fld w 11 3))
  | 7 => .ok (.vrdwAdd (fld w 27 5) (fld w 22 5) (fld w 17 5) (fld w 14 3) (fld w 11 3))
  | 8 => .ok (.vrdwMax (fld w 27 5) (fld w 22 5) (fld w 17 5) (fld w 14 3) (fld w 11 3))
  | 9 => .ok (.vrdwMin (fld w 27 5) (fld w 22 5) (fld w 17 5) (fld w 14 3) (fld w 11 3))
  | 10 => .ok (.vrdwExpsum (fld w 27 5) (fld w 22 5) (fld w 17 5) (fld w 14 3) (fld w 11 3))
  | 11 => .ok (.vwaitEq (fld w 27 5) (fld w 22 5) (fld w 17 5) (fld w 14 3) (fld w 11 3))
  | 12 => .ok (.vwaitNe (fld w 27 5) (fld w 22 5) (fld w 17 5) (fld w 14 3) (fld w 11 3))
  | 13 => .ok (.vwaitGe (fld w 27 5) (fld w 22 5) (fld w 17 5) (fld w 14 3) (fld w 11 3))
  | 14 => .ok (.vwaitLt (fld w 27 5) (fld w 22 5) (fld w 17 5) (fld w 14 3) (fld w 11 3))
  | 15 => need (bitsAt w 11 3 == 0 && bitsAt w 30 2 == 0) (.vmatch (fld w 27 3) (fld w 22 5) (fld w 17 5) (fld w 14 3))
  | _ => .error .reservedFunction

/-- Major 22 of the base form (R128). -/
noncomputable def decodeMajor22 (w : Nat) : Except Reject Instr :=
  match bitsAt w 7 4 with
  | 0 => need (bitsAt w 11 6 == 0) (.pdset (fld w 27 5) (fld w 22 5) (fld w 17 5))
  | 1 => need (bitsAt w 11 11 == 0) (.pxin (fld w 27 5) (fld w 22 5))
  | 2 => need (bitsAt w 11 11 == 0) (.pxout (fld w 27 5) (fld w 22 5))
  | 3 => need (bitsAt w 11 6 == 0 && bitsAt w 27 5 == 0) (.prun (fld w 22 5) (fld w 17 5))
  | 4 => need (bitsAt w 11 21 == 0) .pfence
  | 5 => need (bitsAt w 11 1 == 0 && bitsAt w 13 1 == 0 && bitsAt w 17 5 == 0 && bitsAt w 27 5 == 0) (.bkacq (fld w 22 5) (fld w 14 3) (fld w 12 1))
  | 6 => need (bitsAt w 11 3 == 0 && bitsAt w 17 5 == 0 && bitsAt w 27 5 == 0) (.bkrel (fld w 22 5) (fld w 14 3))
  | 7 => need (bitsAt w 13 1 == 0) (.nred (fld w 27 5) (fld w 22 5) (fld w 17 5) (fld w 14 3) (fld w 11 2))
  | _ => .error .reservedFunction

/-- Major 23 of the base form (R128). -/
noncomputable def decodeMajor23 (w : Nat) : Except Reject Instr :=
  match bitsAt w 7 4 with
  | 0 => need (bitsAt w 11 6 == 0 && bitsAt w 20 2 == 0) (.mmac (fld w 27 5) (fld w 22 5) (fld w 17 3))
  | 1 => need (bitsAt w 11 6 == 0 && bitsAt w 20 2 == 0) (.mmact (fld w 27 5) (fld w 22 5) (fld w 17 3))
  | 2 => need (bitsAt w 12 15 == 0) (.mzero (fld w 27 5) (fld w 11 1))
  | 3 => need (bitsAt w 11 3 == 0) (.mdrain (fld w 27 5) (fld w 22 5) (fld w 17 5) (fld w 14 3))
  | 4 => need (bitsAt w 11 3 == 0) (.mdrainx (fld w 27 5) (fld w 22 5) (fld w 17 5) (fld w 14 3))
  | 5 => need (bitsAt w 11 1 == 0 && bitsAt w 13 14 == 0) (.mrel (fld w 27 5) (fld w 12 1))
  | _ => .error .reservedFunction

/-- Major 24 of the base form (R128). -/
noncomputable def decodeMajor24 (w : Nat) : Except Reject Instr :=
  match bitsAt w 7 4 with
  | 0 => need (bitsAt w 11 6 == 0) (.cast (fld w 24 8) (fld w 17 7))
  | 1 => .ok (.sfetch (fld w 11 21))
  | 2 => need (bitsAt w 11 21 == 0) .stop
  | 3 => need (bitsAt w 11 2 == 0 && bitsAt w 14 10 == 0) (.waits (fld w 24 8) (fld w 13 1))
  | 4 => need (bitsAt w 11 3 == 0 && bitsAt w 17 10 == 0) (.sstat (fld w 27 5) (fld w 14 3))
  | 5 => need (bitsAt w 11 11 == 0 && bitsAt w 27 5 == 0) (.voffer (fld w 22 5))
  | 6 => need (bitsAt w 11 3 == 0 && bitsAt w 17 5 == 0) (.vlink (fld w 27 5) (fld w 22 5) (fld w 14 3))
  | 7 => need (bitsAt w 11 3 == 0 && bitsAt w 17 15 == 0) (.sresume (fld w 14 3))
  | 8 => need (bitsAt w 11 3 == 0 && bitsAt w 17 15 == 0) (.skill (fld w 14 3))
  | _ => .error .reservedFunction

/-- Major 25 of the base form (R128). -/
noncomputable def decodeMajor25 (w : Nat) : Except Reject Instr :=
  match bitsAt w 7 4 with
  | 0 => need (bitsAt w 11 6 == 0) (.vpush (fld w 27 5) (fld w 22 5) (fld w 17 5))
  | 1 => need (bitsAt w 11 6 == 0) (.vpushm (fld w 27 5) (fld w 22 5) (fld w 17 5))
  | _ => .error .reservedFunction

/-- Major 26 of the base form (R128). -/
noncomputable def decodeMajor26 (w : Nat) : Except Reject Instr :=
  match bitsAt w 7 4 with
  | 0 => need (bitsAt w 11 1 == 0 && bitsAt w 13 1 == 0 && bitsAt w 17 5 == 0) (.sbind (fld w 27 5) (fld w 22 5) (fld w 14 3) (fld w 12 1))
  | 1 => need (bitsAt w 11 3 == 0 && bitsAt w 17 15 == 0) (.sunbind (fld w 14 3))
  | _ => .error .reservedFunction

/-- Major 27 of the base form (R128). -/
noncomputable def decodeMajor27 (w : Nat) : Except Reject Instr :=
  match bitsAt w 7 4 with
  | 0 => need (bitsAt w 11 16 == 0) (.chkick (fld w 27 5))
  | 1 => need (bitsAt w 11 11 == 0) (.wmpub (fld w 27 5) (fld w 22 5))
  | 2 => need (bitsAt w 11 1 == 0 && bitsAt w 13 1 == 0 && bitsAt w 17 5 == 0) (.wmbind (fld w 27 5) (fld w 22 5) (fld w 14 3) (fld w 12 1))
  | 3 => need (bitsAt w 11 2 == 0 && bitsAt w 14 8 == 0) (.wmwait (fld w 27 5) (fld w 22 5) (fld w 13 1))
  | 4 => need (bitsAt w 11 3 == 0 && bitsAt w 17 5 == 0) (.sigp (fld w 27 5) (fld w 22 5) (fld w 14 3))
  | 5 => need (bitsAt w 11 2 == 0 && bitsAt w 17 5 == 0) (.sigw (fld w 27 5) (fld w 22 5) (fld w 14 3) (fld w 13 1))
  | _ => .error .reservedFunction

/-- Major 28 of the base form (R128). -/
noncomputable def decodeMajor28 (w : Nat) : Except Reject Instr :=
  match bitsAt w 7 4 with
  | 0 => need (bitsAt w 11 3 == 0) (.throwCall (fld w 27 5) (fld w 22 5) (fld w 17 5) (fld w 14 3))
  | 1 => need (bitsAt w 11 2 == 0 && bitsAt w 14 8 == 0) (.catchReply (fld w 27 5) (fld w 22 5) (fld w 13 1))
  | _ => .error .reservedFunction

/-- Major 29 of the base form (R128). -/
noncomputable def decodeMajor29 (w : Nat) : Except Reject Instr :=
  match bitsAt w 7 4 with
  | 0 => need (bitsAt w 11 6 == 0 && bitsAt w 27 5 == 0) (.launch (fld w 22 5) (fld w 17 5))
  | _ => .error .reservedFunction

/-- A compact form (R133). -/
noncomputable def decodeCompact (w : Nat) : Except Reject Instr :=
  match bitsAt w 1 5 with
  | 1 => .ok (.cadd (fld w 11 5) (fld w 6 5))
  | 2 => .ok (.csub (fld w 11 5) (fld w 6 5))
  | 3 => .ok (.cand (fld w 11 5) (fld w 6 5))
  | 4 => .ok (.cor (fld w 11 5) (fld w 6 5))
  | 5 => .ok (.cxor (fld w 11 5) (fld w 6 5))
  | 6 => .ok (.csll (fld w 11 5) (fld w 6 5))
  | 7 => .ok (.csrl (fld w 11 5) (fld w 6 5))
  | 8 => .ok (.csra (fld w 11 5) (fld w 6 5))
  | 9 => .ok (.cmul (fld w 11 5) (fld w 6 5))
  | 10 => .ok (.caddi (fld w 11 5) (fld w 6 5))
  | 11 => .ok (.candi (fld w 11 5) (fld w 6 5))
  | 12 => .ok (.cslli (fld w 11 5) (fld w 6 5))
  | 13 => .ok (.csrli (fld w 11 5) (fld w 6 5))
  | 14 => .ok (.csrai (fld w 11 5) (fld w 6 5))
  | 15 => need (bitsAt w 6 5 == 0) (.cmv (fld w 11 5))
  | 16 => .ok (.clw (fld w 11 5) (fld w 6 5))
  | 17 => .ok (.cld (fld w 11 5) (fld w 6 5))
  | 18 => .ok (.cvadd (fld w 11 5) (fld w 6 5))
  | 19 => .ok (.cvsub (fld w 11 5) (fld w 6 5))
  | 20 => .ok (.cvmul (fld w 11 5) (fld w 6 5))
  | 21 => .ok (.cvmacc (fld w 11 5) (fld w 6 5))
  | 22 => .ok (.cvmin (fld w 11 5) (fld w 6 5))
  | 23 => .ok (.cvmax (fld w 11 5) (fld w 6 5))
  | 24 => .ok (.cvand (fld w 11 5) (fld w 6 5))
  | 25 => .ok (.cvor (fld w 11 5) (fld w 6 5))
  | 26 => .ok (.cvxor (fld w 11 5) (fld w 6 5))
  | 27 => .ok (.cvaddx (fld w 11 5) (fld w 6 5))
  | 28 => .ok (.cvmulx (fld w 11 5) (fld w 6 5))
  | 29 => need (bitsAt w 9 2 == 0 && bitsAt w 14 2 == 0) (.ckand (fld w 11 3) (fld w 6 3))
  | 30 => need (bitsAt w 9 2 == 0 && bitsAt w 14 2 == 0) (.ckor (fld w 11 3) (fld w 6 3))
  | 31 => need (bitsAt w 9 2 == 0 && bitsAt w 14 2 == 0) (.ckxor (fld w 11 3) (fld w 6 3))
  | _ => .error .reservedMajor

/-- The 32-bit base form (R126, R128). -/
noncomputable def decodeBase (w : Nat) : Except Reject Instr :=
  match bitsAt w 2 5 with
  | 0 => decodeMajor0 w
  | 1 => decodeMajor1 w
  | 2 => decodeMajor2 w
  | 3 => decodeMajor3 w
  | 4 => decodeMajor4 w
  | 5 => decodeMajor5 w
  | 6 => decodeMajor6 w
  | 7 => decodeMajor7 w
  | 8 => decodeMajor8 w
  | 9 => decodeMajor9 w
  | 10 => decodeMajor10 w
  | 11 => decodeMajor11 w
  | 12 => decodeMajor12 w
  | 13 => decodeMajor13 w
  | 14 => decodeMajor14 w
  | 15 => decodeMajor15 w
  | 16 => decodeMajor16 w
  | 17 => decodeMajor17 w
  | 18 => decodeMajor18 w
  | 19 => decodeMajor19 w
  | 20 => decodeMajor20 w
  | 21 => decodeMajor21 w
  | 22 => decodeMajor22 w
  | 23 => decodeMajor23 w
  | 24 => decodeMajor24 w
  | 25 => decodeMajor25 w
  | 26 => decodeMajor26 w
  | 27 => decodeMajor27 w
  | 28 => decodeMajor28 w
  | 29 => decodeMajor29 w
  | _ => .error .reservedMajor

/-- The 64-bit long form (R132, R234, R269, R284, R327). -/
noncomputable def decodeLong (w : Nat) : Except Reject Instr :=
  match bitsAt w 2 5, bitsAt w 12 3 with
  | 0, 0 => .ok (.lix (fld w 7 5) (fld w 15 49))
  | 0, 1 => need (bitsAt w 31 33 == 0) (.lixh (fld w 7 5) (fld w 15 16))
  | 1, 0 => need (bitsAt w 15 6 == 0 && bitsAt w 35 1 == 0)
      (.chdecl (fld w 59 5) (fld w 54 5) (fld w 36 18) (fld w 23 12) (fld w 21 2) (fld w 7 5))
  | 2, 0 => need (bitsAt w 25 39 == 0)
      (.coll (fld w 23 2) (fld w 20 3) (fld w 18 2) (fld w 15 3) (fld w 7 5))
  | 3, 0 => need (bitsAt w 15 19 == 0)
      (.mstat (fld w 61 3) (fld w 58 3) (fld w 50 8) (fld w 44 6) (fld w 38 6) (fld w 34 4) (fld w 7 5))
  | 4, 0 => need (bitsAt w 60 4 == 0)
      (.launchInline (fld w 55 5) (fld w 23 32) (fld w 21 2) (fld w 15 6) (fld w 7 5))
  | 0, _ | 1, _ | 2, _ | 3, _ | 4, _ => .error .reservedFunction
  | _, _ => .error .reservedMajor

/-- The length in bytes that the first halfword gives (R125). -/
def instrLength (h : Nat) : Nat := if h % 2 == 0 then 2 else if h % 4 == 1 then 4 else 8

/-- The instruction whose bits are `w`, bit 0 of the first halfword lowest (R125, R136). -/
noncomputable def decodeBits (w : Nat) : Except Reject Instr :=
  match instrLength w with
  | 2 => decodeCompact (w % 2 ^ 16)
  | 4 => decodeBase (w % 2 ^ 32)
  | _ => decodeLong (w % 2 ^ 64)

/-- The decoder: the bytes at the fetch address give an instruction and its length in bytes, or a
rejection by name. Total on any bytes. -/
noncomputable def decode (bs : List Byte) : Except Reject (Instr × Nat) :=
  let n := instrLength (leValue (bs.take 2))
  if bs.length < n then .error .truncated
  else
    match decodeBits (leValue (bs.take n)) with
    | .ok i => .ok (i, n)
    | .error e => .error e

/-- The decoder on an instruction whose bits are `w`, of which the table gives `nbits`: stored
little-endian with the bits above `nbits` zero, then decoded. -/
noncomputable def decodeTableWord (nbits w : Nat) : Option Instr :=
  match decode (leBytes 8 (w % 2 ^ nbits)) with
  | .ok (i, _) => some i
  | .error _ => none

/-- `field x lo` is the field `x` placed at bit `lo` (R5). -/
def field (x : BitVec n) (lo : Nat) : Nat := x.toNat * 2 ^ lo

/-- The split immediate of formats S and B: bits [11:7] at 31, bits [6:0] at 16 (R126). -/
def fieldSplit (x : BitVec 12) : Nat := x.toNat / 128 * 2 ^ 27 + x.toNat % 128 * 2 ^ 10

/-- Fixed bits and fields summed into a word. -/
def word (fixed : Nat) : List Nat → Nat
  | [] => fixed
  | f :: fs => f + word fixed fs

/-- The encoding of an instruction: its length in bits and its bits (R126 to R133). An event has none. -/
def encode : Instr → Nat × Nat
  | .add d a b => (32, word 5 [field d 27, field a 22, field b 17])
  | .sub d a b => (32, word 133 [field d 27, field a 22, field b 17])
  | .and d a b => (32, word 261 [field d 27, field a 22, field b 17])
  | .or d a b => (32, word 389 [field d 27, field a 22, field b 17])
  | .xor d a b => (32, word 517 [field d 27, field a 22, field b 17])
  | .sll d a b => (32, word 645 [field d 27, field a 22, field b 17])
  | .srl d a b => (32, word 773 [field d 27, field a 22, field b 17])
  | .sra d a b => (32, word 901 [field d 27, field a 22, field b 17])
  | .slt d a b => (32, word 1029 [field d 27, field a 22, field b 17])
  | .sltu d a b => (32, word 1157 [field d 27, field a 22, field b 17])
  | .min d a b => (32, word 1285 [field d 27, field a 22, field b 17])
  | .max d a b => (32, word 1413 [field d 27, field a 22, field b 17])
  | .minu d a b => (32, word 1541 [field d 27, field a 22, field b 17])
  | .maxu d a b => (32, word 1669 [field d 27, field a 22, field b 17])
  | .andn d a b => (32, word 1797 [field d 27, field a 22, field b 17])
  | .orn d a b => (32, word 1925 [field d 27, field a 22, field b 17])
  | .mul d a b => (32, word 2053 [field d 27, field a 22, field b 17])
  | .mulh d a b => (32, word 2181 [field d 27, field a 22, field b 17])
  | .mulhu d a b => (32, word 2309 [field d 27, field a 22, field b 17])
  | .mulhsu d a b => (32, word 2437 [field d 27, field a 22, field b 17])
  | .div d a b => (32, word 2565 [field d 27, field a 22, field b 17])
  | .divu d a b => (32, word 2693 [field d 27, field a 22, field b 17])
  | .rem d a b => (32, word 2821 [field d 27, field a 22, field b 17])
  | .remu d a b => (32, word 2949 [field d 27, field a 22, field b 17])
  | .clz d a => (32, word 3077 [field d 27, field a 22])
  | .ctz d a => (32, word 3205 [field d 27, field a 22])
  | .popc d a => (32, word 3333 [field d 27, field a 22])
  | .rol d a b => (32, word 3461 [field d 27, field a 22, field b 17])
  | .ror d a b => (32, word 3589 [field d 27, field a 22, field b 17])
  | .addi d a im => (32, word 9 [field d 27, field a 22, field im 10])
  | .andi d a im => (32, word 137 [field d 27, field a 22, field im 10])
  | .ori d a im => (32, word 265 [field d 27, field a 22, field im 10])
  | .xori d a im => (32, word 393 [field d 27, field a 22, field im 10])
  | .slti d a im => (32, word 521 [field d 27, field a 22, field im 10])
  | .slli d a h => (32, word 649 [field d 27, field a 22, field h 10])
  | .srli d a h => (32, word 777 [field d 27, field a 22, field h 10])
  | .srai d a h => (32, word 905 [field d 27, field a 22, field h 10])
  | .lih d im => (32, word 13 [field d 27, field im 8])
  | .addpc d im => (32, word 141 [field d 27, field im 8])
  | .lb d a im => (32, word 17 [field d 27, field a 22, field im 10])
  | .lbu d a im => (32, word 145 [field d 27, field a 22, field im 10])
  | .lh d a im => (32, word 273 [field d 27, field a 22, field im 10])
  | .lhu d a im => (32, word 401 [field d 27, field a 22, field im 10])
  | .lw d a im => (32, word 529 [field d 27, field a 22, field im 10])
  | .lwu d a im => (32, word 657 [field d 27, field a 22, field im 10])
  | .ld d a im => (32, word 785 [field d 27, field a 22, field im 10])
  | .lq d a im => (32, word 913 [field d 27, field a 22, field im 10])
  | .sb a b im => (32, word 21 [field a 22, field b 17, fieldSplit im])
  | .sh a b im => (32, word 149 [field a 22, field b 17, fieldSplit im])
  | .sw a b im => (32, word 277 [field a 22, field b 17, fieldSplit im])
  | .sd a b im => (32, word 405 [field a 22, field b 17, fieldSplit im])
  | .sq a b im => (32, word 533 [field a 22, field b 17, fieldSplit im])
  | .beq a b im => (32, word 25 [field a 22, field b 17, fieldSplit im])
  | .bne a b im => (32, word 153 [field a 22, field b 17, fieldSplit im])
  | .blt a b im => (32, word 281 [field a 22, field b 17, fieldSplit im])
  | .bge a b im => (32, word 409 [field a 22, field b 17, fieldSplit im])
  | .bltu a b im => (32, word 537 [field a 22, field b 17, fieldSplit im])
  | .bgeu a b im => (32, word 665 [field a 22, field b 17, fieldSplit im])
  | .jal d f => (32, word 29 [field d 27, field f 7])
  | .jalr d a im => (32, word 33 [field d 27, field a 22, field im 10])
  | .vloop d im => (32, word 161 [field d 27, field im 10])
  | .fadd d a b r t => (32, word 37 [field d 27, field a 22, field b 17, field r 14, field t 12])
  | .fsub d a b r t => (32, word 165 [field d 27, field a 22, field b 17, field r 14, field t 12])
  | .fmul d a b r t => (32, word 293 [field d 27, field a 22, field b 17, field r 14, field t 12])
  | .fdiv d a b r t => (32, word 421 [field d 27, field a 22, field b 17, field r 14, field t 12])
  | .fsqrt d a r t => (32, word 549 [field d 27, field a 22, field r 14, field t 12])
  | .fmin d a b t => (32, word 677 [field d 27, field a 22, field b 17, field t 12])
  | .fmax d a b t => (32, word 805 [field d 27, field a 22, field b 17, field t 12])
  | .fmac d a b r t => (32, word 933 [field d 27, field a 22, field b 17, field r 14, field t 12])
  | .fnmac d a b r t => (32, word 1061 [field d 27, field a 22, field b 17, field r 14, field t 12])
  | .fsgnj d a b t => (32, word 1189 [field d 27, field a 22, field b 17, field t 12])
  | .fsgnjn d a b t => (32, word 1317 [field d 27, field a 22, field b 17, field t 12])
  | .fsgnjx d a b t => (32, word 1445 [field d 27, field a 22, field b 17, field t 12])
  | .feq d a b t => (32, word 1573 [field d 27, field a 22, field b 17, field t 12])
  | .flt d a b t => (32, word 1701 [field d 27, field a 22, field b 17, field t 12])
  | .fle d a b t => (32, word 1829 [field d 27, field a 22, field b 17, field t 12])
  | .fclass d a t => (32, word 1957 [field d 27, field a 22, field t 12])
  | .fcvtfs d a r t => (32, word 2085 [field d 27, field a 22, field r 14, field t 12])
  | .fcvtfu d a r t => (32, word 2213 [field d 27, field a 22, field r 14, field t 12])
  | .fcvtsf d a r t => (32, word 2341 [field d 27, field a 22, field r 14, field t 12])
  | .fcvtuf d a r t => (32, word 2469 [field d 27, field a 22, field r 14, field t 12])
  | .fcvtff d a sc r t => (32, word 2597 [field d 27, field a 22, field sc 17, field r 14, field t 12])
  | .csrrw d a c => (32, word 1 [field d 27, field a 22, field c 10])
  | .csrrs d a c => (32, word 129 [field d 27, field a 22, field c 10])
  | .csrrc d a c => (32, word 257 [field d 27, field a 22, field c 10])
  | .csrrwi d u c => (32, word 385 [field d 27, field u 22, field c 10])
  | .csrrsi d u c => (32, word 513 [field d 27, field u 22, field c 10])
  | .csrrci d u c => (32, word 641 [field d 27, field u 22, field c 10])
  | .lda d a sc z => (32, word 65577 [field d 27, field a 22, field sc 12, field z 7])
  | .stl a b sc z => (32, word 33065 [field a 22, field b 17, field sc 12, field z 7])
  | .swap d a b q e sc z => (32, word 553 [field d 27, field a 22, field b 17, field q 16, field e 15, field sc 12, field z 7])
  | .cas d a b q e sc z => (32, word 809 [field d 27, field a 22, field b 17, field q 16, field e 15, field sc 12, field z 7])
  | .aadd d a b q e sc z => (32, word 1065 [field d 27, field a 22, field b 17, field q 16, field e 15, field sc 12, field z 7])
  | .aand d a b q e sc z => (32, word 1321 [field d 27, field a 22, field b 17, field q 16, field e 15, field sc 12, field z 7])
  | .aor d a b q e sc z => (32, word 1577 [field d 27, field a 22, field b 17, field q 16, field e 15, field sc 12, field z 7])
  | .axor d a b q e sc z => (32, word 1833 [field d 27, field a 22, field b 17, field q 16, field e 15, field sc 12, field z 7])
  | .amin d a b q e sc z => (32, word 2089 [field d 27, field a 22, field b 17, field q 16, field e 15, field sc 12, field z 7])
  | .amax d a b q e sc z => (32, word 2345 [field d 27, field a 22, field b 17, field q 16, field e 15, field sc 12, field z 7])
  | .aminu d a b q e sc z => (32, word 2601 [field d 27, field a 22, field b 17, field q 16, field e 15, field sc 12, field z 7])
  | .amaxu d a b q e sc z => (32, word 2857 [field d 27, field a 22, field b 17, field q 16, field e 15, field sc 12, field z 7])
  | .fence p sc c => (32, word 3113 [field p 27, field sc 17, field c 12])
  | .sbar m => (32, word 3369 [field m 17])
  | .svc c => (32, word 769 [field c 22])
  | .brk c => (32, word 1793 [field c 22])
  | .uret => (32, 2817)
  | .pmark => (32, 3841)
  | .phase a => (32, word 4865 [field a 22])
  | .sret => (32, 262913)
  | .wfi => (32, 263937)
  | .tlbinv a => (32, word 264961 [field a 22])
  | .tlbinva => (32, 265985)
  | .ctxsv d a => (32, word 267009 [field d 27, field a 22])
  | .ctxld d a => (32, word 268033 [field d 27, field a 22])
  | .lnset d a => (32, word 269057 [field d 27, field a 22])
  | .freeze d a => (32, word 270081 [field d 27, field a 22])
  | .ipi a => (32, word 271105 [field a 22])
  | .mret => (32, 525057)
  | .creset a => (32, word 526081 [field a 22])
  | .mcrec d a => (32, word 527105 [field d 27, field a 22])
  | .vsetl d a t => (32, word 45 [field d 27, field a 22, field t 11])
  | .vretag d a f w => (32, word 173 [field d 27, field a 22, field f 18, field w 11])
  | .vaddVv d a b k => (32, word 49 [field d 27, field a 22, field b 17, field k 14])
  | .vaddVx d a b k => (32, word 53 [field d 27, field a 22, field b 17, field k 14])
  | .vaddVi d a im k => (32, word 57 [field d 27, field a 22, field im 17, field k 14])
  | .vsubVv d a b k => (32, word 177 [field d 27, field a 22, field b 17, field k 14])
  | .vsubVx d a b k => (32, word 181 [field d 27, field a 22, field b 17, field k 14])
  | .vrsubVx d a b k => (32, word 309 [field d 27, field a 22, field b 17, field k 14])
  | .vrsubVi d a im k => (32, word 313 [field d 27, field a 22, field im 17, field k 14])
  | .vmulVv d a b k => (32, word 433 [field d 27, field a 22, field b 17, field k 14])
  | .vmulVx d a b k => (32, word 437 [field d 27, field a 22, field b 17, field k 14])
  | .vmulhVv d a b k => (32, word 561 [field d 27, field a 22, field b 17, field k 14])
  | .vmulhVx d a b k => (32, word 565 [field d 27, field a 22, field b 17, field k 14])
  | .vdivVv d a b k => (32, word 689 [field d 27, field a 22, field b 17, field k 14])
  | .vdivVx d a b k => (32, word 693 [field d 27, field a 22, field b 17, field k 14])
  | .vremVv d a b k => (32, word 817 [field d 27, field a 22, field b 17, field k 14])
  | .vremVx d a b k => (32, word 821 [field d 27, field a 22, field b 17, field k 14])
  | .vminVv d a b k => (32, word 945 [field d 27, field a 22, field b 17, field k 14])
  | .vminVx d a b k => (32, word 949 [field d 27, field a 22, field b 17, field k 14])
  | .vmaxVv d a b k => (32, word 1073 [field d 27, field a 22, field b 17, field k 14])
  | .vmaxVx d a b k => (32, word 1077 [field d 27, field a 22, field b 17, field k 14])
  | .vandVv d a b k => (32, word 1201 [field d 27, field a 22, field b 17, field k 14])
  | .vandVx d a b k => (32, word 1205 [field d 27, field a 22, field b 17, field k 14])
  | .vandVi d a im k => (32, word 1209 [field d 27, field a 22, field im 17, field k 14])
  | .vorVv d a b k => (32, word 1329 [field d 27, field a 22, field b 17, field k 14])
  | .vorVx d a b k => (32, word 1333 [field d 27, field a 22, field b 17, field k 14])
  | .vorVi d a im k => (32, word 1337 [field d 27, field a 22, field im 17, field k 14])
  | .vxorVv d a b k => (32, word 1457 [field d 27, field a 22, field b 17, field k 14])
  | .vxorVx d a b k => (32, word 1461 [field d 27, field a 22, field b 17, field k 14])
  | .vxorVi d a im k => (32, word 1465 [field d 27, field a 22, field im 17, field k 14])
  | .vsllVv d a b k => (32, word 1585 [field d 27, field a 22, field b 17, field k 14])
  | .vsllVx d a b k => (32, word 1589 [field d 27, field a 22, field b 17, field k 14])
  | .vsllVi d a im k => (32, word 1593 [field d 27, field a 22, field im 17, field k 14])
  | .vsrlVv d a b k => (32, word 1713 [field d 27, field a 22, field b 17, field k 14])
  | .vsrlVx d a b k => (32, word 1717 [field d 27, field a 22, field b 17, field k 14])
  | .vsrlVi d a im k => (32, word 1721 [field d 27, field a 22, field im 17, field k 14])
  | .vsraVv d a b k => (32, word 1841 [field d 27, field a 22, field b 17, field k 14])
  | .vsraVx d a b k => (32, word 1845 [field d 27, field a 22, field b 17, field k 14])
  | .vsraVi d a im k => (32, word 1849 [field d 27, field a 22, field im 17, field k 14])
  | .vsaddVv d a b k => (32, word 1969 [field d 27, field a 22, field b 17, field k 14])
  | .vsaddVx d a b k => (32, word 1973 [field d 27, field a 22, field b 17, field k 14])
  | .vsaddVi d a im k => (32, word 1977 [field d 27, field a 22, field im 17, field k 14])
  | .vssubVv d a b k => (32, word 2097 [field d 27, field a 22, field b 17, field k 14])
  | .vssubVx d a b k => (32, word 2101 [field d 27, field a 22, field b 17, field k 14])
  | .vavgVv d a b k => (32, word 2225 [field d 27, field a 22, field b 17, field k 14])
  | .vavgVx d a b k => (32, word 2229 [field d 27, field a 22, field b 17, field k 14])
  | .vsmulVv d a b k => (32, word 2353 [field d 27, field a 22, field b 17, field k 14])
  | .vsmulVx d a b k => (32, word 2357 [field d 27, field a 22, field b 17, field k 14])
  | .vsgnjVv d a b k => (32, word 2481 [field d 27, field a 22, field b 17, field k 14])
  | .vsgnjVx d a b k => (32, word 2485 [field d 27, field a 22, field b 17, field k 14])
  | .vsgnjnVv d a b k => (32, word 2609 [field d 27, field a 22, field b 17, field k 14])
  | .vsgnjnVx d a b k => (32, word 2613 [field d 27, field a 22, field b 17, field k 14])
  | .vsgnjxVv d a b k => (32, word 2737 [field d 27, field a 22, field b 17, field k 14])
  | .vsgnjxVx d a b k => (32, word 2741 [field d 27, field a 22, field b 17, field k 14])
  | .vmergeVv d a b k => (32, word 2865 [field d 27, field a 22, field b 17, field k 14])
  | .vmergeVx d a b k => (32, word 2869 [field d 27, field a 22, field b 17, field k 14])
  | .vmergeVi d a im k => (32, word 2873 [field d 27, field a 22, field im 17, field k 14])
  | .vmvVv d b k => (32, word 2993 [field d 27, field b 17, field k 14])
  | .vmvVx d b k => (32, word 2997 [field d 27, field b 17, field k 14])
  | .vmvVi d im k => (32, word 3001 [field d 27, field im 17, field k 14])
  | .vsatVi d a im k => (32, word 3129 [field d 27, field a 22, field im 17, field k 14])
  | .vbsclVv d a b k => (32, word 3249 [field d 27, field a 22, field b 17, field k 14])
  | .vaddPVv d a b => (32, word 8241 [field d 27, field a 22, field b 17])
  | .vaddPVx d a b => (32, word 8245 [field d 27, field a 22, field b 17])
  | .vsubPVv d a b => (32, word 8369 [field d 27, field a 22, field b 17])
  | .vrsubPVi d a im => (32, word 8505 [field d 27, field a 22, field im 17])
  | .vmulPVv d a b => (32, word 8625 [field d 27, field a 22, field b 17])
  | .vmulPVx d a b => (32, word 8629 [field d 27, field a 22, field b 17])
  | .vminPVv d a b => (32, word 9137 [field d 27, field a 22, field b 17])
  | .vmaxPVv d a b => (32, word 9265 [field d 27, field a 22, field b 17])
  | .vandPVv d a b => (32, word 9393 [field d 27, field a 22, field b 17])
  | .vorPVv d a b => (32, word 9521 [field d 27, field a 22, field b 17])
  | .vxorPVv d a b => (32, word 9649 [field d 27, field a 22, field b 17])
  | .vxorPVi d a im => (32, word 9657 [field d 27, field a 22, field im 17])
  | .vsllPVi d a im => (32, word 9785 [field d 27, field a 22, field im 17])
  | .vsrlPVi d a im => (32, word 9913 [field d 27, field a 22, field im 17])
  | .vsraPVi d a im => (32, word 10041 [field d 27, field a 22, field im 17])
  | .vsaddPVv d a b => (32, word 10161 [field d 27, field a 22, field b 17])
  | .vssubPVv d a b => (32, word 10289 [field d 27, field a 22, field b 17])
  | .vmergePVv d a b => (32, word 11057 [field d 27, field a 22, field b 17])
  | .vsatPVi d a im => (32, word 11321 [field d 27, field a 22, field im 17])
  | .vmacc d a b k => (32, word 61 [field d 27, field a 22, field b 17, field k 14])
  | .vnmsac d a b k => (32, word 189 [field d 27, field a 22, field b 17, field k 14])
  | .vmadd d a b k => (32, word 317 [field d 27, field a 22, field b 17, field k 14])
  | .vnmsub d a b k => (32, word 445 [field d 27, field a 22, field b 17, field k 14])
  | .vwmacc d a b k => (32, word 573 [field d 27, field a 22, field b 17, field k 14])
  | .vwmul d a b k => (32, word 701 [field d 27, field a 22, field b 17, field k 14])
  | .vwadd d a b k => (32, word 829 [field d 27, field a 22, field b 17, field k 14])
  | .vwsub d a b k => (32, word 957 [field d 27, field a 22, field b 17, field k 14])
  | .vqmacc d a b k => (32, word 1085 [field d 27, field a 22, field b 17, field k 14])
  | .vsqrt d r b k => (32, word 65 [field d 27, field r 22, field b 17, field k 14])
  | .vrsqrt d r b k => (32, word 193 [field d 27, field r 22, field b 17, field k 14])
  | .vrcp d r b k => (32, word 321 [field d 27, field r 22, field b 17, field k 14])
  | .vexp2 d r b k => (32, word 449 [field d 27, field r 22, field b 17, field k 14])
  | .vlog2 d r b k => (32, word 577 [field d 27, field r 22, field b 17, field k 14])
  | .vtanh d r b k => (32, word 705 [field d 27, field r 22, field b 17, field k 14])
  | .vsigm d r b k => (32, word 833 [field d 27, field r 22, field b 17, field k 14])
  | .vclass d b k => (32, word 961 [field d 27, field b 17, field k 14])
  | .vcvt d r b k => (32, word 1089 [field d 27, field r 22, field b 17, field k 14])
  | .vwcvt d r b k => (32, word 1217 [field d 27, field r 22, field b 17, field k 14])
  | .vncvt d r b k => (32, word 1345 [field d 27, field r 22, field b 17, field k 14])
  | .vsext d b k => (32, word 1473 [field d 27, field b 17, field k 14])
  | .vzext d b k => (32, word 1601 [field d 27, field b 17, field k 14])
  | .vnclip d b k => (32, word 1729 [field d 27, field b 17, field k 14])
  | .vsextP d b => (32, word 9665 [field d 27, field b 17])
  | .vzextP d b => (32, word 9793 [field d 27, field b 17])
  | .vnclipP d b => (32, word 9921 [field d 27, field b 17])
  | .vgather d a b k => (32, word 69 [field d 27, field a 22, field b 17, field k 14])
  | .vslideup d a b k => (32, word 197 [field d 27, field a 22, field b 17, field k 14])
  | .vslidedn d a b k => (32, word 325 [field d 27, field a 22, field b 17, field k 14])
  | .vcompress d a k => (32, word 453 [field d 27, field a 22, field k 14])
  | .vrev d a k => (32, word 581 [field d 27, field a 22, field k 14])
  | .vbcast d a b k => (32, word 709 [field d 27, field a 22, field b 17, field k 14])
  | .vextr d a b => (32, word 837 [field d 27, field a 22, field b 17])
  | .vinsr d a b k => (32, word 965 [field d 27, field a 22, field b 17, field k 14])
  | .vzip d a b k => (32, word 1093 [field d 27, field a 22, field b 17, field k 14])
  | .vunzip d a b k => (32, word 1221 [field d 27, field a 22, field b 17, field k 14])
  | .vcmpeqVv d a b k => (32, word 73 [field d 27, field a 22, field b 17, field k 14])
  | .vcmpneVv d a b k => (32, word 201 [field d 27, field a 22, field b 17, field k 14])
  | .vcmpltVv d a b k => (32, word 329 [field d 27, field a 22, field b 17, field k 14])
  | .vcmpleVv d a b k => (32, word 457 [field d 27, field a 22, field b 17, field k 14])
  | .vcmpgtVv d a b k => (32, word 585 [field d 27, field a 22, field b 17, field k 14])
  | .vcmpgeVv d a b k => (32, word 713 [field d 27, field a 22, field b 17, field k 14])
  | .vcmpeqVx d a b k => (32, word 1097 [field d 27, field a 22, field b 17, field k 14])
  | .vcmpneVx d a b k => (32, word 1225 [field d 27, field a 22, field b 17, field k 14])
  | .vcmpltVx d a b k => (32, word 1353 [field d 27, field a 22, field b 17, field k 14])
  | .vcmpleVx d a b k => (32, word 1481 [field d 27, field a 22, field b 17, field k 14])
  | .vcmpgtVx d a b k => (32, word 1609 [field d 27, field a 22, field b 17, field k 14])
  | .vcmpgeVx d a b k => (32, word 1737 [field d 27, field a 22, field b 17, field k 14])
  | .vcmpeqPVv d a b => (32, word 8265 [field d 27, field a 22, field b 17])
  | .vcmpnePVv d a b => (32, word 8393 [field d 27, field a 22, field b 17])
  | .vcmpltPVv d a b => (32, word 8521 [field d 27, field a 22, field b 17])
  | .vcmplePVv d a b => (32, word 8649 [field d 27, field a 22, field b 17])
  | .vcmpgtPVv d a b => (32, word 8777 [field d 27, field a 22, field b 17])
  | .vcmpgePVv d a b => (32, word 8905 [field d 27, field a 22, field b 17])
  | .vcmpeqPVx d a b => (32, word 9289 [field d 27, field a 22, field b 17])
  | .vcmpnePVx d a b => (32, word 9417 [field d 27, field a 22, field b 17])
  | .vcmpltPVx d a b => (32, word 9545 [field d 27, field a 22, field b 17])
  | .vcmplePVx d a b => (32, word 9673 [field d 27, field a 22, field b 17])
  | .vcmpgtPVx d a b => (32, word 9801 [field d 27, field a 22, field b 17])
  | .vcmpgePVx d a b => (32, word 9929 [field d 27, field a 22, field b 17])
  | .kand d a b => (32, word 2121 [field d 27, field a 22, field b 17])
  | .kor d a b => (32, word 2249 [field d 27, field a 22, field b 17])
  | .kxor d a b => (32, word 2377 [field d 27, field a 22, field b 17])
  | .kandn d a b => (32, word 2505 [field d 27, field a 22, field b 17])
  | .knot d a => (32, word 2633 [field d 27, field a 22])
  | .kpopc d a => (32, word 2761 [field d 27, field a 22])
  | .kfirst d a => (32, word 2889 [field d 27, field a 22])
  | .vred d a b k => (32, word 4169 [field d 27, field a 22, field b 17, field k 14])
  | .vredmax d a b k => (32, word 4297 [field d 27, field a 22, field b 17, field k 14])
  | .vredmin d a b k => (32, word 4425 [field d 27, field a 22, field b 17, field k 14])
  | .vredand d a b k => (32, word 4553 [field d 27, field a 22, field b 17, field k 14])
  | .vredor d a b k => (32, word 4681 [field d 27, field a 22, field b 17, field k 14])
  | .vredxor d a b k => (32, word 4809 [field d 27, field a 22, field b 17, field k 14])
  | .vredo d a b k => (32, word 4937 [field d 27, field a 22, field b 17, field k 14])
  | .vld d a k y f => (32, word 77 [field d 27, field a 22, field k 14, field y 10, field f 8])
  | .vlds d a b k y f => (32, word 2125 [field d 27, field a 22, field b 17, field k 14, field y 10, field f 8])
  | .vldx d a b k y f => (32, word 4173 [field d 27, field a 22, field b 17, field k 14, field y 10, field f 8])
  | .vlseg d a k y n => (32, word 6221 [field d 27, field a 22, field k 14, field y 10, field n 7])
  | .vlsseg d a b k y n => (32, word 8269 [field d 27, field a 22, field b 17, field k 14, field y 10, field n 7])
  | .vst d a k y => (32, word 81 [field d 27, field a 22, field k 14, field y 10])
  | .vsts d a b k y => (32, word 2129 [field d 27, field a 22, field b 17, field k 14, field y 10])
  | .vstx d a b k y => (32, word 4177 [field d 27, field a 22, field b 17, field k 14, field y 10])
  | .vsseg d a k y n => (32, word 6225 [field d 27, field a 22, field k 14, field y 10, field n 7])
  | .vssseg d a b k y n => (32, word 8273 [field d 27, field a 22, field b 17, field k 14, field y 10, field n 7])
  | .vamoSwap d a b k sc => (32, word 85 [field d 27, field a 22, field b 17, field k 14, field sc 11])
  | .vamoAdd d a b k sc => (32, word 213 [field d 27, field a 22, field b 17, field k 14, field sc 11])
  | .vamoAnd d a b k sc => (32, word 341 [field d 27, field a 22, field b 17, field k 14, field sc 11])
  | .vamoOr d a b k sc => (32, word 469 [field d 27, field a 22, field b 17, field k 14, field sc 11])
  | .vamoXor d a b k sc => (32, word 597 [field d 27, field a 22, field b 17, field k 14, field sc 11])
  | .vamoMin d a b k sc => (32, word 725 [field d 27, field a 22, field b 17, field k 14, field sc 11])
  | .vamoMax d a b k sc => (32, word 853 [field d 27, field a 22, field b 17, field k 14, field sc 11])
  | .vrdwAdd d a b k sc => (32, word 981 [field d 27, field a 22, field b 17, field k 14, field sc 11])
  | .vrdwMax d a b k sc => (32, word 1109 [field d 27, field a 22, field b 17, field k 14, field sc 11])
  | .vrdwMin d a b k sc => (32, word 1237 [field d 27, field a 22, field b 17, field k 14, field sc 11])
  | .vrdwExpsum d a b k sc => (32, word 1365 [field d 27, field a 22, field b 17, field k 14, field sc 11])
  | .vwaitEq d a b k sc => (32, word 1493 [field d 27, field a 22, field b 17, field k 14, field sc 11])
  | .vwaitNe d a b k sc => (32, word 1621 [field d 27, field a 22, field b 17, field k 14, field sc 11])
  | .vwaitGe d a b k sc => (32, word 1749 [field d 27, field a 22, field b 17, field k 14, field sc 11])
  | .vwaitLt d a b k sc => (32, word 1877 [field d 27, field a 22, field b 17, field k 14, field sc 11])
  | .vmatch d a b k => (32, word 2005 [field d 27, field a 22, field b 17, field k 14])
  | .pdset a b c => (32, word 89 [field a 27, field b 22, field c 17])
  | .pxin a b => (32, word 217 [field a 27, field b 22])
  | .pxout a b => (32, word 345 [field a 27, field b 22])
  | .prun b c => (32, word 473 [field b 22, field c 17])
  | .pfence => (32, 601)
  | .bkacq b sc t => (32, word 729 [field b 22, field sc 14, field t 12])
  | .bkrel b sc => (32, word 857 [field b 22, field sc 14])
  | .nred a b c sc g => (32, word 985 [field a 27, field b 22, field c 17, field sc 14, field g 11])
  | .mmac a b c => (32, word 93 [field a 27, field b 22, field c 17])
  | .mmact a b c => (32, word 221 [field a 27, field b 22, field c 17])
  | .mzero a m => (32, word 349 [field a 27, field m 11])
  | .mdrain a b c k => (32, word 477 [field a 27, field b 22, field c 17, field k 14])
  | .mdrainx a b c k => (32, word 605 [field a 27, field b 22, field c 17, field k 14])
  | .mrel a t => (32, word 733 [field a 27, field t 12])
  | .cast m n => (32, word 97 [field m 24, field n 17])
  | .castDelivery _ => (0, 0)
  | .sfetch f => (32, word 225 [field f 11])
  | .stop => (32, 353)
  | .waits m u => (32, word 481 [field m 24, field u 13])
  | .sstat a sc => (32, word 609 [field a 27, field sc 14])
  | .voffer b => (32, word 737 [field b 22])
  | .vlink a b sc => (32, word 865 [field a 27, field b 22, field sc 14])
  | .sresume sc => (32, word 993 [field sc 14])
  | .skill sc => (32, word 1121 [field sc 14])
  | .vpush a b c => (32, word 101 [field a 27, field b 22, field c 17])
  | .vpushm a b c => (32, word 229 [field a 27, field b 22, field c 17])
  | .pushLanding _ _ _ => (0, 0)
  | .sbind a b sc g => (32, word 105 [field a 27, field b 22, field sc 14, field g 12])
  | .sunbind sc => (32, word 233 [field sc 14])
  | .chkick a => (32, word 109 [field a 27])
  | .wmpub a b => (32, word 237 [field a 27, field b 22])
  | .wmbind a b sc g => (32, word 365 [field a 27, field b 22, field sc 14, field g 12])
  | .wmwait a b u => (32, word 493 [field a 27, field b 22, field u 13])
  | .sigp a b sc => (32, word 621 [field a 27, field b 22, field sc 14])
  | .sigw a b sc u => (32, word 749 [field a 27, field b 22, field sc 14, field u 13])
  | .throwCall a b c sc => (32, word 113 [field a 27, field b 22, field c 17, field sc 14])
  | .catchReply a b u => (32, word 241 [field a 27, field b 22, field u 13])
  | .launch b c => (32, word 117 [field b 22, field c 17])
  | .lix a im => (64, word 3 [field a 7, field im 15])
  | .lixh a im => (64, word 4099 [field a 7, field im 15])
  | .chdecl xs xn off len esz a => (64, word 7 [field xs 59, field xn 54, field off 36, field len 23, field esz 21, field a 7])
  | .coll esz op kind sc a => (64, word 11 [field esz 23, field op 20, field kind 18, field sc 15, field a 7])
  | .mstat sd sc macro0 kmac nmac wfmt a => (64, word 15 [field sd 61, field sc 58, field macro0 50, field kmac 44, field nmac 38, field wfmt 34, field a 7])
  | .launchInline sreg count scode queue a => (64, word 19 [field sreg 55, field count 23, field scode 21, field queue 15, field a 7])
  | .cadd d sc => (16, word 2 [field d 11, field sc 6])
  | .csub d sc => (16, word 4 [field d 11, field sc 6])
  | .cand d sc => (16, word 6 [field d 11, field sc 6])
  | .cor d sc => (16, word 8 [field d 11, field sc 6])
  | .cxor d sc => (16, word 10 [field d 11, field sc 6])
  | .csll d sc => (16, word 12 [field d 11, field sc 6])
  | .csrl d sc => (16, word 14 [field d 11, field sc 6])
  | .csra d sc => (16, word 16 [field d 11, field sc 6])
  | .cmul d sc => (16, word 18 [field d 11, field sc 6])
  | .caddi d sc => (16, word 20 [field d 11, field sc 6])
  | .candi d sc => (16, word 22 [field d 11, field sc 6])
  | .cslli d sc => (16, word 24 [field d 11, field sc 6])
  | .csrli d sc => (16, word 26 [field d 11, field sc 6])
  | .csrai d sc => (16, word 28 [field d 11, field sc 6])
  | .cmv d => (16, word 30 [field d 11])
  | .clw d sc => (16, word 32 [field d 11, field sc 6])
  | .cld d sc => (16, word 34 [field d 11, field sc 6])
  | .cvadd d sc => (16, word 36 [field d 11, field sc 6])
  | .cvsub d sc => (16, word 38 [field d 11, field sc 6])
  | .cvmul d sc => (16, word 40 [field d 11, field sc 6])
  | .cvmacc d sc => (16, word 42 [field d 11, field sc 6])
  | .cvmin d sc => (16, word 44 [field d 11, field sc 6])
  | .cvmax d sc => (16, word 46 [field d 11, field sc 6])
  | .cvand d sc => (16, word 48 [field d 11, field sc 6])
  | .cvor d sc => (16, word 50 [field d 11, field sc 6])
  | .cvxor d sc => (16, word 52 [field d 11, field sc 6])
  | .cvaddx d sc => (16, word 54 [field d 11, field sc 6])
  | .cvmulx d sc => (16, word 56 [field d 11, field sc 6])
  | .ckand d sc => (16, word 58 [field d 11, field sc 6])
  | .ckor d sc => (16, word 60 [field d 11, field sc 6])
  | .ckxor d sc => (16, word 62 [field d 11, field sc 6])
  | .carriageRound _ _ _ => (0, 0)
  | .sourceVerify _ _ _ => (0, 0)
  | .planeRetire _ _ => (0, 0)
  | .detectedPlaneError _ => (0, 0)
  | .refresh _ => (0, 0)
  | .tLevelActivate _ => (0, 0)
  | .tLevelRedirect _ => (0, 0)
  | .stageArbiterPeriod _ _ _ _ => (0, 0)
  | .queueEntryAccept _ => (0, 0)
  | .prefetch _ => (0, 0)
  | .launchReady _ => (0, 0)
  | .tileStart _ _ => (0, 0)
  | .contextSave _ => (0, 0)
  | .tileRestore _ => (0, 0)
  | .tileEnd _ _ => (0, 0)
  | .launchComplete _ => (0, 0)
  | .pendingTrapTake _ => (0, 0)
  | .architecturalWaitEnd _ => (0, 0)
  | .streamFetch _ _ => (0, 0)
  | .streamWrite _ _ => (0, 0)
  | .stripWrite _ => (0, 0)
  | .watermarkReread _ => (0, 0)
  | .guestStart _ => (0, 0)
  | .replyArrival _ _ _ _ _ => (0, 0)
  | .throwTimeout _ _ => (0, 0)
  | .throwMessage _ => (0, 0)
  | .collExchange _ => (0, 0)
  | .collComplete _ _ => (0, 0)
  | .migrationSwitch _ _ _ => (0, 0)
  | .accessCounterHalving => (0, 0)
  | .automaticMove _ _ => (0, 0)
  | .grantVaults => (0, 0)
  | .endGrant => (0, 0)
  | .mkRegion => (0, 0)
  | .freeRegion => (0, 0)
  | .moveChunk => (0, 0)
  | .pinChunk => (0, 0)
  | .unpinChunk => (0, 0)
  | .grantPeriodExpiry _ _ => (0, 0)
  | .timerInterrupt _ => (0, 0)
  | .watchdogWarning _ => (0, 0)
  | .watchdogFreeze _ => (0, 0)
  | .watchdogCoreReset _ => (0, 0)
  | .guestWatchdogExpiry _ => (0, 0)
  | .errorDetected _ _ _ _ _ _ => (0, 0)
  | .patrolScrub _ _ _ _ => (0, 0)
  | .linkReplayFailure _ _ => (0, 0)
  | .sensorSample _ => (0, 0)
  | .thermalTrip => (0, 0)
  | .powerFailWarning => (0, 0)
  | .powerFailClear => (0, 0)
  | .clampLift => (0, 0)
  | .powerFailTimeout => (0, 0)
  | .supplyLoss => (0, 0)
  | .logicRailsReturn _ _ => (0, 0)
  | .leaseExpiry => (0, 0)
  | .moduleReset => (0, 0)
  | .mailboxPost _ _ => (0, 0)
  | .mailboxAnswer _ => (0, 0)
  | .features _ => (0, 0)
  | .accept _ => (0, 0)
  | .mkpart _ => (0, 0)
  | .rmpart _ => (0, 0)
  | .stateCommand _ => (0, 0)
  | .rackCap _ => (0, 0)
  | .logread _ => (0, 0)
  | .sensors _ => (0, 0)
  | .fwwrite _ _ _ => (0, 0)
  | .fwcommit _ => (0, 0)
  | .getVersion => (0, 0)
  | .getCapabilities => (0, 0)
  | .negotiateAlgorithms => (0, 0)
  | .getDigests => (0, 0)
  | .getCertificate _ => (0, 0)
  | .challenge _ => (0, 0)
  | .getMeasurements _ => (0, 0)
  | .hostRead _ _ _ _ => (0, 0)
  | .hostWrite _ _ _ _ => (0, 0)
  | .snpinv _ => (0, 0)
  | .snpdata _ => (0, 0)
  | .snpcur _ => (0, 0)
  | .poisonedCompletion _ _ => (0, 0)
  | .peerRequest _ => (0, 0)
  | .peerWake _ => (0, 0)
  | .peerTimeout _ _ _ => (0, 0)
  | .peerRejection _ => (0, 0)
  | .laneSharingTurn _ _ => (0, 0)
  | .rowSpill _ => (0, 0)
  | .subarrayTransfer _ _ _ => (0, 0)
  | .fabricManagerAssignment _ _ _ _ => (0, 0)

/-- The bits of an instruction: what a trap of cause 0x01 or 0x02 shows as info (R136). -/
def Instr.bits (i : Instr) : Word := BitVec.ofNat 64 (encode i).2

/-- The length of an instruction in bytes (R125); an event has none. -/
def Instr.length (i : Instr) : Nat := (encode i).1 / 8

/-- The instruction as the hardware stores it (R125). -/
def encodeBytes (i : Instr) : List Byte := leBytes i.length (encode i).2

/-- The constructor has an encoding, that is, it is no event. -/
def Instr.encodable (i : Instr) : Bool := (encode i).1 != 0

/-- The field holds a value above `m`. -/
def exceeds (m : Nat) (x : BitVec n) : Bool := m < x.toNat

/-- The register number is odd (R148). -/
def odd (x : BitVec n) : Bool := x.toNat % 2 == 1

/-- The widths that a format code allows (R41): width codes 0 to 3 stand for 8, 16, 32 and 64. -/
def fmtWidthOk (fmt : BitVec 4) (width : BitVec 2) : Bool :=
  match fmt.toNat with
  | 0 | 1 | 2 => true
  | 3 => width != 0#2
  | 4 => width == 1#2
  | 5 | 6 | 7 | 8 | 9 => width == 0#2
  | _ => false

/-- A vtype image without reserved values (R57, R136 step 3, R164). -/
def vtypeOk (t : BitVec 11) : Bool :=
  fmtWidthOk (fld t.toNat 7 4) (fld t.toNat 0 2) && bitsAt t.toNat 4 2 != 3

/-- Columns of one macro for a weight format (R232). -/
def colsPerMacro (wfmt : Nat) : Nat :=
  match wfmt with
  | 0 | 3 | 4 => 64
  | 1 => 128
  | 2 => 256
  | _ => 32

/-- The static limits of a stationary region (R233, R234). -/
def regionLimits (macro0 : BitVec 8) (kmac nmac : BitVec 6) (wfmt : BitVec 4) : Bool :=
  wfmt.toNat ≤ 5 && macro0.toNat ≤ 251
    && (kmac == 1#6 || (kmac == 2#6 && wfmt != 5#4))
    && 1 ≤ nmac.toNat && nmac.toNat ≤ 32
    && colsPerMacro wfmt.toNat * nmac.toNat ≤ 2048
    && kmac.toNat * nmac.toNat ≤ 32
    && macro0.toNat + kmac.toNat * nmac.toNat ≤ 252

/-- The cause of the first check of a list that fails. -/
def firstFault : List (Bool × BitVec 8) → Option (BitVec 8)
  | [] => none
  | (bad, cause) :: rest => if bad then some cause else firstFault rest

/-- The first failing value check of R136 steps 3 and 4, or none. -/
def Instr.staticFault : Instr → Option (BitVec 8)
  | .add _ _ _ => none
  | .sub _ _ _ => none
  | .and _ _ _ => none
  | .or _ _ _ => none
  | .xor _ _ _ => none
  | .sll _ _ _ => none
  | .srl _ _ _ => none
  | .sra _ _ _ => none
  | .slt _ _ _ => none
  | .sltu _ _ _ => none
  | .min _ _ _ => none
  | .max _ _ _ => none
  | .minu _ _ _ => none
  | .maxu _ _ _ => none
  | .andn _ _ _ => none
  | .orn _ _ _ => none
  | .mul _ _ _ => none
  | .mulh _ _ _ => none
  | .mulhu _ _ _ => none
  | .mulhsu _ _ _ => none
  | .div _ _ _ => none
  | .divu _ _ _ => none
  | .rem _ _ _ => none
  | .remu _ _ _ => none
  | .clz _ _ => none
  | .ctz _ _ => none
  | .popc _ _ => none
  | .rol _ _ _ => none
  | .ror _ _ _ => none
  | .addi _ _ _ => none
  | .andi _ _ _ => none
  | .ori _ _ _ => none
  | .xori _ _ _ => none
  | .slti _ _ _ => none
  | .slli _ _ _ => none
  | .srli _ _ _ => none
  | .srai _ _ _ => none
  | .lih _ _ => none
  | .addpc _ _ => none
  | .lb _ _ _ => none
  | .lbu _ _ _ => none
  | .lh _ _ _ => none
  | .lhu _ _ _ => none
  | .lw _ _ _ => none
  | .lwu _ _ _ => none
  | .ld _ _ _ => none
  | .lq d _ _ => firstFault [(odd d, 0x02#8)]
  | .sb _ _ _ => none
  | .sh _ _ _ => none
  | .sw _ _ _ => none
  | .sd _ _ _ => none
  | .sq _ b _ => firstFault [(odd b, 0x02#8)]
  | .beq _ _ _ => none
  | .bne _ _ _ => none
  | .blt _ _ _ => none
  | .bge _ _ _ => none
  | .bltu _ _ _ => none
  | .bgeu _ _ _ => none
  | .jal _ _ => none
  | .jalr _ _ _ => none
  | .vloop _ _ => none
  | .fadd _ _ _ r _ => firstFault [(r == 6#3, 0x01#8)]
  | .fsub _ _ _ r _ => firstFault [(r == 6#3, 0x01#8)]
  | .fmul _ _ _ r _ => firstFault [(r == 6#3, 0x01#8)]
  | .fdiv _ _ _ r _ => firstFault [(r == 6#3, 0x01#8)]
  | .fsqrt _ _ r _ => firstFault [(r == 6#3, 0x01#8)]
  | .fmin _ _ _ _ => none
  | .fmax _ _ _ _ => none
  | .fmac _ _ _ r _ => firstFault [(r == 6#3, 0x01#8)]
  | .fnmac _ _ _ r _ => firstFault [(r == 6#3, 0x01#8)]
  | .fsgnj _ _ _ _ => none
  | .fsgnjn _ _ _ _ => none
  | .fsgnjx _ _ _ _ => none
  | .feq _ _ _ _ => none
  | .flt _ _ _ _ => none
  | .fle _ _ _ _ => none
  | .fclass _ _ _ => none
  | .fcvtfs _ _ r _ => firstFault [(r == 6#3, 0x01#8)]
  | .fcvtfu _ _ r _ => firstFault [(r == 6#3, 0x01#8)]
  | .fcvtsf _ _ r _ => firstFault [(r == 6#3, 0x01#8)]
  | .fcvtuf _ _ r _ => firstFault [(r == 6#3, 0x01#8)]
  | .fcvtff _ _ sc r t => firstFault [(sc == t, 0x02#8), (r == 6#3, 0x01#8)]
  | .csrrw _ _ _ => none
  | .csrrs _ _ _ => none
  | .csrrc _ _ _ => none
  | .csrrwi _ _ _ => none
  | .csrrsi _ _ _ => none
  | .csrrci _ _ _ => none
  | .lda _ _ sc _ => firstFault [(sc == 7#3, 0x01#8)]
  | .stl _ _ sc _ => firstFault [(sc == 7#3, 0x01#8)]
  | .swap _ _ _ _ _ sc _ => firstFault [(sc == 7#3, 0x01#8)]
  | .cas _ _ _ _ _ sc _ => firstFault [(sc == 7#3, 0x01#8)]
  | .aadd _ _ _ _ _ sc _ => firstFault [(sc == 7#3, 0x01#8)]
  | .aand _ _ _ _ _ sc _ => firstFault [(sc == 7#3, 0x01#8)]
  | .aor _ _ _ _ _ sc _ => firstFault [(sc == 7#3, 0x01#8)]
  | .axor _ _ _ _ _ sc _ => firstFault [(sc == 7#3, 0x01#8)]
  | .amin _ _ _ _ _ sc _ => firstFault [(sc == 7#3, 0x01#8)]
  | .amax _ _ _ _ _ sc _ => firstFault [(sc == 7#3, 0x01#8)]
  | .aminu _ _ _ _ _ sc _ => firstFault [(sc == 7#3, 0x01#8)]
  | .amaxu _ _ _ _ _ sc _ => firstFault [(sc == 7#3, 0x01#8)]
  | .fence _ _ c => firstFault [(c == 7#3, 0x01#8)]
  | .sbar m => firstFault [(m == 0#8, 0x02#8)]
  | .svc _ => none
  | .brk _ => none
  | .uret => none
  | .pmark => none
  | .phase _ => none
  | .sret => none
  | .wfi => none
  | .tlbinv _ => none
  | .tlbinva => none
  | .ctxsv _ _ => none
  | .ctxld _ _ => none
  | .lnset _ _ => none
  | .freeze d _ => firstFault [(exceeds 1 d, 0x02#8)]
  | .ipi _ => none
  | .mret => none
  | .creset _ => none
  | .mcrec _ _ => none
  | .vsetl _ _ t => firstFault [(!vtypeOk t, 0x02#8)]
  | .vretag _ _ f w => firstFault [(f == 0#4 || !fmtWidthOk f w, 0x02#8)]
  | .vaddVv _ _ _ _ => none
  | .vaddVx _ _ _ _ => none
  | .vaddVi _ _ _ _ => none
  | .vsubVv _ _ _ _ => none
  | .vsubVx _ _ _ _ => none
  | .vrsubVx _ _ _ _ => none
  | .vrsubVi _ _ _ _ => none
  | .vmulVv _ _ _ _ => none
  | .vmulVx _ _ _ _ => none
  | .vmulhVv _ _ _ _ => none
  | .vmulhVx _ _ _ _ => none
  | .vdivVv _ _ _ _ => none
  | .vdivVx _ _ _ _ => none
  | .vremVv _ _ _ _ => none
  | .vremVx _ _ _ _ => none
  | .vminVv _ _ _ _ => none
  | .vminVx _ _ _ _ => none
  | .vmaxVv _ _ _ _ => none
  | .vmaxVx _ _ _ _ => none
  | .vandVv _ _ _ _ => none
  | .vandVx _ _ _ _ => none
  | .vandVi _ _ _ _ => none
  | .vorVv _ _ _ _ => none
  | .vorVx _ _ _ _ => none
  | .vorVi _ _ _ _ => none
  | .vxorVv _ _ _ _ => none
  | .vxorVx _ _ _ _ => none
  | .vxorVi _ _ _ _ => none
  | .vsllVv _ _ _ _ => none
  | .vsllVx _ _ _ _ => none
  | .vsllVi _ _ _ _ => none
  | .vsrlVv _ _ _ _ => none
  | .vsrlVx _ _ _ _ => none
  | .vsrlVi _ _ _ _ => none
  | .vsraVv _ _ _ _ => none
  | .vsraVx _ _ _ _ => none
  | .vsraVi _ _ _ _ => none
  | .vsaddVv _ _ _ _ => none
  | .vsaddVx _ _ _ _ => none
  | .vsaddVi _ _ _ _ => none
  | .vssubVv _ _ _ _ => none
  | .vssubVx _ _ _ _ => none
  | .vavgVv _ _ _ _ => none
  | .vavgVx _ _ _ _ => none
  | .vsmulVv _ _ _ _ => none
  | .vsmulVx _ _ _ _ => none
  | .vsgnjVv _ _ _ _ => none
  | .vsgnjVx _ _ _ _ => none
  | .vsgnjnVv _ _ _ _ => none
  | .vsgnjnVx _ _ _ _ => none
  | .vsgnjxVv _ _ _ _ => none
  | .vsgnjxVx _ _ _ _ => none
  | .vmergeVv _ _ _ _ => none
  | .vmergeVx _ _ _ _ => none
  | .vmergeVi _ _ _ _ => none
  | .vmvVv _ _ _ => none
  | .vmvVx _ _ _ => none
  | .vmvVi _ _ _ => none
  | .vsatVi _ _ _ _ => none
  | .vbsclVv _ _ _ _ => none
  | .vaddPVv d a b => firstFault [(exceeds 15 d || exceeds 15 a || exceeds 15 b, 0x02#8)]
  | .vaddPVx d a _ => firstFault [(exceeds 15 d || exceeds 15 a, 0x02#8)]
  | .vsubPVv d a b => firstFault [(exceeds 15 d || exceeds 15 a || exceeds 15 b, 0x02#8)]
  | .vrsubPVi d a _ => firstFault [(exceeds 15 d || exceeds 15 a, 0x02#8)]
  | .vmulPVv d a b => firstFault [(exceeds 15 d || exceeds 15 a || exceeds 15 b, 0x02#8)]
  | .vmulPVx d a _ => firstFault [(exceeds 15 d || exceeds 15 a, 0x02#8)]
  | .vminPVv d a b => firstFault [(exceeds 15 d || exceeds 15 a || exceeds 15 b, 0x02#8)]
  | .vmaxPVv d a b => firstFault [(exceeds 15 d || exceeds 15 a || exceeds 15 b, 0x02#8)]
  | .vandPVv d a b => firstFault [(exceeds 15 d || exceeds 15 a || exceeds 15 b, 0x02#8)]
  | .vorPVv d a b => firstFault [(exceeds 15 d || exceeds 15 a || exceeds 15 b, 0x02#8)]
  | .vxorPVv d a b => firstFault [(exceeds 15 d || exceeds 15 a || exceeds 15 b, 0x02#8)]
  | .vxorPVi d a _ => firstFault [(exceeds 15 d || exceeds 15 a, 0x02#8)]
  | .vsllPVi d a _ => firstFault [(exceeds 15 d || exceeds 15 a, 0x02#8)]
  | .vsrlPVi d a _ => firstFault [(exceeds 15 d || exceeds 15 a, 0x02#8)]
  | .vsraPVi d a _ => firstFault [(exceeds 15 d || exceeds 15 a, 0x02#8)]
  | .vsaddPVv d a b => firstFault [(exceeds 15 d || exceeds 15 a || exceeds 15 b, 0x02#8)]
  | .vssubPVv d a b => firstFault [(exceeds 15 d || exceeds 15 a || exceeds 15 b, 0x02#8)]
  | .vmergePVv d a b => firstFault [(exceeds 15 d || exceeds 15 a || exceeds 15 b, 0x02#8)]
  | .vsatPVi d a _ => firstFault [(exceeds 15 d || exceeds 15 a, 0x02#8)]
  | .vmacc _ _ _ _ => none
  | .vnmsac _ _ _ _ => none
  | .vmadd _ _ _ _ => none
  | .vnmsub _ _ _ _ => none
  | .vwmacc _ _ _ _ => none
  | .vwmul _ _ _ _ => none
  | .vwadd _ _ _ _ => none
  | .vwsub _ _ _ _ => none
  | .vqmacc _ _ _ _ => none
  | .vsqrt _ r _ _ => firstFault [(r == 6#3, 0x01#8)]
  | .vrsqrt _ r _ _ => firstFault [(r == 6#3, 0x01#8)]
  | .vrcp _ r _ _ => firstFault [(r == 6#3, 0x01#8)]
  | .vexp2 _ r _ _ => firstFault [(r == 6#3, 0x01#8)]
  | .vlog2 _ r _ _ => firstFault [(r == 6#3, 0x01#8)]
  | .vtanh _ r _ _ => firstFault [(r == 6#3, 0x01#8)]
  | .vsigm _ r _ _ => firstFault [(r == 6#3, 0x01#8)]
  | .vclass _ _ _ => none
  | .vcvt _ r _ _ => firstFault [(r == 6#3, 0x01#8)]
  | .vwcvt _ r _ _ => firstFault [(r == 6#3, 0x01#8)]
  | .vncvt _ r _ _ => firstFault [(r == 6#3, 0x01#8)]
  | .vsext _ _ _ => none
  | .vzext _ _ _ => none
  | .vnclip _ _ _ => none
  | .vsextP d b => firstFault [(exceeds 15 d || exceeds 15 b, 0x02#8)]
  | .vzextP d b => firstFault [(exceeds 15 d || exceeds 15 b, 0x02#8)]
  | .vnclipP d b => firstFault [(exceeds 15 d || exceeds 15 b, 0x02#8)]
  | .vgather _ _ _ _ => none
  | .vslideup _ _ _ _ => none
  | .vslidedn _ _ _ _ => none
  | .vcompress _ _ _ => none
  | .vrev _ _ _ => none
  | .vbcast _ _ _ _ => none
  | .vextr _ _ _ => none
  | .vinsr _ _ _ _ => none
  | .vzip _ _ _ _ => none
  | .vunzip _ _ _ _ => none
  | .vcmpeqVv _ _ _ _ => none
  | .vcmpneVv _ _ _ _ => none
  | .vcmpltVv _ _ _ _ => none
  | .vcmpleVv _ _ _ _ => none
  | .vcmpgtVv _ _ _ _ => none
  | .vcmpgeVv _ _ _ _ => none
  | .vcmpeqVx _ _ _ _ => none
  | .vcmpneVx _ _ _ _ => none
  | .vcmpltVx _ _ _ _ => none
  | .vcmpleVx _ _ _ _ => none
  | .vcmpgtVx _ _ _ _ => none
  | .vcmpgeVx _ _ _ _ => none
  | .vcmpeqPVv _ a b => firstFault [(exceeds 15 a || exceeds 15 b, 0x02#8)]
  | .vcmpnePVv _ a b => firstFault [(exceeds 15 a || exceeds 15 b, 0x02#8)]
  | .vcmpltPVv _ a b => firstFault [(exceeds 15 a || exceeds 15 b, 0x02#8)]
  | .vcmplePVv _ a b => firstFault [(exceeds 15 a || exceeds 15 b, 0x02#8)]
  | .vcmpgtPVv _ a b => firstFault [(exceeds 15 a || exceeds 15 b, 0x02#8)]
  | .vcmpgePVv _ a b => firstFault [(exceeds 15 a || exceeds 15 b, 0x02#8)]
  | .vcmpeqPVx _ a _ => firstFault [(exceeds 15 a, 0x02#8)]
  | .vcmpnePVx _ a _ => firstFault [(exceeds 15 a, 0x02#8)]
  | .vcmpltPVx _ a _ => firstFault [(exceeds 15 a, 0x02#8)]
  | .vcmplePVx _ a _ => firstFault [(exceeds 15 a, 0x02#8)]
  | .vcmpgtPVx _ a _ => firstFault [(exceeds 15 a, 0x02#8)]
  | .vcmpgePVx _ a _ => firstFault [(exceeds 15 a, 0x02#8)]
  | .kand _ _ _ => none
  | .kor _ _ _ => none
  | .kxor _ _ _ => none
  | .kandn _ _ _ => none
  | .knot _ _ => none
  | .kpopc _ _ => none
  | .kfirst _ _ => none
  | .vred _ _ _ _ => none
  | .vredmax _ _ _ _ => none
  | .vredmin _ _ _ _ => none
  | .vredand _ _ _ _ => none
  | .vredor _ _ _ _ => none
  | .vredxor _ _ _ _ => none
  | .vredo _ _ _ _ => none
  | .vld _ _ _ _ f => firstFault [(f == 3#2, 0x02#8)]
  | .vlds _ _ _ _ _ f => firstFault [(f == 3#2, 0x02#8)]
  | .vldx _ _ _ _ _ f => firstFault [(f == 3#2, 0x02#8)]
  | .vlseg _ _ _ _ n => firstFault [(n == 0#3, 0x02#8)]
  | .vlsseg _ _ _ _ _ n => firstFault [(n == 0#3, 0x02#8)]
  | .vst _ _ _ _ => none
  | .vsts _ _ _ _ _ => none
  | .vstx _ _ _ _ _ => none
  | .vsseg _ _ _ _ n => firstFault [(n == 0#3, 0x02#8)]
  | .vssseg _ _ _ _ _ n => firstFault [(n == 0#3, 0x02#8)]
  | .vamoSwap _ _ _ _ sc => firstFault [(sc == 7#3, 0x01#8)]
  | .vamoAdd _ _ _ _ sc => firstFault [(sc == 7#3, 0x01#8)]
  | .vamoAnd _ _ _ _ sc => firstFault [(sc == 7#3, 0x01#8)]
  | .vamoOr _ _ _ _ sc => firstFault [(sc == 7#3, 0x01#8)]
  | .vamoXor _ _ _ _ sc => firstFault [(sc == 7#3, 0x01#8)]
  | .vamoMin _ _ _ _ sc => firstFault [(sc == 7#3, 0x01#8)]
  | .vamoMax _ _ _ _ sc => firstFault [(sc == 7#3, 0x01#8)]
  | .vrdwAdd _ _ _ _ sc => firstFault [(sc == 7#3, 0x01#8)]
  | .vrdwMax _ _ _ _ sc => firstFault [(sc == 7#3, 0x01#8)]
  | .vrdwMin _ _ _ _ sc => firstFault [(sc == 7#3, 0x01#8)]
  | .vrdwExpsum _ _ _ _ sc => firstFault [(sc == 7#3, 0x01#8)]
  | .vwaitEq _ _ _ _ sc => firstFault [(sc == 7#3, 0x01#8)]
  | .vwaitNe _ _ _ _ sc => firstFault [(sc == 7#3, 0x01#8)]
  | .vwaitGe _ _ _ _ sc => firstFault [(sc == 7#3, 0x01#8)]
  | .vwaitLt _ _ _ _ sc => firstFault [(sc == 7#3, 0x01#8)]
  | .vmatch _ _ _ _ => none
  | .pdset a _ _ => firstFault [(exceeds 15 a, 0x02#8)]
  | .pxin a _ => firstFault [(exceeds 15 a, 0x02#8)]
  | .pxout a _ => firstFault [(exceeds 15 a, 0x02#8)]
  | .prun _ _ => none
  | .pfence => none
  | .bkacq _ sc _ => firstFault [(sc == 7#3, 0x01#8)]
  | .bkrel _ sc => firstFault [(sc == 7#3, 0x01#8)]
  | .nred _ _ _ sc _ => firstFault [(sc == 7#3, 0x01#8)]
  | .mmac a _ _ => firstFault [(exceeds 1 a, 0x02#8)]
  | .mmact a _ _ => firstFault [(exceeds 1 a, 0x02#8)]
  | .mzero a _ => firstFault [(exceeds 1 a, 0x02#8)]
  | .mdrain a _ _ _ => firstFault [(exceeds 1 a, 0x02#8)]
  | .mdrainx a _ _ _ => firstFault [(exceeds 1 a, 0x02#8)]
  | .mrel a t => firstFault [(if t == 0#1 then exceeds 7 a else exceeds 1 a, 0x02#8)]
  | .cast m n => firstFault [(m == 0#8, 0x02#8), (n == 0#7 || exceeds 64 n, 0x02#8)]
  | .castDelivery _ => none
  | .sfetch _ => none
  | .stop => none
  | .waits m _ => firstFault [(m == 0#8, 0x02#8)]
  | .sstat _ _ => none
  | .voffer _ => none
  | .vlink _ _ _ => none
  | .sresume _ => none
  | .skill _ => none
  | .vpush _ _ _ => none
  | .vpushm _ _ _ => none
  | .pushLanding _ _ _ => none
  | .sbind a _ _ _ => firstFault [(!exceeds 15 a, 0x02#8)]
  | .sunbind _ => none
  | .chkick a => firstFault [(exceeds 15 a, 0x02#8)]
  | .wmpub a _ => firstFault [(exceeds 15 a, 0x02#8)]
  | .wmbind a b sc g => firstFault [(exceeds 15 a, 0x02#8), (b == 0#5 && (sc != 0#3 || g != 0#1), 0x02#8), (sc == 7#3, 0x01#8)]
  | .wmwait a _ _ => firstFault [(exceeds 15 a, 0x02#8)]
  | .sigp _ _ sc => firstFault [(sc == 7#3, 0x01#8)]
  | .sigw _ _ sc _ => firstFault [(sc == 7#3, 0x01#8)]
  | .throwCall _ _ _ sc => firstFault [(sc == 7#3, 0x01#8)]
  | .catchReply _ _ _ => none
  | .launch _ _ => none
  | .lix _ _ => none
  | .lixh _ _ => none
  | .chdecl _ _ _ _ _ a => firstFault [(exceeds 15 a, 0x02#8)]
  | .coll esz op kind sc _ => firstFault [(exceeds 3 op, 0x02#8), (exceeds 1 kind && op != 0#3, 0x02#8), (!exceeds 1 kind && (op == 1#3 || op == 3#3) && esz != 2#2, 0x02#8), (sc != 4#3 && sc != 5#3 && sc != 7#3, 0x02#8), (sc == 7#3, 0x01#8)]
  | .mstat _ sc macro0 kmac nmac wfmt _ => firstFault [(!regionLimits macro0 kmac nmac wfmt, 0x02#8), (sc == 7#3, 0x01#8)]
  | .launchInline _ _ _ _ _ => none
  | .cadd _ _ => none
  | .csub _ _ => none
  | .cand _ _ => none
  | .cor _ _ => none
  | .cxor _ _ => none
  | .csll _ _ => none
  | .csrl _ _ => none
  | .csra _ _ => none
  | .cmul _ _ => none
  | .caddi _ _ => none
  | .candi _ _ => none
  | .cslli _ _ => none
  | .csrli _ _ => none
  | .csrai _ _ => none
  | .cmv _ => none
  | .clw _ _ => none
  | .cld _ _ => none
  | .cvadd _ _ => none
  | .cvsub _ _ => none
  | .cvmul _ _ => none
  | .cvmacc _ _ => none
  | .cvmin _ _ => none
  | .cvmax _ _ => none
  | .cvand _ _ => none
  | .cvor _ _ => none
  | .cvxor _ _ => none
  | .cvaddx _ _ => none
  | .cvmulx _ _ => none
  | .ckand _ _ => none
  | .ckor _ _ => none
  | .ckxor _ _ => none
  | .carriageRound _ _ _ => none
  | .sourceVerify _ _ _ => none
  | .planeRetire _ _ => none
  | .detectedPlaneError _ => none
  | .refresh _ => none
  | .tLevelActivate _ => none
  | .tLevelRedirect _ => none
  | .stageArbiterPeriod _ _ _ _ => none
  | .queueEntryAccept _ => none
  | .prefetch _ => none
  | .launchReady _ => none
  | .tileStart _ _ => none
  | .contextSave _ => none
  | .tileRestore _ => none
  | .tileEnd _ _ => none
  | .launchComplete _ => none
  | .pendingTrapTake _ => none
  | .architecturalWaitEnd _ => none
  | .streamFetch _ _ => none
  | .streamWrite _ _ => none
  | .stripWrite _ => none
  | .watermarkReread _ => none
  | .guestStart _ => none
  | .replyArrival _ _ _ _ _ => none
  | .throwTimeout _ _ => none
  | .throwMessage _ => none
  | .collExchange _ => none
  | .collComplete _ _ => none
  | .migrationSwitch _ _ _ => none
  | .accessCounterHalving => none
  | .automaticMove _ _ => none
  | .grantVaults => none
  | .endGrant => none
  | .mkRegion => none
  | .freeRegion => none
  | .moveChunk => none
  | .pinChunk => none
  | .unpinChunk => none
  | .grantPeriodExpiry _ _ => none
  | .timerInterrupt _ => none
  | .watchdogWarning _ => none
  | .watchdogFreeze _ => none
  | .watchdogCoreReset _ => none
  | .guestWatchdogExpiry _ => none
  | .errorDetected _ _ _ _ _ _ => none
  | .patrolScrub _ _ _ _ => none
  | .linkReplayFailure _ _ => none
  | .sensorSample _ => none
  | .thermalTrip => none
  | .powerFailWarning => none
  | .powerFailClear => none
  | .clampLift => none
  | .powerFailTimeout => none
  | .supplyLoss => none
  | .logicRailsReturn _ _ => none
  | .leaseExpiry => none
  | .moduleReset => none
  | .mailboxPost _ _ => none
  | .mailboxAnswer _ => none
  | .features _ => none
  | .accept _ => none
  | .mkpart _ => none
  | .rmpart _ => none
  | .stateCommand _ => none
  | .rackCap _ => none
  | .logread _ => none
  | .sensors _ => none
  | .fwwrite _ _ _ => none
  | .fwcommit _ => none
  | .getVersion => none
  | .getCapabilities => none
  | .negotiateAlgorithms => none
  | .getDigests => none
  | .getCertificate _ => none
  | .challenge _ => none
  | .getMeasurements _ => none
  | .hostRead _ _ _ _ => none
  | .hostWrite _ _ _ _ => none
  | .snpinv _ => none
  | .snpdata _ => none
  | .snpcur _ => none
  | .poisonedCompletion _ _ => none
  | .peerRequest _ => none
  | .peerWake _ => none
  | .peerTimeout _ _ _ => none
  | .peerRejection _ => none
  | .laneSharingTurn _ _ => none
  | .rowSpill _ => none
  | .subarrayTransfer _ _ _ => none
  | .fabricManagerAssignment _ _ _ _ => none

end Sys2Proof
end

