-- ==== Sys2Proof/Machine/Fetch.lean ====
section
/-!
DEFINITION. Fetching an instruction's bytes and the checks before an instruction executes (R81, R125, R136).
-/
namespace Sys2Proof.Machine

/-- What a halfword held before the writes to it among the last `n` of the history. -/
def State.oldHalves (s : State) (n k : Nat) : List Nat :=
  ((s.history.take n).filter fun x => x.1 == k / 2).map (·.2)

/-- The two bytes at a place: any value they have held since the launch started on the core (R81, log 4). -/
def halfAt (ph : Phys) : M Nat := do
  let s ← get
  let new := s.readN ph.key 2
  match s.oldHalves s.codeNew ph.key with
  | [] => pure new
  | olds => do
    let d ← draw
    pure ((olds[Config.fetchPicks d ph.key % (olds.length + 1)]?).getD new)

/-- A later halfword of an instruction: a page that is not executable is cause 0x05 at the instruction's
own address (R125). -/
def fetchMore (pc : Word) (i : Nat) : M Nat := fun s =>
  match checkAccess .fetch (pc + BitVec.ofNat 64 (2 * i)) 2 s with
  | .ok ph s => halfAt ph s
  | .error (.trap cause info) s => .error (.trap cause (if cause = 0x05#8 then pc else info)) s
  | .error e s => .error e s

/-- The halfwords `i` to `i + n - 1` of the instruction at `pc` as one number. -/
def fetchRest (pc : Word) (i : Nat) : Nat → M Nat
  | 0 => pure 0
  | n + 1 => do
    let h ← fetchMore pc i
    let t ← fetchRest pc (i + 1) n
    pure (h + 65536 * t)

/-- The bits of the instruction at `pc` in a block of halfwords that ends before `stop`; none outside it (R247). -/
def blockBits (block : List Nat) (pc stop : Word) : Option Nat :=
  let rest := block.drop ((pc - (stop - BitVec.ofNat 64 (2 * block.length))).toNat / 2)
  rest.head?.map fun h => (rest.take (instrLength h / 2)).foldr (fun h t => h + 65536 * t) 0

/-- The bits of the instruction at the program counter: from memory, or from the block that a CAST has delivered (R79,
R81, R125, R247); the read counts (R359). -/
def fetchBits : M Nat := do
  let c ← getC
  match c.castEnd.bind fun stop => blockBits c.block c.pc stop with
  | some w => pure w
  | none =>
  let ph ← checkAccess .fetch c.pc 2
  modS fun s => s.countAccess ph.key
  let h ← halfAt ph
  let t ← fetchRest c.pc 1 (instrLength h / 2 - 1)
  pure (h + 65536 * t)

/-- The value checks of R136 steps 3 and 4 on a decoded instruction: its cause, or none. -/
def checkStatic (i : Instr) : Option (BitVec 8) := i.staticFault

/-- The instruction that the context's next step executes: fetched, decoded and checked; the bits stand in
`ir` for the info of its traps. A guest whose budget is spent executes nothing (R281). -/
noncomputable def fetchInstr : M Instr := do
  let c ← getC
  demand (!(c.guest.any fun g => g.budget == 0)) 0x0D c.pc
  let w ← fetchBits
  modS fun s => { s with ir := BitVec.ofNat 64 w }
  match decode (leBytes 8 w) with
  | .error e => trap e.cause (BitVec.ofNat 64 w)
  | .ok (i, _) =>
    match checkStatic i with
    | some cause => trap cause (BitVec.ofNat 64 w)
    | none => pure i

end Sys2Proof.Machine
end

