-- ==== Sys2Proof/Machine/Swatch.lean ====
section
/-!
DEFINITION. User swatches: words, row references, loops, validity, and the row operations of one word on one
subarray (R207 to R215). Rows of a subarray are numbered 0 to 1,023 data rows and 1,024 to 1,031 t0 to t7.
-/
namespace Sys2Proof.Machine

/-! ### Words -/

/-- Operation and fields of a swatch word (R208). -/
def swOp (w : BitVec 32) : Nat := slice w 27 5
def swX (w : BitVec 32) : Nat := slice w 18 9
def swY (w : BitVec 32) : Nat := slice w 9 9
def swZ (w : BitVec 32) : Nat := slice w 0 9

/-- Cycles of an operation (R208). -/
def swCycles (w : BitVec 32) : Nat :=
  match swOp w with
  | 0x01 => 1
  | 0x02 => 40
  | 0x03 => 50
  | 0x04 => 54
  | 0x05 => 50
  | 0x06 => 56
  | 0x07 => 56
  | 0x08 => 50
  | 0x09 => 50
  | 0x0A => 60
  | 0x0B => 44
  | 0x0C => 44
  | 0x0D => 100
  | _ => 0

/-- Fields that an operation does not use are zero, and its code is not reserved (R208). -/
def swFieldsOk (w : BitVec 32) : Bool :=
  match swOp w with
  | 0x00 => slice w 0 27 == 0
  | 0x01 => slice w 0 27 == 0
  | 0x02 => slice w 0 18 == 0
  | 0x03 => slice w 0 9 == 0
  | 0x04 => true
  | 0x05 => slice w 0 9 == 0
  | 0x06 => slice w 0 9 == 0
  | 0x07 => slice w 0 9 == 0
  | 0x08 => slice w 0 18 == 0
  | 0x09 => slice w 0 18 == 0
  | 0x0A => slice w 0 18 == 0
  | 0x0B => slice w 1 17 == 0
  | 0x0C => slice w 0 14 == 0 && slice w 15 3 ≤ 4
  | 0x0D => slice w 0 9 == 0
  | 0x0E => slice w 0 18 == 0
  | 0x0F => slice w 0 27 == 0
  | 0x10 => slice w 0 27 == 0
  | _ => false

/-- The row references an operation reads (R208). -/
def swReads (w : BitVec 32) : List Nat :=
  match swOp w with
  | 0x03 => [swY w]
  | 0x04 => [swX w, swY w, swZ w]
  | 0x05 => [swY w]
  | 0x06 => [swY w]
  | 0x07 => [swY w]
  | 0x0B => [swX w]
  | 0x0C => [swX w]
  | _ => []

/-- The row references an operation writes (R208). -/
def swWrites (w : BitVec 32) : List Nat :=
  match swOp w with
  | 0x03 => [swX w]
  | 0x04 => [swX w, swY w, swZ w]
  | 0x05 => [swX w]
  | 0x06 => [swX w]
  | 0x07 => [swX w]
  | 0x08 => [swX w]
  | 0x09 => [swX w]
  | 0x0D => [swX w, swY w]
  | _ => []

/-- The row references an operation names without reading or writing data. -/
def swNames (w : BitVec 32) : List Nat :=
  match swOp w with
  | 0x02 => [swX w]
  | 0x0A => [swX w]
  | _ => []

/-! ### Row references (R209) -/

/-- The operand of slot 0 A, 1 B, 2 D, 3 E. -/
def PlaneOp.slot (o : PlaneOp) (n : Nat) : PlaneOperand :=
  match n with
  | 0 => o.a
  | 1 => o.b
  | 2 => o.d
  | _ => o.e

/-- The index of the open loop of a level: 0 L, 1 J (R210). -/
def loopIndex (words : List (BitVec 32)) (loops : List SwatchLoop) (level : Nat) : Option Nat :=
  (loops.find? fun l => slice (words.getD l.head 0) 26 1 == level).map (·.index)

/-- The data bit that a reference of spaces 1 to 4 names (R209). -/
def refBit (words : List (BitVec 32)) (loops : List SwatchLoop) (ref : Nat) : Option Nat :=
  let v := ref % 16
  match ref % 64 / 16 with
  | 0 => some v
  | 1 => (loopIndex words loops 0).map (· + v)
  | 2 => (loopIndex words loops 1).map (· + v)
  | _ => (loopIndex words loops 0).bind fun l => (loopIndex words loops 1).map fun j => j + l + v

/-- Where a reference lies: a constant row, or a row of the subarray; none where it is invalid (R209, R212). -/
def rowOf (o : PlaneOp) (words : List (BitVec 32)) (loops : List SwatchLoop) (ref : Nat) : Option (Bool ⊕ Nat) :=
  let ix := ref % 64
  match ref / 64 with
  | 0 => if ix < 8 then some (.inr (1024 + ix)) else if ix = 8 then some (.inl false)
         else if ix = 9 then some (.inl true) else none
  | 5 =>
    let q := o.slot (ix / 2)
    if ix < 8 && q.used && q.residue then some (.inr (q.rowbase + q.width + ix % 2)) else none
  | n =>
    if 5 < n then none
    else
      let q := o.slot (n - 1)
      (refBit words loops ref).bind fun b => if q.used && b < q.width then some (.inr (q.rowbase + b)) else none

/-- A reference that may be written: no constant row, and of the slots only D (R207, R212). -/
def refWritable (ref : Nat) : Bool :=
  match ref / 64 with
  | 0 => ref % 64 < 8
  | 3 => true
  | 5 => ref % 64 == 4 || ref % 64 == 5
  | _ => false

/-! ### Loops (R210) -/

/-- The runs of a loop: base + lit − J where it takes J (R210). -/
def loopCount (o : PlaneOp) (w : BitVec 32) (j : Nat) : Int :=
  let base : Nat := match slice w 24 2 with
    | 0 => 0
    | 1 => o.a.width
    | 2 => o.b.width
    | _ => o.d.width
  (base : Int) + sintOf 5 (slice w 18 5) - (if slice w 23 1 = 1 then (j : Int) else 0)

/-- The word after the ENDL that matches a loop whose body starts at the list's head, which is word `i`. -/
def afterEndl : List (BitVec 32) → Nat → Nat → Nat
  | [], i, _ => i
  | w :: t, i, depth =>
    if swOp w = 0x0E then afterEndl t (i + 1) (depth + 1)
    else if swOp w = 0x0F then (if depth = 0 then i + 1 else afterEndl t (i + 1) (depth - 1))
    else afterEndl t (i + 1) depth

/-- Where control goes after the word at `here`. -/
def swNext (o : PlaneOp) (words : List (BitVec 32)) (here : Nat) (loops : List SwatchLoop) :
    Nat × List SwatchLoop :=
  let w := words.getD here 0
  match swOp w with
  | 0x0E =>
    let n := loopCount o w ((loopIndex words loops 1).getD 0)
    if n ≤ 0 then (afterEndl (words.drop (here + 1)) (here + 1) 0, loops)
    else (here + 1, { head := here, index := 0, count := n.toNat } :: loops)
  | 0x0F =>
    match loops with
    | [] => (here + 1, [])
    | l :: t => if l.index + 1 < l.count then (l.head + 1, { l with index := l.index + 1 } :: t) else (here + 1, t)
  | _ => (here + 1, loops)

/-! ### Validity (R212 to R215) -/

/-- The static checks of the word at `i` under the open loop levels: the levels after it, or none where the
word is invalid (R208 to R213). -/
def swStatic (o : PlaneOp) (words : List (BitVec 32)) (i : Nat) (levels : List Nat) : Option (List Nat) :=
  let w := words.getD i 0
  let refs := swReads w ++ swWrites w ++ swNames w
  let needs (r : Nat) (mode level : Nat) : Bool :=
    !(1 ≤ r / 64 && r / 64 ≤ 4 && (r % 64 / 16 == mode || r % 64 / 16 == 3)) || levels.contains level
  let spaces := refs.all fun r =>
    needs r 1 0 && needs r 2 1 &&
      (match r / 64 with
       | 0 => r % 64 < 10
       | 5 => r % 64 < 8 && (o.slot (r % 64 / 2)).used && (o.slot (r % 64 / 2)).residue
       | n => n ≤ 4 && (o.slot (n - 1)).used && (r % 64 / 16 != 0 || r % 16 < (o.slot (n - 1)).width))
  if !swFieldsOk w || !spaces || !(swWrites w).all refWritable then none
  else
    match swOp w with
    | 0x00 => if i + 1 = words.length && levels.isEmpty then some levels else none
    | 0x0C => if (slice w 15 3 = 2 || slice w 15 3 = 3) && !(1 ≤ swX w / 64 && swX w / 64 ≤ 4) then none
              else some levels
    | 0x0E =>
      let level := slice w 26 1
      let nest := levels.isEmpty || (levels == [1] && level == 0)
      if nest && (slice w 23 1 == 0 || (level == 0 && levels == [1])) then some (level :: levels) else none
    | 0x0F => if levels.isEmpty then none else some levels.tail
    | 0x10 => if levels.isEmpty || swOp (words.getD (i + 1) 0) = 0x0F then some levels else none
    | _ => some levels

/-- The first statically invalid word from `i` on, in `n` words; the last must be END. -/
def firstInvalid (o : PlaneOp) (words : List (BitVec 32)) (levels : List Nat) (i : Nat) : Nat → Option Nat
  | 0 => if swOp (words.getD (words.length - 1) 0) = 0 then none else some (words.length - 1)
  | n + 1 =>
    match swStatic o words i levels with
    | none => some i
    | some l => firstInvalid o words l (i + 1) n

/-- What the walk of a swatch along its path has seen: cycles and unsealed rows of the round; rounds, rows
read before and rows written in the span; live-in rows; t rows written in earlier spans (R213 to R215). -/
structure SwatchWalk where
  cycles : Nat
  unsealed : List Nat
  rounds : Nat
  readFirst : List Nat
  written : List Nat
  liveIn : List Nat
  before : List Nat
deriving DecidableEq, Repr

/-- The walk at the start of a swatch. -/
def SwatchWalk.start : SwatchWalk :=
  { cycles := 0, unsealed := [], rounds := 0, readFirst := [], written := [], liveIn := [], before := [] }

/-- A row read along the path; none where the rule of live-in rows is broken (R215). -/
def SwatchWalk.read (k : SwatchWalk) (r : Nat) : Option SwatchWalk :=
  if k.written.contains r then some k
  else if r < 1024 then some { k with readFirst := setAdd r k.readFirst }
  else if k.before.contains r then
    (let l := setAdd r k.liveIn
     if l.length ≤ 4 then some { k with liveIn := l } else none)
  else none

/-- A row written along the path; none where the span read it before (R214, R215). -/
def SwatchWalk.write (k : SwatchWalk) (r : Nat) : Option SwatchWalk :=
  if k.readFirst.contains r && !k.written.contains r then none
  else some { k with written := setAdd r k.written,
                     unsealed := if r < 1024 then setAdd r k.unsealed else k.unsealed }

/-- The rows that references name, constants left out; none where one is invalid. -/
def rowsNamed (o : PlaneOp) (words : List (BitVec 32)) (loops : List SwatchLoop) : List Nat → Option (List Nat)
  | [] => some []
  | r :: t =>
    (rowOf o words loops r).bind fun x => (rowsNamed o words loops t).map fun l =>
      match x with
      | .inl _ => l
      | .inr n => n :: l

/-- Cycles that a loop of a J loop lacks to its largest count, where it lies wholly inside a round (R213). -/
def loopSlack (o : PlaneOp) (words : List (BitVec 32)) (here : Nat) (loops : List SwatchLoop) : Nat :=
  let w := words.getD here 0
  let body := (words.drop (here + 1)).take (afterEndl (words.drop (here + 1)) (here + 1) 0 - here - 2)
  if body.any fun b => swOp b = 0x10 then 0
  else
    let runs (j : Nat) : Nat := (loopCount o w j).toNat
    (runs 0 - runs ((loopIndex words loops 1).getD 0)) * (body.map swCycles).foldl (· + ·) 0

/-- One word along the path. -/
def SwatchWalk.step (k : SwatchWalk) (o : PlaneOp) (words : List (BitVec 32)) (here : Nat)
    (loops : List SwatchLoop) : Option SwatchWalk := do
  let w := words.getD here 0
  let reads ← rowsNamed o words loops (swReads w)
  let writes ← rowsNamed o words loops (swWrites w)
  let names ← rowsNamed o words loops (swNames w)
  let k ← reads.foldlM SwatchWalk.read k
  let k ← writes.foldlM SwatchWalk.write k
  let k := { k with cycles := k.cycles + swCycles w + (if swOp w = 0x0E then loopSlack o words here loops else 0) }
  let k := if swOp w = 0x0A then { k with unsealed := k.unsealed.filter fun r => !names.contains r } else k
  if 2100 < k.cycles then none
  else if swOp w = 0x00 || swOp w = 0x10 then
    (if k.unsealed.isEmpty && k.rounds < 512 then some { k with cycles := 0, rounds := k.rounds + 1 } else none)
  else if swOp w = 0x0B && slice w 0 1 = 1 then
    some { k with rounds := 0, readFirst := [], written := [], liveIn := [],
                  before := (k.written.filter (1024 ≤ ·)).foldl (fun l r => setAdd r l) k.before }
  else some k

/-- The first word along the path, before it comes to word `stop`, that breaks R212 to R215; the path has at most `n`
words. -/
def firstBroken (o : PlaneOp) (words : List (BitVec 32)) (stop : Nat) (k : SwatchWalk) (here : Nat)
    (loops : List SwatchLoop) : Nat → Option Nat
  | 0 => some here
  | n + 1 =>
    if stop ≤ here then none
    else
      match k.step o words here loops with
      | none => some here
      | some k =>
        if swOp (words.getD here 0) = 0 then none
        else
          let x := swNext o words here loops
          firstBroken o words stop k x.1 x.2 n

/-- The first invalid word of a swatch under the actual widths (R212, R225): the path is followed up to the first word
that is invalid by itself. -/
def swatchInvalid (o : PlaneOp) (words : List (BitVec 32)) : Option Nat :=
  match firstInvalid o words [] 0 words.length with
  | some i => some ((firstBroken o words i SwatchWalk.start 0 [] (2 ^ 22)).getD i)
  | none => firstBroken o words words.length SwatchWalk.start 0 [] (2 ^ 22)

/-! ### Row operations -/

/-- A row by key. -/
def State.row (s : State) (k : Nat) : RowData := cellGet 0 s.rows k

/-- The state with a row written. -/
def State.setRow (s : State) (k : Nat) (v : RowData) : State := { s with rows := cellPut 0 s.rows k v }

/-- A plane of a subarray's residue latch: 0 and 1 the value's bits, 2 the bad bit (R211). -/
def State.latch (s : State) (sub j : Nat) : RowData := cellGet 0 s.latches (sub * 3 + j)

/-- The state with a plane of the latch written. -/
def State.setLatch (s : State) (sub j : Nat) (v : RowData) : State :=
  { s with latches := cellPut 0 s.latches (sub * 3 + j) v }

/-- What a row reference reads in a subarray. -/
def State.readRef (s : State) (o : PlaneOp) (words : List (BitVec 32)) (loops : List SwatchLoop) (sub ref : Nat) :
    RowData :=
  match rowOf o words loops ref with
  | some (.inr r) => s.row (rowKey sub r)
  | some (.inl true) => BitVec.allOnes 8192
  | _ => 0

/-- The state with a row reference written in a subarray. -/
def State.writeRef (s : State) (o : PlaneOp) (words : List (BitVec 32)) (loops : List SwatchLoop) (sub ref : Nat)
    (v : RowData) : State :=
  match rowOf o words loops ref with
  | some (.inr r) => s.setRow (rowKey sub r) v
  | _ => s

/-- The bitwise majority of three rows (R208). -/
def majority (x y z : RowData) : RowData := (x &&& y) ||| (x &&& z) ||| (y &&& z)

/-- The weight of a RACC (R211). -/
def raccWeight (o : PlaneOp) (w : BitVec 32) (bit : Nat) : Nat :=
  match slice w 15 3 with
  | 0 => 1
  | 1 => 2
  | 2 => 2 ^ bit % 3
  | 3 => (3 - 2 ^ bit % 3) % 3
  | _ => (3 - 2 ^ o.d.width % 3) % 3

/-- One added modulo 3 in the columns of `m`. -/
def addMod3 (v : RowData × RowData) (m : RowData) : RowData × RowData :=
  ((m &&& ~~~v.1 &&& ~~~v.2) ||| (~~~m &&& v.1), (m &&& v.1) ||| (~~~m &&& v.2))

/-- RACC on a subarray (R211). -/
def State.racc (s : State) (o : PlaneOp) (words : List (BitVec 32)) (here : Nat) (loops : List SwatchLoop)
    (sub : Nat) : State :=
  let w := words.getD here 0
  let m := s.readRef o words loops sub (swX w)
  let clear := slice w 14 1 == 1
  let v : RowData × RowData := if clear then (0, 0) else (s.latch sub 0, s.latch sub 1)
  let bad : RowData := if clear then 0 else s.latch sub 2
  let n := raccWeight o w ((refBit words loops (swX w)).getD 0)
  let v := (List.range n).foldl (fun v _ => addMod3 v m) v
  let prev := words.getD (here - 1) 0
  let pair := 0 < here && swOp prev == 0x0C && swX w / 64 == 5 && swX w % 2 == 1 && swX prev + 1 == swX w
  let bad := if pair then bad ||| (m &&& s.readRef o words loops sub (swX prev)) else bad
  ((s.setLatch sub 0 v.1).setLatch sub 1 v.2).setLatch sub 2 bad

/-- One column of the code that RDUMP writes: a bad column reads 1 in compute rows, 0 in the others. -/
def dumpRow (bad v : RowData) (ref : Nat) : RowData := if ref / 64 = 0 then v ||| bad else v &&& ~~~bad

/-- The effect of one word on one subarray, and what it adds to the carriage flag (R208, R211, R217). -/
def State.rowOp (s : State) (o : PlaneOp) (words : List (BitVec 32)) (here : Nat) (loops : List SwatchLoop)
    (sub : Nat) : State × Bool :=
  let w := words.getD here 0
  let rd := s.readRef o words loops sub
  let wr (s : State) (ref : Nat) (v : RowData) : State := s.writeRef o words loops sub ref v
  match swOp w with
  | 0x03 => (wr s (swX w) (rd (swY w)), false)
  | 0x04 =>
    let m := majority (rd (swX w)) (rd (swY w)) (rd (swZ w))
    (wr (wr (wr s (swX w) m) (swY w) m) (swZ w) m, false)
  | 0x05 => (wr s (swX w) (~~~rd (swY w)), false)
  | 0x06 => (wr s (swX w) (rd (swY w) <<< 1), false)
  | 0x07 => (wr s (swX w) (rd (swY w) >>> 1), false)
  | 0x08 => (wr s (swX w) 0, false)
  | 0x09 => (wr s (swX w) (BitVec.allOnes 8192), false)
  | 0x0B => (s, rd (swX w) != 0)
  | 0x0C => (s.racc o words here loops sub, false)
  | 0x0D =>
    let bad := s.latch sub 2
    let s' := wr (wr s (swX w) (dumpRow bad (s.latch sub 0) (swX w))) (swY w) (dumpRow bad (s.latch sub 1) (swY w))
    (s', bad != 0 && (swX w / 64 == 5 || swY w / 64 == 5))
  | _ => (s, false)

/-- The effect of one word on every subarray of a batch in lockstep (R206). -/
def State.rowOps (s : State) (o : PlaneOp) (words : List (BitVec 32)) (here : Nat) (loops : List SwatchLoop)
    (subs : List Nat) : State × Bool :=
  subs.foldl (fun x sub =>
    let r := x.1.rowOp o words here loops sub
    (r.1, x.2 || r.2)) (s, false)

end Sys2Proof.Machine
end

