-- ==== Sys2Proof/Machine/Csr.lean ====
section
/-!
DEFINITION. The CSR map and the six CSR instructions (R56 to R59, R156, R157, R297, R302, R303, R316, R317,
R339, R353, R354, R359, R365).
-/
namespace Sys2Proof.Machine

/-- How a CSR may be accessed. -/
inductive CsrAccess where
  | ro | rw | w1c | wo
deriving DecidableEq, Repr

/-- The map of R56, R302, R339, R353, R354 and R365: access and whether a stitch, and a guest, has it. Every
register of the map exists on a needle but those that `needleHas` excludes. -/
def csrMap (n : Nat) : Option (CsrAccess × Bool) :=
  match n with
  | 0x001 => some (.rw, true)
  | 0x002 => some (.rw, true)
  | 0x003 => some (.rw, true)
  | 0x008 => some (.ro, true)
  | 0x009 => some (.ro, true)
  | 0x00A => some (.rw, true)
  | 0x00B => some (.ro, true)
  | 0x00C => some (.ro, true)
  | 0x00D => some (.rw, true)
  | 0x00E => some (.ro, true)
  | 0x010 => some (.ro, false)
  | 0x011 => some (.ro, false)
  | 0x012 => some (.ro, false)
  | 0x013 => some (.ro, false)
  | 0x014 => some (.ro, false)
  | 0x015 => some (.ro, false)
  | 0x018 => some (.ro, true)
  | 0x019 => some (.ro, true)
  | 0x01A => some (.w1c, true)
  | 0x01B => some (.ro, true)
  | 0x020 => some (.rw, true)
  | 0x030 => some (.rw, false)
  | 0x031 => some (.rw, false)
  | 0x032 => some (.rw, false)
  | 0x033 => some (.rw, false)
  | 0x100 => some (.rw, false)
  | 0x101 => some (.rw, false)
  | 0x102 => some (.rw, false)
  | 0x103 => some (.rw, false)
  | 0x104 => some (.rw, false)
  | 0x105 => some (.rw, false)
  | 0x106 => some (.rw, false)
  | 0x107 => some (.w1c, false)
  | 0x108 => some (.rw, false)
  | 0x109 => some (.rw, false)
  | 0x10A => some (.rw, false)
  | 0x10B => some (.w1c, false)
  | 0x10C => some (.wo, false)
  | 0x10D => some (.ro, false)
  | 0x10E => some (.ro, false)
  | 0x10F => some (.rw, false)
  | 0x110 => some (.wo, false)
  | 0x111 => some (.ro, false)
  | 0x112 => some (.rw, false)
  | 0x113 => some (.w1c, false)
  | 0x114 => some (.ro, false)
  | 0x115 => some (.ro, false)
  | 0x116 => some (.ro, false)
  | 0x200 => some (.rw, false)
  | 0x201 => some (.rw, false)
  | 0x202 => some (.rw, false)
  | 0x203 => some (.rw, false)
  | 0x204 => some (.rw, false)
  | 0x205 => some (.rw, false)
  | _ => none

/-- srseed, vstart and alc are not a needle's (R56). -/
def needleHas (n : Nat) : Bool := n ≠ 0x003 && n ≠ 0x00A && n ≠ 0x00B

/-- The CSR exists for the context and its privilege suffices (R56, R297). -/
def State.csrAllowed (s : State) (n : Nat) : Bool :=
  match csrMap n with
  | none => false
  | some (_, every) =>
    (if s.kind = .needle then needleHas n else every) && n / 256 % 4 ≤ s.privOf s.cur

/-- SEW in bits (R57). -/
def sewOf (vt : BitVec 11) : Nat := 8 * 2 ^ (vt.toNat % 4)

/-- LMUL (R57). -/
def lmulOf (vt : BitVec 11) : Nat := 2 ^ (vt.toNat / 4 % 4)

/-- VLMAX = 4,096 ÷ SEW × LMUL (R56). -/
def vlmaxOf (vt : BitVec 11) : Nat := 4096 / sewOf vt * lmulOf vt

/-- The mailbox slots of a partition that the device has seen posted and that still hold state 1, those for S first (R366). -/
def State.postedMail (s : State) (p : Fin 16) : List Nat :=
  let l := (s.part p).mail.filter fun n => s.byte (mailKey p.val (64 * n)) == 1
  let toS (n : Nat) : Bool := s.byte (mailKey p.val (64 * n + 1)) == 0
  l.filter toS ++ l.filter fun n => !toS n

/-- sip.MB: a message for S has set it, and a slot of the partition still holds state 1 (R366). -/
def State.mailUp (s : State) (p : Fin 16) : Bool := (s.part p).posted && !(s.postedMail p).isEmpty

/-- What sip shows (R303, R366). -/
def State.sipOf (s : State) (c : Fin 12) : Nat :=
  let y := (s.ctxs.get c).sys
  let p := s.part s.corePart
  natOf y.sip + 2 * natOf (y.timer || y.stimecmp.toNat ≤ s.now) + 4 * natOf (!p.rejections.isEmpty) +
    8 * natOf (s.mailUp s.corePart) + 16 * natOf (!p.wdrep.isEmpty)

/-- What wdrep shows: the oldest report, and OVF (R303, R317). -/
def Part.report (p : Part) : Word :=
  (p.wdrep.head?.getD 0) ||| (if p.overflow then 1#64 <<< 60 else 0#64)

/-- dominfo (R365): membership, the module's number and the highest number. -/
def Part.domain (p : Part) : Word := p.dominfo

/-- trstat: busy while a command is queued or runs (R354). -/
def Part.status (p : Part) : Word := p.trstat ||| (if p.commands.isEmpty then 0#64 else 1#64 <<< 63)

/-- The value of a CSR (R56, R57, R302, R303). -/
def State.csrValue (s : State) (n : Nat) : Word :=
  let c := s.ctx
  let y := c.sys
  let p := s.part s.corePart
  match n with
  | 0x001 => zx c.fflags
  | 0x002 => zx c.frm
  | 0x003 => zx c.srseed
  | 0x008 => zx c.vl
  | 0x009 => zx c.vtype
  | 0x00A => zx c.vstart
  | 0x00B => zx (s.lanes s.cur)
  | 0x00C => BitVec.ofNat 64 (vlmaxOf c.vtype)
  | 0x00D => zx c.pvl
  | 0x00E => zx c.ldst
  | 0x010 => (c.levels.get 0).li
  | 0x011 => (c.levels.get 1).li
  | 0x012 => (c.levels.get 2).li
  | 0x013 => (c.levels.get 3).li
  | 0x014 => (c.levels.get 4).li
  | 0x015 => (c.levels.get 5).li
  | 0x018 => BitVec.ofNat 64 s.now
  | 0x019 => c.instret
  | 0x01A => zx c.ctxstat
  | 0x01B => zx (s.ident s.cur)
  | 0x020 => zx c.throwtmo
  | 0x030 => y.uevec
  | 0x031 => y.uepc
  | 0x032 => y.ucause
  | 0x033 => y.uinfo
  | 0x100 => y.sstat
  | 0x101 => y.svec
  | 0x102 => y.sepc
  | 0x103 => y.scause
  | 0x104 => y.sinfo
  | 0x105 => y.sscratch
  | 0x106 => zx y.sie
  | 0x107 => BitVec.ofNat 64 (s.sipOf s.cur)
  | 0x108 => y.stimecmp
  | 0x109 => y.ustat
  | 0x10A => BitVec.ofNat 64 p.wdctl
  | 0x10B => p.report
  | 0x10D => p.savebase
  | 0x10E => p.qbase
  | 0x10F => p.ptroot
  | 0x111 => p.status
  | 0x112 => p.migctl
  | 0x113 => p.migstat
  | 0x114 => p.gchunks
  | 0x115 => p.domain
  | 0x116 => p.mbox
  | 0x200 => y.mstat
  | 0x201 => y.mvec
  | 0x202 => y.mepc
  | 0x203 => y.mcause
  | 0x204 => y.minfo
  | 0x205 => y.mscratch
  | _ => 0

/-- A vector or epc register takes an even address below 2^55 (R303). -/
def addressOk (w : Word) : Bool := !w.getLsbD 0 && w.toNat < 2 ^ 55

/-- A value that a register's fields reserve (R57, R303, R353, R359, R396). -/
def State.csrReserved (s : State) (n : Nat) (w : Word) : Bool :=
  let pp := slice w 4 2
  match n with
  | 0x002 => 6 ≤ slice w 0 3
  | 0x030 => !addressOk w
  | 0x031 => !addressOk w
  | 0x100 => 2 ≤ pp
  | 0x101 => !addressOk w
  | 0x102 => !addressOk w
  | 0x10A => slice w 0 16 == 0 || 1000 < slice w 0 16
  | 0x10F =>
    slice w 52 12 ≠ 0 || slice w 0 16 ≠ 0 || slice w 40 8 ≠ 0 ||
      !s.ownsGeneral s.corePart (slice w 48 4) (slice w 16 24 * 65536)
  | 0x112 => 2 ≤ slice w 0 2 || 1000 < slice w 32 10 || (slice w 0 2 == 1 && !s.mgmt.accepted.getLsbD 2)
  | 0x200 => pp == 3
  | 0x201 => !addressOk w
  | 0x202 => !addressOk w
  | _ => false

/-- Bits `m` of a word that a register keeps. -/
def keepBits (w : Word) (m : Word) : Word := w &&& m

/-- A write to the executing context's own registers through their rules (R56 to R59, R303). -/
def Ctx.writeCsr (c : Ctx) (now : Nat) (n : Nat) (w : Word) : Ctx :=
  let y := c.sys
  match n with
  | 0x001 => { c with fflags := w.setWidth 5 }
  | 0x002 => { c with frm := w.setWidth 3 }
  | 0x003 => { c with srseed := if w.setWidth 32 = 0#32 then 1 else w.setWidth 32 }
  | 0x00A => { c with vstart := w.setWidth 12 }
  | 0x00D => { c with pvl := w.setWidth 32 }
  | 0x01A => { c with ctxstat := c.ctxstat &&& ~~~(w.setWidth 2) }
  | 0x020 => { c with throwtmo := if w.setWidth 16 = 0#16 then 1 else w.setWidth 16 }
  | 0x030 => { c with sys := { y with uevec := w } }
  | 0x031 => { c with sys := { y with uepc := w } }
  | 0x032 => { c with sys := { y with ucause := keepBits w 0xFFFF } }
  | 0x033 => { c with sys := { y with uinfo := w } }
  | 0x100 => { c with sys := { y with sstat := keepBits w 0xFFB0 } }
  | 0x101 => { c with sys := { y with svec := w } }
  | 0x102 => { c with sys := { y with sepc := w } }
  | 0x103 => { c with sys := { y with scause := keepBits w 0x1FFFF } }
  | 0x104 => { c with sys := { y with sinfo := w } }
  | 0x105 => { c with sys := { y with sscratch := w } }
  | 0x106 => { c with sys := { y with sie := w.setWidth 5 } }
  | 0x107 => { c with sys := { y with sip := y.sip && !w.getLsbD 0 } }
  | 0x108 => { c with sys := { y with stimecmp := w, timer := w.toNat ≤ now } }
  | 0x109 => { c with sys := { y with ustat := keepBits w 0xFF01 } }
  | 0x200 => { c with sys := { y with mstat := keepBits w 0xFFB0 } }
  | 0x201 => { c with sys := { y with mvec := w } }
  | 0x202 => { c with sys := { y with mepc := w } }
  | 0x203 => { c with sys := { y with mcause := keepBits w 0x1FFFF } }
  | 0x204 => { c with sys := { y with minfo := w } }
  | 0x205 => { c with sys := { y with mscratch := w } }
  | _ => c

/-- A write to a partition's register (R303, R316, R317, R353, R354, R359). -/
def Part.writeCsr (p : Part) (now : Nat) (n : Nat) (w : Word) : Part :=
  match n with
  | 0x10A => { p with wdctl := slice w 0 16 }
  | 0x10B => { p with wdrep := if bitOf w 63 then p.wdrep.drop 1 else p.wdrep,
                      overflow := p.overflow && !bitOf w 60 }
  | 0x10F => { p with ptroot := w }
  | 0x112 =>
    { p with migctl := keepBits w 0x3FFFFFFFFFF,
             halvedAt := if slice p.migctl 32 10 = slice w 32 10 then p.halvedAt else now }
  | 0x113 => { p with migstat := p.migstat &&& ~~~w }
  | _ => p

/-- A write of an ident to tend ends the frozen tile that holds the context (R339). -/
def writeTend (w : Word) : M Unit := do
  insideIdent w
  let s ← get
  match (s.slotNamed w.toNat).filter fun slot => (s.tileAt slot).any (·.frozen), s.savedNamed w.toNat with
  | some slot, _ => set (s.endTile slot true)
  | none, some e => set (s.endSaved e)
  | none, none =>
    match s.remoteNamed w.toNat with
    | some t => if t.frozen then set ((s.endRemote t).send (.tend (w.setWidth 16))) else reserved
    | none => reserved

/-- A write to trcmd reads the record and queues the command, at most 16 (R354). -/
def writeTrcmd (w : Word) : M Unit := do
  let v ← orNothing (do
    let v ← readRecord w 64 8
    generalRecord w 8
    pure v)
  let s ← get
  if 16 ≤ (s.part s.corePart).commands.length then fun s => .error .stall s
  else set (s.updPart s.corePart fun p => { p with commands := p.commands ++ [{ record := leBytes 64 v }] })

/-- A performed write of a CSR: reserved values are cause 0x02 with the CSR address (R56, R156). -/
def writeCsr (n : Nat) (w : Word) : M Unit := do
  let s ← get
  if s.csrReserved n w then trap 0x02 (BitVec.ofNat 64 n)
  else if n = 0x10C then writeTend w
  else if n = 0x110 then writeTrcmd w
  else set ((s.upd fun c => c.writeCsr s.now n w).updPart s.corePart fun p => p.writeCsr s.now n w)

/-- What a read of a CSR gives. The spec names no value for a write-only one (log 4). -/
def readCsr (n : Nat) : M Word := do
  let s ← get
  if csrMap n = some (.wo, false) then
    let d ← draw
    pure (Config.writeOnlyReads d)
  else pure (s.csrValue n)

/-- One CSR instruction: `writes` says whether the write is performed, `merge` forms its value from the
old one, `direct` tells CSRRW from the setting and clearing forms, which a W1C register refuses
(R156, R157). -/
def csrOp (direct writes : Bool) (d : BitVec 5) (n : BitVec 12) (merge : Word → Word) (s : State) :
    Host.Outcome State Fault Refusal :=
  settle (do
    let s ← get
    let kind := (csrMap n.toNat).map (·.1)
    if !s.csrAllowed n.toNat then illegal
    else if writes && kind = some .ro then illegal
    else if writes && !direct && kind = some .w1c then illegal
    else do
      let o ← if direct && d = 0 then pure 0 else readCsr n.toNat
      if writes then writeCsr n.toNat (merge o) else pure ()
      retireX 4 d o) s

/-- CSRRW: write X[rs1] (R156). -/
def execCsrrw (d a : BitVec 5) (c : BitVec 12) (s : State) : Host.Outcome State Fault Refusal :=
  csrOp true true d c (fun _ => s.ctx.rx a) s

/-- CSRRS: write o OR X[rs1] unless rs1 = 0 (R156). -/
def execCsrrs (d a : BitVec 5) (c : BitVec 12) (s : State) : Host.Outcome State Fault Refusal :=
  csrOp false (a != 0) d c (fun o => o ||| s.ctx.rx a) s

/-- CSRRC: write o AND NOT X[rs1] unless rs1 = 0 (R156). -/
def execCsrrc (d a : BitVec 5) (c : BitVec 12) (s : State) : Host.Outcome State Fault Refusal :=
  csrOp false (a != 0) d c (fun o => o &&& ~~~s.ctx.rx a) s

/-- CSRRWI: write the zero-extended uimm (R156). -/
def execCsrrwi (d u : BitVec 5) (c : BitVec 12) (s : State) : Host.Outcome State Fault Refusal :=
  csrOp true true d c (fun _ => zx u) s

/-- CSRRSI: write o OR uimm unless uimm = 0 (R156). -/
def execCsrrsi (d u : BitVec 5) (c : BitVec 12) (s : State) : Host.Outcome State Fault Refusal :=
  csrOp false (u != 0) d c (fun o => o ||| zx u) s

/-- CSRRCI: write o AND NOT uimm unless uimm = 0 (R156). -/
def execCsrrci (d u : BitVec 5) (c : BitVec 12) (s : State) : Host.Outcome State Fault Refusal :=
  csrOp false (u != 0) d c (fun o => o &&& ~~~zx u) s

end Sys2Proof.Machine
end

