-- ==== Sys2Proof/Machine/System.lean ====
section
/-!
DEFINITION. The system group of major 0 (R163, R252, R304 to R316, R353); CTXSV and CTXLD stand in Saves.lean.
-/
namespace Sys2Proof.Machine

/-- SVC and BRK: a trap whose resume address is the next instruction; they do not retire. On a guest they
are a guest fault of cause 0x0D (R306). -/
def softTrap (cause : BitVec 8) (code : BitVec 5) (s : State) : Host.Outcome State Fault Refusal :=
  .next (if s.kind = .guest then s.raise 0x0D s.ctx.pc else s.raiseAt cause (zx code) (s.ctx.pc + 4))

/-- SVC: cause 0x13 (R306). -/
def execSvc (c : BitVec 5) (s : State) : Host.Outcome State Fault Refusal := softTrap 0x13 c s

/-- BRK: cause 0x14 (R306). -/
def execBrk (c : BitVec 5) (s : State) : Host.Outcome State Fault Refusal := softTrap 0x14 c s

/-- The sequencer after a return: enabled at U outside the U handler (R305). -/
def Ctx.resequence (c : Ctx) : Ctx :=
  { c with seqOn := c.seqOn || (c.priv = 0 && !c.sys.ustat.getLsbD 0) }

/-- A trap return retires with record `ld` and goes on at `target`; it leaves T levels as a jump does
(R18, R305). -/
def State.comeBack (s : State) (f : Ctx → Ctx) (target : Word) (ld : BitVec 8) : State :=
  let t := s.tileOf s.cur
  s.upd fun c => { leaveLevels t target (f (c.retire ld)).resequence with pc := target, castEnd := none }

/-- A trap return to an odd address is cause 0x03 at the return (R125). -/
def evenReturn (target : Word) : M Unit := demand (target.toNat % 2 == 0) 0x03 target

/-- URET: from the U handler (R305). -/
def execUret (s : State) : Host.Outcome State Fault Refusal :=
  settle (do
    notGuest
    let s ← get
    let y := s.ctx.sys
    if s.kind ≠ .needle || s.ctx.priv ≠ 0 || !y.ustat.getLsbD 0 then illegal
    else do
      evenReturn y.uepc
      set (s.comeBack (fun c => { c with sys := { c.sys with ustat := c.sys.ustat &&& ~~~1#64 } })
        y.uepc ((y.ustat >>> 8).setWidth 8))) s

/-- What a return from level S or M leaves in ldst: SL where RL is set, else V = 0 (R305). -/
def returnRecord (status : Word) (ld : BitVec 8) : BitVec 8 :=
  if status.getLsbD 7 then (status >>> 8).setWidth 8 else ldNone ld

/-- SRET: to the privilege in sstat.PP at sepc (R305). -/
def execSret (s : State) : Host.Outcome State Fault Refusal :=
  settle (do
    needLevel 1
    let s ← get
    let y := s.ctx.sys
    evenReturn y.sepc
    set (s.comeBack (fun c => { c with priv := (y.sstat >>> 4).setWidth 2 }) y.sepc
      (returnRecord y.sstat s.ctx.ldst))) s

/-- MRET: to the privilege in mstat.PP at mepc (R305). -/
def execMret (s : State) : Host.Outcome State Fault Refusal :=
  settle (do
    needLevel 2
    let s ← get
    let y := s.ctx.sys
    evenReturn y.mepc
    set (s.comeBack (fun c => { c with priv := (y.mstat >>> 4).setWidth 2 }) y.mepc
      (returnRecord y.mstat s.ctx.ldst))) s

/-- The watchdog timer starts afresh with the window of now (R314, R316). -/
def State.rewind (s : State) (c : Fin 12) : State :=
  s.updAt c fun x => { x with timer := 0, warned := 0, window := (s.part s.corePart).wdctl }

/-- The source that a context's 0x12 carries: 0xFF for the needle, else the stitch number (R315). -/
def State.warnSource (s : State) (c : Fin 12) : BitVec 8 :=
  if kindOf c = .needle then 0xFF else BitVec.ofNat 8 (s.stitchNo c)

/-- PMARK: the context is live for this window, and its pending 0x12 is cancelled (R163, R314, R316). -/
def execPmark (s : State) : Host.Outcome State Fault Refusal :=
  let c := s.cur
  let t := (s.rewind c).updAt (if kindOf c = .guest then c else ctxIx (s.slotOf c)) fun n =>
    { n with events := n.events.filter fun e => !(e.code == 0x12#8 && e.src == s.warnSource c) }
  .next (t.done 4)

/-- PHASE: the phase marker of the running launch, where the feature is accepted (R306, R389). -/
def execPhase (a : BitVec 5) (s : State) : Host.Outcome State Fault Refusal :=
  settle (do
    notGuest
    let s ← get
    match s.launchOf s.cur with
    | some l =>
      if s.mgmt.accepted.getLsbD 0 then
        set (s.updLaunch l fun x => { x with phase := (s.ctx.rx a).setWidth 16 })
      else pure ()
    | none => pure ()
    retire 4) s

/-- WFI: stalls until an enabled interrupt or a machine check is pending (R307). -/
def execWfi (s : State) : Host.Outcome State Fault Refusal :=
  settle (do
    needLevel 1
    let s ← get
    waitFor (Nat.land (s.sipOf s.cur) s.ctx.sys.sie.toNat ≠ 0 ||
      s.checks.any fun m => m.slot == numOf s.cur)
    retire 4) s

/-- The addresses that a leaf covers include `va`, the leaf standing at page `page` (R308, R350). -/
def leafCovers (e page va : Nat) : Bool :=
  let n := if bitsAt e 1 2 == 2 then 8192 else runLength e
  page / n == va / 65536 / n

/-- The TLB entries of a partition that a test names are dropped. Every access that used one has been performed: its stores
are visible, and what was read ahead through it is forgotten (R308). -/
def State.shootdown (s : State) (p : Fin 16) (hit : TlbEntry → Bool) : State :=
  let used (a : Nat) : Bool := s.tlb.any fun t => t.part == p.val && hit t && t.covers p a
  let forget (c : Ctx) : Ctx := { c with early := c.early.filter fun e => !used e.addr }
  let t := s.settleStores fun e => used e.addr && (12 ≤ e.ctx || s.partOf (ctxIx e.ctx) == p)
  { t with
    tlb := t.tlb.filter fun t => !(t.part == p.val && hit t),
    ctxs := Vector.ofFn fun n => if s.partOf n == p then forget (t.ctxs.get n) else t.ctxs.get n,
    savedTiles := t.savedTiles.map fun e => { e with ctxs := e.ctxs.map fun x => (x.1, forget x.2) } }

/-- TLBINV: the needle's stores are made visible at device scope, and every entry of the partition that translates X[rs1] goes
(R308, R353). -/
def execTlbinv (a : BitVec 5) (s : State) : Host.Outcome State Fault Refusal :=
  settle (do
    needLevel 1
    let s ← get
    let va := (s.ctx.rx a).toNat
    release 4
    modS fun s => s.shootdown s.corePart fun t => leafCovers t.entry.toNat t.page va
    retire 4) s

/-- TLBINVA: so does every entry of the partition, and a written ptroot is in force (R308, R353). -/
def execTlbinva (s : State) : Host.Outcome State Fault Refusal :=
  settle (do
    needLevel 1
    release 4
    modS fun s => (s.shootdown s.corePart fun _ => true).updPart s.corePart fun x => { x with liveRoot := x.ptroot }
    retire 4) s

/-- An ident operand that names a needle or a stitch; another kind is cause 0x02 with the operand. -/
def contextOperand (id : Word) : M Unit := do
  insideIdent id
  demand (identKind id.toNat ≤ 1) 0x02 id

/-- LNSET: the lane cap of a core (R311). -/
def execLnset (d a : BitVec 5) (s : State) : Host.Outcome State Fault Refusal :=
  settle (do
    needLevel 1
    let s ← get
    let id := s.ctx.rx a
    let cap := (s.ctx.rx d).toNat
    insideIdent id
    coreOperand id
    if cap = 0 || 8 < cap then reserved else pure ()
    if identCore id.toNat = s.coreId then
      set ({ s with laneCap := BitVec.ofNat 4 cap }.reshare)
    else set (s.send (.laneCap (identCore id.toNat) cap))
    retire 4) s

/-- A tile of this core is asked to stop at its pre-emption points and stay frozen (R309). -/
def State.freezeTile (s : State) (slot : Nat) : State :=
  match s.tileAt slot with
  | none => s
  | some t => s.setTile slot (some { t with stopping := true, kept := true })

/-- The tile of another core that an ident names is asked to freeze, once, or thaws (R309). -/
def State.freezeRemote (s : State) (id : Nat) (t : RemoteTile) (thaw : Bool) : State :=
  if thaw then
    (if t.frozen then
      { s with remote := s.remote.map fun r => if r == t then { r with frozen := false, asked := false } else r }.send
        (.freeze (BitVec.ofNat 16 id) true)
    else s)
  else if t.asked || t.frozen then s
  else { s with remote := s.remote.map fun r => if r == t then { r with asked := true } else r }.send
    (.freeze (BitVec.ofNat 16 id) false)

/-- A frozen tile that is off the core thaws: it may come back (R309, R344). -/
def State.thawSaved (s : State) (e : SavedTile) : State :=
  { s with savedTiles := s.savedTiles.map fun x =>
      if x == e then { e with tile := { e.tile with kept := false, watchdog := false } } else x }

/-- FREEZE: op 0 freezes a tile and waits until it is frozen, op 1 thaws it; a context of no tile is left
as it is (R309, R316). -/
def execFreeze (d a : BitVec 5) (s : State) : Host.Outcome State Fault Refusal :=
  settle (do
    needLevel 1
    let s ← get
    let id := s.ctx.rx a
    contextOperand id
    let saved := s.savedNamed id.toNat
    match s.slotNamed id.toNat with
    | some slot =>
      if slot = numOf s.cur then reserved
      else
        match s.tileAt slot with
        | none => retire 4
        | some t =>
          if d ≠ 0 && !t.frozen && saved.isSome then do
            set ((saved.map s.thawSaved).getD s)
            retire 4
          else if d = 0 then do
            set (s.freezeTile slot)
            waitFor t.frozen
            retire 4
          else do
            if t.frozen then set (s.setTile slot (some { t with stopping := false, watchdog := false, kept := false }))
            else pure ()
            retire 4
    | none =>
      match saved, s.remoteNamed id.toNat with
      | some e, _ => do
        set (if d = 0 then s else s.thawSaved e)
        retire 4
      | none, none => retire 4
      | none, some t => do
        set (s.freezeRemote id.toNat t (d ≠ 0))
        waitFor (d ≠ 0 || t.frozen)
        retire 4) s

/-- IPI: bit 0 of sip on the needle named (R312). -/
def execIpi (a : BitVec 5) (s : State) : Host.Outcome State Fault Refusal :=
  settle (do
    needLevel 1
    let s ← get
    let id := s.ctx.rx a
    insideIdent id
    demand (identKind id.toNat == 0 && identNum id.toNat < 2) 0x02 id
    let who := zx (s.ident s.cur)
    match s.slotNamed id.toNat with
    | some slot =>
      set (s.updAt (ctxIx slot) fun c => { c with sys := { c.sys with sip := true, ipiFrom := who } })
    | none =>
      if (s.remoteNamed id.toNat).isSome then set (s.send (.ipi (id.setWidth 16))) else pure ()
    retire 4) s

/-- Another core is reset: its tiles end early (R313). -/
def State.resetRemote (s : State) (core : Nat) : State :=
  ((s.remote.filter fun t => t.core == core).foldl State.endRemote s).send (.coreReset core)

/-- CRESET: the core X[rs1] of any partition is reset; the core that executes ends its own needle (R313). -/
def execCreset (a : BitVec 5) (s : State) : Host.Outcome State Fault Refusal :=
  settle (do
    needLevel 2
    let s ← get
    let id := s.ctx.rx a
    coreOperand id
    if identCore id.toNat = s.coreId then set s.resetCore
    else do
      set (s.resetRemote (identCore id.toNat))
      retire 4) s

/-- MCREC: the 64-byte record at X[rs1] goes to the event log, its sequence number to X[rd] (R313, R381). -/
def execMcrec (d a : BitVec 5) (s : State) : Host.Outcome State Fault Refusal :=
  settle (do
    needLevel 2
    let c ← getC
    let v ← orNothing (readWords (c.rx a) 8)
    let s ← get
    set (s.appendLog ((leBytes 64 v).drop 8))
    retireX 4 d (BitVec.ofNat 64 s.mgmt.nextSeq)) s

end Sys2Proof.Machine
end

