-- ==== Sys2Proof/Machine/Int.lean ====
section
/-!
DEFINITION. Integer arithmetic of majors 1 to 3 and the long constants (R132, R142 to R146, R72).
-/
namespace Sys2Proof.Machine

/-- Division truncated towards zero with the corner cases of R72, on `n`-bit signed patterns. -/
def sdiv (n a b : Nat) : Nat :=
  if b % 2 ^ n = 0 then 2 ^ n - 1 else wrapTo n ((sintOf n a).tdiv (sintOf n b))

/-- The remainder with the sign of the dividend and the corner cases of R72. -/
def srem (n a b : Nat) : Nat :=
  if b % 2 ^ n = 0 then a % 2 ^ n else wrapTo n ((sintOf n a).tmod (sintOf n b))

/-- Unsigned quotient with the corner case of R72. -/
def udiv (n a b : Nat) : Nat := if b % 2 ^ n = 0 then 2 ^ n - 1 else a % 2 ^ n / (b % 2 ^ n)

/-- Unsigned remainder with the corner case of R72. -/
def urem (n a b : Nat) : Nat := if b % 2 ^ n = 0 then a % 2 ^ n else a % 2 ^ n % (b % 2 ^ n)

/-- The low six bits of a shift amount (R144). -/
def shamt (b : Word) : Nat := b.toNat % 64

/-- Leading zero bits, counted from bit `n - 1` down (R144). -/
def leadZeros (a : Word) : Nat → Nat
  | 0 => 0
  | n + 1 => if a.getLsbD n then 0 else leadZeros a n + 1

/-- Trailing zero bits from bit `i`, over `n` bits (R144). -/
def trailZeros (a : Word) (i : Nat) : Nat → Nat
  | 0 => 0
  | n + 1 => if a.getLsbD i then 0 else trailZeros a (i + 1) n + 1

/-- One bits among the low `n` (R144). -/
def onesOf (a : Word) : Nat → Nat
  | 0 => 0
  | n + 1 => onesOf a n + natOf (a.getLsbD n)

/-- 1 for true, as a word. -/
def boolWord (b : Bool) : Word := if b then 1 else 0

/-- The result of a major-1 instruction on X[rs1] and X[rs2]: it retires and writes X[rd] (R142, R143). -/
def aluRR (f : Word → Word → Word) (d a b : BitVec 5) (s : State) : Host.Outcome State Fault Refusal :=
  .next (s.doneX 4 d (f (s.ctx.rx a) (s.ctx.rx b)))

/-- The result of an instruction on X[rs1] and a constant (R145). -/
def aluRI (f : Word → Word → Word) (d a : BitVec 5) (i : Word) (s : State) :
    Host.Outcome State Fault Refusal :=
  .next (s.doneX 4 d (f (s.ctx.rx a) i))

/-- a << b[5:0] (R144). -/
def opSll (a b : Word) : Word := a <<< shamt b
/-- a >> b[5:0], zero-filled (R144). -/
def opSrl (a b : Word) : Word := a >>> shamt b
/-- a >> b[5:0], filled with copies of a[63] (R144). -/
def opSra (a b : Word) : Word := a.sshiftRight (shamt b)
/-- Signed less than (R144). -/
def opSlt (a b : Word) : Word := boolWord (a.slt b)

/-- ADD: a + b (R144). -/
def execAdd (d a b : BitVec 5) (s : State) : Host.Outcome State Fault Refusal := aluRR (fun a b => a + b) d a b s

/-- SUB: a − b (R144). -/
def execSub (d a b : BitVec 5) (s : State) : Host.Outcome State Fault Refusal := aluRR (fun a b => a - b) d a b s

/-- AND: a AND b (R144). -/
def execAnd (d a b : BitVec 5) (s : State) : Host.Outcome State Fault Refusal := aluRR (fun a b => a &&& b) d a b s

/-- OR: a OR b (R144). -/
def execOr (d a b : BitVec 5) (s : State) : Host.Outcome State Fault Refusal := aluRR (fun a b => a ||| b) d a b s

/-- XOR: a XOR b (R144). -/
def execXor (d a b : BitVec 5) (s : State) : Host.Outcome State Fault Refusal := aluRR (fun a b => a ^^^ b) d a b s

/-- SLL: a << b[5:0] (R144). -/
def execSll (d a b : BitVec 5) (s : State) : Host.Outcome State Fault Refusal := aluRR opSll d a b s

/-- SRL: a >> b[5:0], zeros (R144). -/
def execSrl (d a b : BitVec 5) (s : State) : Host.Outcome State Fault Refusal := aluRR opSrl d a b s

/-- SRA: a >> b[5:0], copies of a[63] (R144). -/
def execSra (d a b : BitVec 5) (s : State) : Host.Outcome State Fault Refusal := aluRR opSra d a b s

/-- SLT: s(a) < s(b) (R144). -/
def execSlt (d a b : BitVec 5) (s : State) : Host.Outcome State Fault Refusal := aluRR opSlt d a b s

/-- SLTU: u(a) < u(b) (R144). -/
def execSltu (d a b : BitVec 5) (s : State) : Host.Outcome State Fault Refusal := aluRR (fun a b => boolWord (a.ult b)) d a b s

/-- MIN: signed minimum (R144). -/
def execMin (d a b : BitVec 5) (s : State) : Host.Outcome State Fault Refusal := aluRR (fun a b => if a.slt b then a else b) d a b s

/-- MAX: signed maximum (R144). -/
def execMax (d a b : BitVec 5) (s : State) : Host.Outcome State Fault Refusal := aluRR (fun a b => if a.slt b then b else a) d a b s

/-- MINU: unsigned minimum (R144). -/
def execMinu (d a b : BitVec 5) (s : State) : Host.Outcome State Fault Refusal := aluRR (fun a b => if a.ult b then a else b) d a b s

/-- MAXU: unsigned maximum (R144). -/
def execMaxu (d a b : BitVec 5) (s : State) : Host.Outcome State Fault Refusal := aluRR (fun a b => if a.ult b then b else a) d a b s

/-- ANDN: a AND NOT b (R144). -/
def execAndn (d a b : BitVec 5) (s : State) : Host.Outcome State Fault Refusal := aluRR (fun a b => a &&& ~~~b) d a b s

/-- ORN: a OR NOT b (R144). -/
def execOrn (d a b : BitVec 5) (s : State) : Host.Outcome State Fault Refusal := aluRR (fun a b => a ||| ~~~b) d a b s

/-- MUL: (a × b) mod 2^64 (R144). -/
def execMul (d a b : BitVec 5) (s : State) : Host.Outcome State Fault Refusal := aluRR (fun a b => a * b) d a b s

/-- MULH: (s(a) × s(b)) >> 64 (R144). -/
def execMulh (d a b : BitVec 5) (s : State) : Host.Outcome State Fault Refusal := aluRR (fun a b => BitVec.ofInt 64 (a.toInt * b.toInt / 2 ^ 64)) d a b s

/-- MULHU: (u(a) × u(b)) >> 64 (R144). -/
def execMulhu (d a b : BitVec 5) (s : State) : Host.Outcome State Fault Refusal := aluRR (fun a b => BitVec.ofNat 64 (a.toNat * b.toNat / 2 ^ 64)) d a b s

/-- MULHSU: (s(a) × u(b)) >> 64 (R144). -/
def execMulhsu (d a b : BitVec 5) (s : State) : Host.Outcome State Fault Refusal := aluRR (fun a b => BitVec.ofInt 64 (a.toInt * (b.toNat : Int) / 2 ^ 64)) d a b s

/-- DIV: signed quotient, R72 (R144). -/
def execDiv (d a b : BitVec 5) (s : State) : Host.Outcome State Fault Refusal := aluRR (fun a b => BitVec.ofNat 64 (sdiv 64 a.toNat b.toNat)) d a b s

/-- DIVU: unsigned quotient, R72 (R144). -/
def execDivu (d a b : BitVec 5) (s : State) : Host.Outcome State Fault Refusal := aluRR (fun a b => BitVec.ofNat 64 (udiv 64 a.toNat b.toNat)) d a b s

/-- REM: signed remainder, R72 (R144). -/
def execRem (d a b : BitVec 5) (s : State) : Host.Outcome State Fault Refusal := aluRR (fun a b => BitVec.ofNat 64 (srem 64 a.toNat b.toNat)) d a b s

/-- REMU: unsigned remainder, R72 (R144). -/
def execRemu (d a b : BitVec 5) (s : State) : Host.Outcome State Fault Refusal := aluRR (fun a b => BitVec.ofNat 64 (urem 64 a.toNat b.toNat)) d a b s

/-- ROL: a rotated left by b[5:0] (R144). -/
def execRol (d a b : BitVec 5) (s : State) : Host.Outcome State Fault Refusal := aluRR (fun a b => a.rotateLeft (shamt b)) d a b s

/-- ROR: a rotated right by b[5:0] (R144). -/
def execRor (d a b : BitVec 5) (s : State) : Host.Outcome State Fault Refusal := aluRR (fun a b => a.rotateRight (shamt b)) d a b s

/-- CLZ: leading zero bits of a (R144). -/
def execClz (d a : BitVec 5) (s : State) : Host.Outcome State Fault Refusal :=
  aluRI (fun a _ => BitVec.ofNat 64 (leadZeros a 64)) d a 0 s

/-- CTZ: trailing zero bits of a (R144). -/
def execCtz (d a : BitVec 5) (s : State) : Host.Outcome State Fault Refusal :=
  aluRI (fun a _ => BitVec.ofNat 64 (trailZeros a 0 64)) d a 0 s

/-- POPC: one bits of a (R144). -/
def execPopc (d a : BitVec 5) (s : State) : Host.Outcome State Fault Refusal :=
  aluRI (fun a _ => BitVec.ofNat 64 (onesOf a 64)) d a 0 s

/-- ADDI: a + i, i the sign-extended imm12 (R145). -/
def execAddi (d a : BitVec 5) (im : BitVec 12) (s : State) : Host.Outcome State Fault Refusal :=
  aluRI (fun a i => a + i) d a (sx im) s

/-- ANDI: a AND i, i the sign-extended imm12 (R145). -/
def execAndi (d a : BitVec 5) (im : BitVec 12) (s : State) : Host.Outcome State Fault Refusal :=
  aluRI (fun a i => a &&& i) d a (sx im) s

/-- ORI: a OR i, i the sign-extended imm12 (R145). -/
def execOri (d a : BitVec 5) (im : BitVec 12) (s : State) : Host.Outcome State Fault Refusal :=
  aluRI (fun a i => a ||| i) d a (sx im) s

/-- XORI: a XOR i, i the sign-extended imm12 (R145). -/
def execXori (d a : BitVec 5) (im : BitVec 12) (s : State) : Host.Outcome State Fault Refusal :=
  aluRI (fun a i => a ^^^ i) d a (sx im) s

/-- SLTI: s(a) < s(i), i the sign-extended imm12 (R145). -/
def execSlti (d a : BitVec 5) (im : BitVec 12) (s : State) : Host.Outcome State Fault Refusal :=
  aluRI opSlt d a (sx im) s

/-- SLLI: a shifted by imm12[5:0] (R145). -/
def execSlli (d a : BitVec 5) (h : BitVec 6) (s : State) : Host.Outcome State Fault Refusal :=
  aluRI opSll d a (zx h) s

/-- SRLI: a shifted by imm12[5:0] (R145). -/
def execSrli (d a : BitVec 5) (h : BitVec 6) (s : State) : Host.Outcome State Fault Refusal :=
  aluRI opSrl d a (zx h) s

/-- SRAI: a shifted by imm12[5:0] (R145). -/
def execSrai (d a : BitVec 5) (h : BitVec 6) (s : State) : Host.Outcome State Fault Refusal :=
  aluRI opSra d a (zx h) s

/-- LIH: sign-extend(imm19) × 4,096 (R146). -/
def execLih (d : BitVec 5) (im : BitVec 19) (s : State) : Host.Outcome State Fault Refusal :=
  .next (s.doneX 4 d (sx im * 4096))

/-- ADDPC: pc + sign-extend(imm19) × 4,096 (R146). -/
def execAddpc (d : BitVec 5) (im : BitVec 19) (s : State) : Host.Outcome State Fault Refusal :=
  .next (s.doneX 4 d (s.ctx.pc + sx im * 4096))

/-- LIX: the sign-extended payload[48:0] (R132). -/
def execLix (a : BitVec 5) (im : BitVec 49) (s : State) : Host.Outcome State Fault Refusal :=
  .next (s.doneX 8 a (sx im))

/-- LIXH: x(a)[63:48] = payload[15:0], x(a)[47:0] unchanged (R132). -/
def execLixh (a : BitVec 5) (im : BitVec 16) (s : State) : Host.Outcome State Fault Refusal :=
  .next (s.doneX 8 a (((s.ctx.rx a).setWidth 48).setWidth 64 ||| zx im <<< 48))

end Sys2Proof.Machine
end

