-- ==== Sys2Proof/Machine/Flags.lean ====
section
/-!
DEFINITION. Flags and rounding as instructions meet them: the sticky flags, the mode a rounding field
selects, and the draws of stochastic rounding (R57, R66 to R70).
-/
namespace Sys2Proof.Machine

/-- Sticky flags gain what an instruction raised (R57, R70). -/
def Ctx.raiseFlags (c : Ctx) (f : BitVec 5) : Ctx := { c with fflags := c.fflags ||| f }

/-- fflags gains `f`. -/
def raiseFlags (f : BitVec 5) : M Unit := modC fun c => c.raiseFlags f

/-- The mode that a rounding field selects: 0b111 takes frm (R66). -/
def Ctx.roundCode (c : Ctx) (r : BitVec 3) : BitVec 3 := if r = 7 then c.frm else r

/-- One draw: the generator steps and its new state is the draw (R67). -/
def drawBits : M Nat := do
  let c ← getC
  modC fun c => { c with srseed := rsrStep c.srseed }
  pure (rsrStep c.srseed).toNat

/-- The rounding of one value under a mode code: RSR takes a draw (R68, R69). -/
def roundingOf (code : BitVec 3) : M RMode := do
  if code = 5 then
    let u ← drawBits
    pure { code := 5, u := u }
  else pure { code := code.toNat, u := 0 }

/-- The rounding of a scalar instruction. A needle has no generator: RSR is cause 0x01 (R69, R153). -/
def scalarRounding (r : BitVec 3) : M RMode := do
  let c ← getC
  let s ← get
  if c.roundCode r = 5 && s.kind = .needle then illegal else roundingOf (c.roundCode r)

/-- A reduction's mode is frm, RSR taken as RNE (R76). -/
def Ctx.treeMode (c : Ctx) : RMode := if c.frm = 5 then rne else { code := c.frm.toNat, u := 0 }

end Sys2Proof.Machine
end

