-- ==== Sys2Proof/Machine/VecCore.lean ====
section
/-!
DEFINITION. What vector instructions share: operand groups, landings, group and tag checks, streams as
operands, the element loop, masks, high-water marks and retirement (R41 to R48, R165 to R168, R260, R264
to R267).
-/
namespace Sys2Proof.Machine

/-! ### Operand groups -/

/-- An operand group: first register, registers spanned, element width (R166, R167). -/
structure Grp where
  reg : Nat
  emul : Nat
  eew : Nat
deriving DecidableEq, Repr

/-- The registers of a group. -/
def Grp.regs (g : Grp) : List Nat := (span g.reg g.emul).filter (· < 32)

/-- The elements that a group holds (R7). -/
def Grp.length (g : Grp) : Nat := g.emul * (4096 / g.eew)

/-- The number of the group's register is a multiple of its EMUL (R167). -/
def Grp.aligned (g : Grp) : Bool := g.reg % g.emul == 0

/-- The groups share a register (R167). -/
def Grp.meets (a b : Grp) : Bool := a.reg < b.reg + b.emul && b.reg < a.reg + a.emul

/-- A vector register by number. -/
def Ctx.vr (c : Ctx) (n : Nat) : VReg := c.v.get (Fin.ofNat 32 n)

/-- A vector register changed. -/
def Ctx.updV (c : Ctx) (n : Nat) (f : VReg → VReg) : Ctx :=
  { c with v := c.v.set (Fin.ofNat 32 n).val (f (c.vr n)) (Fin.ofNat 32 n).isLt }

/-- Every register of a list changed by its place in the list. -/
def Ctx.updVs (c : Ctx) (rs : List Nat) (f : Nat → VReg → VReg) : Ctx :=
  rs.zipIdx.foldl (fun c p => c.updV p.1 (f p.2)) c

/-- SEW, LMUL and the group at vtype that starts at a register. -/
def Ctx.sew (c : Ctx) : Nat := sewOf c.vtype
def Ctx.lmul (c : Ctx) : Nat := lmulOf c.vtype
def Ctx.grp (c : Ctx) (r : BitVec 5) : Grp := { reg := r.toNat, emul := c.lmul, eew := c.sew }

/-- A guest's registers hold 64 elements (R38, R56); VLMAX. -/
def State.vlmax (s : State) : Nat := if s.kind = .guest then 64 else vlmaxOf s.ctx.vtype

/-- Elements of width `eew` in one register of the context. -/
def State.perReg (s : State) (eew : Nat) : Nat := if s.kind = .guest then min 64 (4096 / eew) else 4096 / eew

/-- The fields of vtype (R57). -/
def Ctx.vfmt (c : Ctx) : Nat := slice c.vtype 7 4
def Ctx.maskZero (c : Ctx) : Bool := slice c.vtype 6 1 == 1
def Ctx.tailKeep (c : Ctx) : Bool := slice c.vtype 4 2 == 0

/-- SEW of a tag's width code (R41). -/
def widthOf (w : BitVec 2) : Nat := 8 * 2 ^ w.toNat

/-- The width code of a width in bits (R41). -/
def widthCode (n : Nat) : BitVec 2 := if n = 8 then 0 else if n = 16 then 1 else if n = 32 then 2 else 3

/-- Bit i of mask k; k0 reads as all ones (R48). -/
def Ctx.kbit (c : Ctx) (k : BitVec 3) (i : Nat) : Bool := k == 0 || (c.k.get k.toFin).getLsbD i

/-- A mask as a number; k0 reads as all ones (R48). -/
def Ctx.kval (c : Ctx) (k : BitVec 3) : MData := if k = 0 then BitVec.allOnes 4096 else c.k.get k.toFin

/-! ### Elements -/

/-- Element i of a group (R7). -/
def Ctx.elem (c : Ctx) (g : Grp) (i : Nat) : Nat :=
  slice (c.vr (g.reg + i * g.eew / 4096)).data (i * g.eew % 4096) g.eew

/-- `n` rounded up to a multiple of `g`. -/
def roundUp (n g : Nat) : Nat := (n + (g - 1)) / g * g

/-- A register with one element written: the high-water mark covers its element group, the register is
dirty, its link-full bit clear (R44, R45, R256). -/
def VReg.putElem (r : VReg) (lo n v : Nat) : VReg :=
  { r with data := splice r.data lo n v,
           hwm := max r.hwm (min 512 (roundUp (lo / 8 + n / 8) (2 * n))), dirty := true, link := false }

/-- Element i of a group written. -/
def Ctx.putElem (c : Ctx) (g : Grp) (i v : Nat) : Ctx :=
  c.updV (g.reg + i * g.eew / 4096) fun r => r.putElem (i * g.eew % 4096) g.eew v

/-- A register at completion of a write: `cnt` elements below vl lie in it (R42, R44). -/
def VReg.close (r : VReg) (keep : Bool) (fmt : Nat) (eew cnt : Nat) : VReg :=
  let e := cnt * eew / 8
  let top := min 512 (roundUp e (2 * eew))
  { r with data := if keep then r.data else keepLow r.data (8 * e),
           hwm := if keep then max r.hwm top else top,
           fmt := BitVec.ofNat 4 fmt, width := widthCode eew, dirty := true, link := false }

/-- A destination group at completion, `vl` elements written (R42, R44). -/
def Ctx.close (c : Ctx) (g : Grp) (fmt vl : Nat) : Ctx :=
  c.updVs g.regs fun j r => r.close c.tailKeep fmt g.eew (min (vl - j * (4096 / g.eew)) (4096 / g.eew))

/-! ### Before an instruction's own checks -/

/-- A landed register renamed into place (R260). -/
def VReg.land (r : VReg) : VReg :=
  match r.landed with
  | none => r
  | some l => { data := l.img.data, fmt := l.img.fmt, width := l.img.width, hwm := l.img.hwm,
                dirty := true, link := false, landed := none }

/-- The landed groups that have a named register are renamed whole (R260). -/
def Ctx.land (c : Ctx) (named : List Nat) : Ctx :=
  named.foldl (fun c n =>
    match (c.vr n).landed with
    | none => c
    | some l => c.updVs (span l.first l.count) fun _ r => r.land) c

/-- An instruction that names vector registers begins: landed groups are renamed, once. Run again after a stall or a
pre-emption it has begun, and what lands meanwhile is for a later one (R260). -/
def landNamed (named : List Nat) : M Unit :=
  modC fun c => if c.begun then c else { c.land (named.filter (· < 32)) with begun := true }

/-- A vector instruction that names registers: never on a needle (R38); a stitch without lanes waits
(R28); landed groups are renamed (R260). -/
def vecBegin (named : List Nat) : M Unit := do
  notNeedle
  let s ← get
  if (s.kind = .stitch && s.lanes s.cur = 0) || s.mgmt.clamp then fun s => .error .stall s
  else landNamed named

/-- Cause 0x01 with the instruction bits unless the condition holds (R167). -/
def legal (ok : Bool) : M Unit := if ok then pure () else illegal

/-- Cause 0x06 with the instruction bits: no meaning for the sources' class (R136 step 7, R170). -/
def noClass : M α := fun s => .error (.trap 0x06#8 s.ir) s

/-- An instruction that changes width is no guest's (R167, R281). -/
def widthChange : M Unit := notGuest

/-! ### Streams as operands -/

/-- The slot bound to a register. -/
def Ctx.slotOf (c : Ctx) (reg : Nat) : Option (Nat × Stream) :=
  (List.range 8).findSome? fun n =>
    match c.sq.get (Fin.ofNat 8 n) with
    | some q => if q.reg.toNat = reg then some (n, q) else none
    | none => none

/-- A stream slot changed. -/
def Ctx.updSq (c : Ctx) (n : Nat) (f : Option Stream → Option Stream) : Ctx :=
  { c with sq := c.sq.set (Fin.ofNat 8 n).val (f (c.sq.get (Fin.ofNat 8 n))) (Fin.ofNat 8 n).isLt }

/-- The elements of a pattern (R264). -/
def Stream.total (q : Stream) : Nat := (q.levels.map (·.1)).foldl (· * ·) 1

/-- The offset of element e over levels (R264). -/
def streamOffset : List (Nat × Int) → Nat → Int
  | [], _ => 0
  | l :: t, e => (e % l.1 : Nat) * l.2 + streamOffset t (e / l.1)

/-- The address of stream element e (R264). -/
def Stream.addr (q : Stream) (e : Nat) : Word := BitVec.ofInt 64 ((q.base : Int) + streamOffset q.levels e)

/-- The element size of a stream in bytes (R263). -/
def Stream.size (q : Stream) : Nat := 2 ^ q.esz.toNat

/-- The checks of a group against the stream slots: a bound register after the first, the wrong direction,
another element size, a pattern at its end (R267). -/
def streamCheck (dest : Bool) (g : Grp) : M Unit := do
  let c ← getC
  match g.regs.tail.find? fun r => (c.slotOf r).isSome with
  | some r => trap 0x08 (BitVec.ofNat 64 r)
  | none =>
    match c.slotOf g.reg with
    | none => pure ()
    | some (n, q) =>
      if q.store ≠ dest || 8 * q.size ≠ g.eew then trap 0x08 (BitVec.ofNat 64 g.reg)
      else if 0 < c.vl.toNat && q.total ≤ q.pos then trap 0x08 (BitVec.ofNat 64 n)
      else pure ()

/-- No register of the group is bound, in an instruction that takes no streams (R267). -/
def noStream (regs : List Nat) : M Unit := do
  let c ← getC
  match regs.find? fun r => (c.slotOf r).isSome with
  | some r => trap 0x08 (BitVec.ofNat 64 r)
  | none => pure ()

/-- A slot's access stalls: the scope of the acquire that ends the stall is noted (R407). -/
def State.blockSlot (s : State) (slot : Nat) (e : Stop) : State :=
  match e with
  | .wait w _ => s.upd fun c => c.updSq slot fun q => q.map fun q => { q with blocked := some (s.waitScope w) }
  | _ => s

/-- A slot's access goes on: a stall that it was in ends as its acquire (R104, R407). -/
def State.unblockSlot (s : State) (slot : Nat) : State :=
  match (s.ctx.sq.get (Fin.ofNat 8 slot)).bind (·.blocked) with
  | none => s
  | some sc => (s.acquires sc).upd fun c => c.updSq slot fun q => q.map fun q => { q with blocked := none }

/-- A check whose failure, but for a strict lock and a stopped channel, is cause 0x08 with the address; a
stall of it is not architectural, and only a slot's own access waits (R265, R267, R407). -/
def streamAccess (acc : Access) (a : Word) (n : Nat) (slot : Option Nat) : M (Option Phys) := fun s =>
  match checkAccess acc a n s with
  | .error (.trap _ _) s => .error (.trap 0x08#8 a) s
  | .error e s => .error e s
  | .ok ph s =>
    match stalls acc a n ph s with
    | .ok _ s => .ok (some ph) ((slot.map s.unblockSlot).getD s)
    | .error (.trap c i) s => .error (.trap c i) s
    | .error e s =>
      match slot with
      | some k => .error .stall (s.blockSlot k e)
      | none => .ok none s

/-- Element P + j of a load stream as an operand: zero beyond the pattern and from vl on; what the slot read ahead, or a
read now (R265, R114). -/
def streamElem (n : Nat) (q : Stream) (j : Nat) : M Nat := do
  let e := q.pos + j
  let c ← getC
  if q.total ≤ e || c.vl.toNat ≤ j then pure 0
  else do
    let ph ← streamAccess .load (q.addr e) q.size (some n)
    let s ← get
    match q.fetched.find? fun x => x.1 == e with
    | some x => pure x.2
    | none =>
      match ph with
      | none => pure 0
      | some ph => do
        set (s.noteRead ph)
        pure (s.readN ph.key q.size)

/-- Element i of a source group: of its load stream where it is bound, else of the registers. -/
def srcElem (g : Grp) (i : Nat) : M Nat := do
  let c ← getC
  match c.slotOf g.reg with
  | some (n, q) => streamElem n q i
  | none => pure (c.elem g i)

/-- The check of an element that is to be delivered to a store stream (R266, R267, R407). -/
def deliverCheck (g : Grp) (i : Nat) : M Unit := do
  let c ← getC
  match c.slotOf g.reg with
  | none => pure ()
  | some (_, q) =>
    if q.total ≤ q.pos + i then pure ()
    else do
      let _ ← streamAccess .store (q.addr (q.pos + i)) q.size none
      pure ()

/-- Streams advance when the instruction retires: consumed groups leave, active elements below vl are
delivered (R265, R266). -/
def Ctx.advanceStream (c : Ctx) (k : BitVec 3) (g : Grp) : Ctx :=
  match c.slotOf g.reg with
  | none => c
  | some (n, q) =>
    let pos := q.pos + 16 * ceilDiv c.vl.toNat 16
    let fresh : List Delivery :=
      if q.store then
        ((List.range (min c.vl.toNat g.length)).filter fun i => c.kbit k i && q.pos + i < q.total).map fun i =>
          { element := q.pos + i, value := c.elem g i }
      else []
    c.updSq n fun _ => some { q with pos := pos, fetched := q.fetched.filter fun x => pos ≤ x.1,
                                     deliveries := q.deliveries ++ fresh }

/-- Each named group advances its stream once, however often the instruction names it (R265). -/
def Ctx.advanceStreams (c : Ctx) (k : BitVec 3) (gs : List Grp) : Ctx :=
  let firsts := gs.foldl (fun (l : List Grp) g => if l.any (fun h => h.reg == g.reg) then l else l ++ [g]) []
  firsts.foldl (fun c g => c.advanceStream k g) c

/-! ### Tags -/

/-- The tag of a register of a source group: a bound one reads under (vtype.fmt, EEW) (R265). -/
def Ctx.srcTag (c : Ctx) (g : Grp) (r : Nat) : Nat × Nat :=
  if (c.slotOf g.reg).isSome then (c.vfmt, g.eew) else ((c.vr r).fmt.toNat, widthOf (c.vr r).width)

/-- The first register of a group that has no format, another width than EEW or another format than
`fmt`, if one is asked for (R43, R166). -/
def Ctx.badTag (c : Ctx) (fmt : Option Nat) (g : Grp) : Option Nat :=
  let first := (c.srcTag g g.reg).1
  g.regs.find? fun r =>
    let t := c.srcTag g r
    t.1 == 0 || t.2 != g.eew || t.1 != fmt.getD first

/-- Data sources in order: each tagged at its EEW, all in one format, which is the answer (R166). -/
def dataTags : Option Nat → List Grp → M Nat
  | fmt, [] => pure (fmt.getD 0)
  | fmt, g :: t => do
    let c ← getC
    match c.badTag fmt g with
    | some r => trap 0x06 (BitVec.ofNat 64 r)
    | none => dataTags (some (fmt.getD (c.srcTag g g.reg).1)) t

/-- An index source: tagged integer at its EEW (R166). -/
def indexTags (g : Grp) : M Unit := do
  let c ← getC
  match g.regs.find? fun r =>
      let t := c.srcTag g r
      !(t.1 == 1 || t.1 == 2) || t.2 != g.eew with
  | some r => trap 0x06 (BitVec.ofNat 64 r)
  | none => pure ()

/-- The classes of R166. -/
def isInteger (fmt : Nat) : Bool := fmt == 1 || fmt == 2
def isFloating (fmt : Nat) : Bool := 3 ≤ fmt && fmt ≤ 6
def isPacked (fmt : Nat) : Bool := 7 ≤ fmt

/-- The first register tagged none that would keep an element: a tail under keep, an element masked off
under keep, an element below `skip` under every policy (R43, R166, R180). -/
def State.keptFault (s : State) (g : Grp) (k : BitVec 3) (skip : Nat) : Option Nat :=
  let c := s.ctx
  let per := s.perReg g.eew
  let vl := c.vl.toNat
  (List.range g.emul).findSome? fun j =>
    if (c.vr (g.reg + j)).fmt ≠ 0 then none
    else
      let lo := j * per
      let body := (span lo per).filter fun i => c.vstart.toNat ≤ i && i < vl
      if (c.tailKeep && vl < lo + per) || lo < skip ||
          (!c.maskZero && body.any fun i => !c.kbit k i)
      then some (g.reg + j) else none

/-- Cause 0x06 for a kept destination tagged none, after the other operands and before the class (R43, R136, R166).
An instruction that writes nothing keeps nothing (R59). -/
def keptCheck (g : Grp) (k : BitVec 3) (skip : Nat) : M Unit := fun s =>
  if s.ctx.vl.toNat ≤ s.ctx.vstart.toNat then .ok () s
  else
    match s.keptFault g k skip with
    | some r => .error (.trap 0x06#8 (BitVec.ofNat 64 r)) s
    | none => .ok () s

/-! ### The element loop -/

/-- A trap at element i leaves vstart at i and nothing of the element done (R7, R190). -/
def atElement (i : Nat) (m : M α) : M α := fun s =>
  match m s with
  | .error (.trap c f) _ => .error (.trap c f) (s.upd fun x => { x with vstart := BitVec.ofNat 12 i })
  | r => r

/-- Nothing of an element group that has to wait has happened, but that its streams wait: the instruction goes on from the
group's first element (R168, R190, R193, R338). -/
def atGroup (i : Nat) (m : M α) : M α := fun s =>
  match m s with
  | .error (.trap c f) t => .error (.trap c f) t
  | .error e t => .error e (s.upd fun x => { x with vstart := BitVec.ofNat 12 i, sq := t.ctx.sq })
  | r => r

/-- What a read would give now, none where it traps or waits; nothing is done. -/
def foreseen (m : M α) : M (Option α) := fun s =>
  match m s with
  | .ok v _ => .ok (some v) s
  | .error _ _ => .ok none s

/-- One indivisible step for the element group from element `i` (R193, R259): a trap leaves nothing of it done, a wait
what it has filled, and the instruction goes on from the group's first element. -/
def atStep (i : Nat) (m : M α) : M α := fun s =>
  match m s with
  | .error (.trap c f) _ => .error (.trap c f) (s.upd fun x => { x with vstart := BitVec.ofNat 12 i })
  | .error e t => .error e (t.upd fun x => { x with vstart := BitVec.ofNat 12 i })
  | r => r

/-- Elements `i` to `i + n - 1` in order. -/
def elementsFrom (body : Nat → M Unit) (i : Nat) : Nat → M Unit
  | 0 => pure ()
  | n + 1 => do
    atElement i (body i)
    elementsFrom body (i + 1) n

/-- A point inside an instruction before element `i`, where the schedule may stop it: it goes on from there when its
context moves again (R168, R190, R238, R338, log 3). -/
def pointAt (i : Nat) : M Unit := fun s =>
  if s.stopAt = some i then .error .pause (s.upd fun x => { x with vstart := BitVec.ofNat 12 i }) else .ok () s

/-- Element groups from element `lo` up to `hi` (R25), with a pre-emption point before each (R338): `step` does the
elements from its first to before its second argument. -/
def groupsFrom (step : Nat → Nat → M Unit) (lo hi : Nat) : Nat → M Unit
  | 0 => pure ()
  | n + 1 =>
    if hi ≤ lo then pure ()
    else do
      pointAt lo
      let e := min hi ((lo / 16 + 1) * 16)
      step lo e
      groupsFrom step e hi n

/-- The element groups from vstart up to vl (R168). -/
def forGroups (step : Nat → Nat → M Unit) : M Unit := do
  let c ← getC
  groupsFrom step c.vstart.toNat c.vl.toNat (c.vl.toNat / 16 + 1)

/-- The elements of one group, one after the other. -/
def elementGroup (body : Nat → M Unit) (lo hi : Nat) : M Unit := atGroup lo (elementsFrom body lo (hi - lo))

/-- Every element from vstart up to vl (R168). -/
def forElements (body : Nat → M Unit) : M Unit := forGroups (elementGroup body)

/-- The loop of R168 on a vector destination: `result` gives an active element's bits. Elements below
`skip` are not written, those of the tail neither (R180). With vstart at or above vl nothing is written (R59). DESIGN CHOICE
(log 85): the high-water mark covers the elements that VSLIDEUP keeps below X[N], also those from vl on. -/
def elementLoop (d : Grp) (fmt : Nat) (k : BitVec 3) (skip : Nat) (result : Nat → M Nat) : M Unit := do
  let c ← getC
  if c.vl.toNat ≤ c.vstart.toNat then pure ()
  else do
    forElements fun i =>
      if i < skip then (if c.kbit k i then deliverCheck d i else pure ())
      else if c.kbit k i then do
        let v ← result i
        deliverCheck d i
        modC fun x => x.putElem d i v
      else if c.maskZero then modC fun x => x.putElem d i 0
      else pure ()
    modC fun x => x.close d fmt (max x.vl.toNat skip)

/-- Retirement of a vector instruction: vstart becomes 0, streams advance (R59, R265, R266). -/
def vecRetire (len : Nat) (k : BitVec 3) (used : List Grp) (ld : BitVec 8 → BitVec 8) : M Unit :=
  modC fun c => { (c.advanceStreams k used).next len (ld c.ldst) with vstart := 0 }

/-- The register field of a group as ldst records it. -/
def Grp.record (g : Grp) : BitVec 8 := ldV (BitVec.ofNat 5 g.reg)

/-! ### Masks -/

/-- A mask register written (R48). -/
def Ctx.setK (c : Ctx) (d : BitVec 3) (v : MData) : Ctx :=
  { c with k := c.k.set d.toNat v d.isLt }

/-- Mask bit i written. -/
def Ctx.setKbit (c : Ctx) (d : BitVec 3) (i : Nat) (b : Bool) : Ctx :=
  c.setK d (splice (c.k.get d.toFin) i 1 (natOf b))

/-- Bits at or above vl of a mask result follow the tail policy (R48). -/
def Ctx.closeK (c : Ctx) (d : BitVec 3) : Ctx :=
  if c.tailKeep then c else c.setK d (keepLow (c.k.get d.toFin) c.vl.toNat)

/-- The loop of R168 on a mask destination. The mask k is read as it stood before. -/
def maskLoop (d k : BitVec 3) (bit : Nat → M Bool) : M Unit := do
  let c ← getC
  if c.vl.toNat ≤ c.vstart.toNat then pure ()
  else do
    forElements fun i =>
      if c.kbit k i then do
        let b ← bit i
        modC fun x => x.setKbit d i b
      else if c.maskZero then modC fun x => x.setKbit d i false
      else pure ()
    modC fun x => x.closeK d

end Sys2Proof.Machine
end

