-- ==== Sys2Proof/Machine/VecArith.lean ====
section
/-!
DEFINITION. Vector configuration and arithmetic: major 11 and majors 12 to 16 with M = 0 (R164 to R179).
-/
namespace Sys2Proof.Machine

/-! ### VSETL and VRETAG -/

/-- A consumer binding with strip gating that holds VSETL back: the bound its value must reach (R31, R274). -/
def State.stripStall (s : State) (vl : Nat) : Option (Nat × Nat) :=
  (List.range 16).findSome? fun n =>
    match s.wm.get (Fin.ofNat 16 n) with
    | none => none
    | some w =>
      let bound := min ((s.ctx.granted.get (Fin.ofNat 16 n)) + vl) w.count
      if w.role == .consumer && w.strip && s.inLaunch s.cur w && w.value < bound then some (n, bound) else none

/-- The granted totals grow by vl under every strip-gated binding (R274). -/
def State.grantStrips (s : State) (vl : Nat) : State :=
  let grown (n : Fin 16) : Nat :=
    match s.wm.get n with
    | some w =>
      if w.role == .consumer && w.strip && s.inLaunch s.cur w then s.ctx.granted.get n + vl
      else s.ctx.granted.get n
    | none => s.ctx.granted.get n
  s.upd fun c => { c with granted := Vector.ofFn grown }

/-- VSETL: vtype and vl; on a guest only SEW 32 and LMUL 1; it stalls under strip gating (R164). -/
def execVsetl (d a : BitVec 5) (t : BitVec 11) (s : State) : Host.Outcome State Fault Refusal :=
  settle (do
    let s ← get
    if s.kind = .guest && (sewOf t ≠ 32 || lmulOf t ≠ 1) then trap 0x0D s.ctx.pc
    else do
      let top := if s.kind = .guest then 64 else vlmaxOf t
      let vl := if a = 0 then top else min (s.ctx.rx a).toNat top
      match s.stripStall vl with
      | some (n, bound) => fun s => .error (.wait (.mark n bound) false) s
      | none => do
        set (s.grantStrips vl)
        modC fun c => { c with vtype := t, vl := BitVec.ofNat 13 vl, vstart := 0 }
        retireX 4 d (BitVec.ofNat 64 vl)) s

/-- VRETAG: the bytes of a group under a new tag (R165). -/
def execVretag (d a : BitVec 5) (f : BitVec 4) (w : BitVec 2) (s : State) : Host.Outcome State Fault Refusal :=
  settle (do
    let c ← getC
    let s ← get
    let n := if s.kind = .guest then 1 else c.lmul
    let gd : Grp := { reg := d.toNat, emul := n, eew := 8 }
    let ga : Grp := { reg := a.toNat, emul := n, eew := 8 }
    vecBegin (ga.regs ++ gd.regs)
    legal (gd.aligned && ga.aligned)
    noStream (ga.regs ++ gd.regs)
    let c ← getC
    match ga.regs.find? fun r => (c.vr r).fmt == 0 with
    | some r => trap 0x06 (BitVec.ofNat 64 r)
    | none =>
      modC fun x => x.updVs gd.regs fun j r =>
        let src := c.vr (ga.reg + j)
        { r with data := src.data, hwm := src.hwm, fmt := f, width := w, dirty := true, link := false }
      vecRetire 4 0 [] fun _ => gd.record) s

/-! ### Majors 12 to 14 -/

/-- The functions of majors 12 to 14 (R170). -/
inductive VFn where
  | add | sub | rsub | mul | mulh | div | rem | min | max | and | or | xor | sll | srl | sra
  | sadd | ssub | avg | smul | sgnj | sgnjn | sgnjx | merge | mv | sat
deriving DecidableEq, Repr

/-- The second operand: a group, the low EEW bits of an x register, or an immediate (R166). -/
inductive VSrc where
  | vec (r : BitVec 5)
  | scalar (r : BitVec 5)
  | imm (i : Int)
deriving DecidableEq, Repr

/-- Sat of R170: SatS for signed, SatU for unsigned. -/
def satOf (sg : Bool) (n : Nat) (v : Int) : Int := if sg then satS n v else satU n v

/-- The integer class (R170, R72); none for a dash. -/
def intFn (f : VFn) (sg : Bool) (n : Nat) : Option (Nat → Nat → Nat) :=
  let v := valueOf sg n
  match f with
  | .add => some fun a b => (a + b) % 2 ^ n
  | .sub => some fun a b => wrapTo n ((a : Int) - b)
  | .rsub => some fun a b => wrapTo n ((b : Int) - a)
  | .mul => some fun a b => a * b % 2 ^ n
  | .mulh => some fun a b => wrapTo n (v a * v b / 2 ^ n)
  | .div => some fun a b => if sg then sdiv n a b else udiv n a b
  | .rem => some fun a b => if sg then srem n a b else urem n a b
  | .min => some fun a b => if v a < v b then a else b
  | .max => some fun a b => if v a < v b then b else a
  | .and => some Nat.land
  | .or => some Nat.lor
  | .xor => some Nat.xor
  | .sll => some fun a b => a * 2 ^ (b % n) % 2 ^ n
  | .srl => some fun a b => a / 2 ^ (b % n)
  | .sra => some fun a b => wrapTo n (sintOf n a / (2 ^ (b % n) : Nat))
  | .sadd => some fun a b => wrapTo n (satOf sg n (v a + v b))
  | .ssub => some fun a b => wrapTo n (satOf sg n (v a - v b))
  | .avg => some fun a b => wrapTo n ((v a + v b + 1) / 2)
  | .smul =>
    if sg then some fun a b => wrapTo n (satS n ((v a * v b + (2 ^ (n - 2) : Nat)) / (2 ^ (n - 1) : Nat))) else none
  | .sat => some fun a b => if b + 1 < n then wrapTo n (satOf sg (b + 1) (v a)) else a
  | .merge => some fun _ b => b
  | .mv => some fun _ b => b
  | .sgnj => none
  | .sgnjn => none
  | .sgnjx => none

/-- The packed class: bitwise functions and copies (R170). DESIGN CHOICE (log 71): the result is the plain bitwise one,
also where a ternary field of it is 0b10, which R61 says no instruction writes. -/
def packedFn (f : VFn) : Option (Nat → Nat → Nat) :=
  match f with
  | .and => some Nat.land
  | .or => some Nat.lor
  | .xor => some Nat.xor
  | .merge => some fun _ b => b
  | .mv => some fun _ b => b
  | _ => none

/-- The magnitude of `a` with a sign. -/
def FFmt.signed (f : FFmt) (a : Nat) (neg : Bool) : Nat := a % 2 ^ (f.bits - 1) + f.signBit neg

/-- The top bit of a pattern. -/
def FFmt.top (f : FFmt) (a : Nat) : Bool := a / 2 ^ (f.bits - 1) % 2 == 1

/-- The floating class: whether the function rounds, and what it gives (R169, R170); none for a dash. -/
def floatFn (f : VFn) (t : FFmt) : Option (Bool × (RMode → Nat → Nat → Nat × BitVec 5)) :=
  match f with
  | .add => some (true, fun m a b => t.add m (t.decode a) (t.decode b))
  | .sub => some (true, fun m a b => t.add m (t.decode a) (t.decode b).minus)
  | .rsub => some (true, fun m a b => t.add m (t.decode b) (t.decode a).minus)
  | .mul => some (true, fun m a b => t.mul m (t.decode a) (t.decode b))
  | .div => some (true, fun m a b => t.div m (t.decode a) (t.decode b))
  | .min => some (false, fun _ a b => t.minmax false a b)
  | .max => some (false, fun _ a b => t.minmax true a b)
  | .sgnj => some (false, fun _ a b => (t.signed a (t.top b), 0))
  | .sgnjn => some (false, fun _ a b => (t.signed a (!t.top b), 0))
  | .sgnjx => some (false, fun _ a b => (t.signed a (t.top a != t.top b), 0))
  | .merge => some (false, fun _ _ b => (b, 0))
  | .mv => some (false, fun _ _ b => (b, 0))
  | _ => none

/-- A floating value of an element: its rounding taken where it rounds, its flags accumulated (R169). -/
def floatElem (rounds : Bool) (code : BitVec 3) (op : RMode → Nat × BitVec 5) : M Nat := do
  let m ← if rounds then roundingOf code else pure rne
  let v := op m
  raiseFlags v.2
  pure v.1

/-- What a function does to the elements of a format, or cause 0x06 where it has no meaning (R136 step 7,
R170). -/
def vecFn (f : VFn) (fmt sew : Nat) : M (Nat → Nat → M Nat) := do
  let c ← getC
  if isInteger fmt then
    match intFn f (fmt == 2) sew with
    | some g => pure fun a b => pure (g a b)
    | none => noClass
  else if isPacked fmt then
    match packedFn f with
    | some g => pure fun a b => pure (g a b)
    | none => noClass
  else
    match floatOf fmt sew with
    | none => noClass
    | some t =>
      match floatFn f t with
      | none => noClass
      | some (r, g) => pure fun a b => floatElem r c.frm fun m => g m a b

/-- The group of a vector second operand. -/
def VSrc.grps (b : VSrc) (c : Ctx) : List Grp :=
  match b with
  | .vec r => [c.grp r]
  | _ => []

/-- Element i of the second operand (R166). -/
def VSrc.elem (b : VSrc) (c : Ctx) (i : Nat) : M Nat :=
  match b with
  | .vec r => srcElem (c.grp r) i
  | .scalar r => pure ((c.rx r).toNat % 2 ^ c.sew)
  | .imm v => pure (wrapTo c.sew v)

/-- An immediate is allowed with the integer class, and with the packed class for some functions (R166). -/
def immAllowed (f : VFn) (fmt : Nat) : Bool := isInteger fmt || (isPacked fmt && (packedFn f).isSome)

/-- An instruction of majors 12 to 14 (R166 to R171): VMV has no first source, VMERGE no mask policy. DESIGN CHOICE (log 85):
the checks of a stream operand (R267) come before those of the tags (R166). -/
def vecArith (len : Nat) (f : VFn) (d a : BitVec 5) (b : VSrc) (k : BitVec 3) (s : State) :
    Host.Outcome State Fault Refusal :=
  settle (do
    let c ← getC
    let gd := c.grp d
    let ga := c.grp a
    let srcs := (if f = .mv then [] else [ga]) ++ b.grps c
    let km := if f = .merge then 0 else k
    vecBegin ((gd :: srcs).flatMap Grp.regs)
    legal ((gd :: srcs).all Grp.aligned)
    srcs.forM (streamCheck false)
    streamCheck true gd
    let fmt ← if srcs.isEmpty then (if c.vfmt = 0 then trap 0x06 (BitVec.ofNat 64 gd.reg) else pure c.vfmt)
      else dataTags none srcs
    keptCheck gd km 0
    let isImm := match b with
      | .imm _ => true
      | _ => false
    if isImm && !immAllowed f fmt then noClass
    else do
      let op ← vecFn f fmt c.sew
      elementLoop gd fmt km 0 fun i => do
        if f = .mv then b.elem c i
        else if f = .merge then (if c.kbit k i then b.elem c i else srcElem ga i)
        else do
          let x ← srcElem ga i
          let y ← b.elem c i
          op x y
      vecRetire len km (srcs ++ [gd]) fun _ => gd.record) s

/-- VADD vectors (R170). -/
def execVaddVv (d a b : BitVec 5) (k : BitVec 3) (s : State) : Host.Outcome State Fault Refusal :=
  vecArith 4 .add d a (.vec b) k s

/-- VADD with a scalar (R170). -/
def execVaddVx (d a b : BitVec 5) (k : BitVec 3) (s : State) : Host.Outcome State Fault Refusal :=
  vecArith 4 .add d a (.scalar b) k s

/-- VADD with an immediate (R170). -/
def execVaddVi (d a im : BitVec 5) (k : BitVec 3) (s : State) : Host.Outcome State Fault Refusal :=
  vecArith 4 .add d a (.imm im.toInt) k s

/-- VSUB vectors (R170). -/
def execVsubVv (d a b : BitVec 5) (k : BitVec 3) (s : State) : Host.Outcome State Fault Refusal :=
  vecArith 4 .sub d a (.vec b) k s

/-- VSUB with a scalar (R170). -/
def execVsubVx (d a b : BitVec 5) (k : BitVec 3) (s : State) : Host.Outcome State Fault Refusal :=
  vecArith 4 .sub d a (.scalar b) k s

/-- VRSUB with a scalar (R170). -/
def execVrsubVx (d a b : BitVec 5) (k : BitVec 3) (s : State) : Host.Outcome State Fault Refusal :=
  vecArith 4 .rsub d a (.scalar b) k s

/-- VRSUB with an immediate (R170). -/
def execVrsubVi (d a im : BitVec 5) (k : BitVec 3) (s : State) : Host.Outcome State Fault Refusal :=
  vecArith 4 .rsub d a (.imm im.toInt) k s

/-- VMUL vectors (R170). -/
def execVmulVv (d a b : BitVec 5) (k : BitVec 3) (s : State) : Host.Outcome State Fault Refusal :=
  vecArith 4 .mul d a (.vec b) k s

/-- VMUL with a scalar (R170). -/
def execVmulVx (d a b : BitVec 5) (k : BitVec 3) (s : State) : Host.Outcome State Fault Refusal :=
  vecArith 4 .mul d a (.scalar b) k s

/-- VMULH vectors (R170). -/
def execVmulhVv (d a b : BitVec 5) (k : BitVec 3) (s : State) : Host.Outcome State Fault Refusal :=
  vecArith 4 .mulh d a (.vec b) k s

/-- VMULH with a scalar (R170). -/
def execVmulhVx (d a b : BitVec 5) (k : BitVec 3) (s : State) : Host.Outcome State Fault Refusal :=
  vecArith 4 .mulh d a (.scalar b) k s

/-- VDIV vectors (R170). -/
def execVdivVv (d a b : BitVec 5) (k : BitVec 3) (s : State) : Host.Outcome State Fault Refusal :=
  vecArith 4 .div d a (.vec b) k s

/-- VDIV with a scalar (R170). -/
def execVdivVx (d a b : BitVec 5) (k : BitVec 3) (s : State) : Host.Outcome State Fault Refusal :=
  vecArith 4 .div d a (.scalar b) k s

/-- VREM vectors (R170). -/
def execVremVv (d a b : BitVec 5) (k : BitVec 3) (s : State) : Host.Outcome State Fault Refusal :=
  vecArith 4 .rem d a (.vec b) k s

/-- VREM with a scalar (R170). -/
def execVremVx (d a b : BitVec 5) (k : BitVec 3) (s : State) : Host.Outcome State Fault Refusal :=
  vecArith 4 .rem d a (.scalar b) k s

/-- VMIN vectors (R170). -/
def execVminVv (d a b : BitVec 5) (k : BitVec 3) (s : State) : Host.Outcome State Fault Refusal :=
  vecArith 4 .min d a (.vec b) k s

/-- VMIN with a scalar (R170). -/
def execVminVx (d a b : BitVec 5) (k : BitVec 3) (s : State) : Host.Outcome State Fault Refusal :=
  vecArith 4 .min d a (.scalar b) k s

/-- VMAX vectors (R170). -/
def execVmaxVv (d a b : BitVec 5) (k : BitVec 3) (s : State) : Host.Outcome State Fault Refusal :=
  vecArith 4 .max d a (.vec b) k s

/-- VMAX with a scalar (R170). -/
def execVmaxVx (d a b : BitVec 5) (k : BitVec 3) (s : State) : Host.Outcome State Fault Refusal :=
  vecArith 4 .max d a (.scalar b) k s

/-- VAND vectors (R170). -/
def execVandVv (d a b : BitVec 5) (k : BitVec 3) (s : State) : Host.Outcome State Fault Refusal :=
  vecArith 4 .and d a (.vec b) k s

/-- VAND with a scalar (R170). -/
def execVandVx (d a b : BitVec 5) (k : BitVec 3) (s : State) : Host.Outcome State Fault Refusal :=
  vecArith 4 .and d a (.scalar b) k s

/-- VAND with an immediate (R170). -/
def execVandVi (d a im : BitVec 5) (k : BitVec 3) (s : State) : Host.Outcome State Fault Refusal :=
  vecArith 4 .and d a (.imm im.toInt) k s

/-- VOR vectors (R170). -/
def execVorVv (d a b : BitVec 5) (k : BitVec 3) (s : State) : Host.Outcome State Fault Refusal :=
  vecArith 4 .or d a (.vec b) k s

/-- VOR with a scalar (R170). -/
def execVorVx (d a b : BitVec 5) (k : BitVec 3) (s : State) : Host.Outcome State Fault Refusal :=
  vecArith 4 .or d a (.scalar b) k s

/-- VOR with an immediate (R170). -/
def execVorVi (d a im : BitVec 5) (k : BitVec 3) (s : State) : Host.Outcome State Fault Refusal :=
  vecArith 4 .or d a (.imm im.toInt) k s

/-- VXOR vectors (R170). -/
def execVxorVv (d a b : BitVec 5) (k : BitVec 3) (s : State) : Host.Outcome State Fault Refusal :=
  vecArith 4 .xor d a (.vec b) k s

/-- VXOR with a scalar (R170). -/
def execVxorVx (d a b : BitVec 5) (k : BitVec 3) (s : State) : Host.Outcome State Fault Refusal :=
  vecArith 4 .xor d a (.scalar b) k s

/-- VXOR with an immediate (R170). -/
def execVxorVi (d a im : BitVec 5) (k : BitVec 3) (s : State) : Host.Outcome State Fault Refusal :=
  vecArith 4 .xor d a (.imm im.toInt) k s

/-- VSLL vectors (R170). -/
def execVsllVv (d a b : BitVec 5) (k : BitVec 3) (s : State) : Host.Outcome State Fault Refusal :=
  vecArith 4 .sll d a (.vec b) k s

/-- VSLL with a scalar (R170). -/
def execVsllVx (d a b : BitVec 5) (k : BitVec 3) (s : State) : Host.Outcome State Fault Refusal :=
  vecArith 4 .sll d a (.scalar b) k s

/-- VSLL with an immediate (R170). -/
def execVsllVi (d a im : BitVec 5) (k : BitVec 3) (s : State) : Host.Outcome State Fault Refusal :=
  vecArith 4 .sll d a (.imm im.toNat) k s

/-- VSRL vectors (R170). -/
def execVsrlVv (d a b : BitVec 5) (k : BitVec 3) (s : State) : Host.Outcome State Fault Refusal :=
  vecArith 4 .srl d a (.vec b) k s

/-- VSRL with a scalar (R170). -/
def execVsrlVx (d a b : BitVec 5) (k : BitVec 3) (s : State) : Host.Outcome State Fault Refusal :=
  vecArith 4 .srl d a (.scalar b) k s

/-- VSRL with an immediate (R170). -/
def execVsrlVi (d a im : BitVec 5) (k : BitVec 3) (s : State) : Host.Outcome State Fault Refusal :=
  vecArith 4 .srl d a (.imm im.toNat) k s

/-- VSRA vectors (R170). -/
def execVsraVv (d a b : BitVec 5) (k : BitVec 3) (s : State) : Host.Outcome State Fault Refusal :=
  vecArith 4 .sra d a (.vec b) k s

/-- VSRA with a scalar (R170). -/
def execVsraVx (d a b : BitVec 5) (k : BitVec 3) (s : State) : Host.Outcome State Fault Refusal :=
  vecArith 4 .sra d a (.scalar b) k s

/-- VSRA with an immediate (R170). -/
def execVsraVi (d a im : BitVec 5) (k : BitVec 3) (s : State) : Host.Outcome State Fault Refusal :=
  vecArith 4 .sra d a (.imm im.toNat) k s

/-- VSADD vectors (R170). -/
def execVsaddVv (d a b : BitVec 5) (k : BitVec 3) (s : State) : Host.Outcome State Fault Refusal :=
  vecArith 4 .sadd d a (.vec b) k s

/-- VSADD with a scalar (R170). -/
def execVsaddVx (d a b : BitVec 5) (k : BitVec 3) (s : State) : Host.Outcome State Fault Refusal :=
  vecArith 4 .sadd d a (.scalar b) k s

/-- VSADD with an immediate (R170). -/
def execVsaddVi (d a im : BitVec 5) (k : BitVec 3) (s : State) : Host.Outcome State Fault Refusal :=
  vecArith 4 .sadd d a (.imm im.toInt) k s

/-- VSSUB vectors (R170). -/
def execVssubVv (d a b : BitVec 5) (k : BitVec 3) (s : State) : Host.Outcome State Fault Refusal :=
  vecArith 4 .ssub d a (.vec b) k s

/-- VSSUB with a scalar (R170). -/
def execVssubVx (d a b : BitVec 5) (k : BitVec 3) (s : State) : Host.Outcome State Fault Refusal :=
  vecArith 4 .ssub d a (.scalar b) k s

/-- VAVG vectors (R170). -/
def execVavgVv (d a b : BitVec 5) (k : BitVec 3) (s : State) : Host.Outcome State Fault Refusal :=
  vecArith 4 .avg d a (.vec b) k s

/-- VAVG with a scalar (R170). -/
def execVavgVx (d a b : BitVec 5) (k : BitVec 3) (s : State) : Host.Outcome State Fault Refusal :=
  vecArith 4 .avg d a (.scalar b) k s

/-- VSMUL vectors (R170). -/
def execVsmulVv (d a b : BitVec 5) (k : BitVec 3) (s : State) : Host.Outcome State Fault Refusal :=
  vecArith 4 .smul d a (.vec b) k s

/-- VSMUL with a scalar (R170). -/
def execVsmulVx (d a b : BitVec 5) (k : BitVec 3) (s : State) : Host.Outcome State Fault Refusal :=
  vecArith 4 .smul d a (.scalar b) k s

/-- VSGNJ vectors (R170). -/
def execVsgnjVv (d a b : BitVec 5) (k : BitVec 3) (s : State) : Host.Outcome State Fault Refusal :=
  vecArith 4 .sgnj d a (.vec b) k s

/-- VSGNJ with a scalar (R170). -/
def execVsgnjVx (d a b : BitVec 5) (k : BitVec 3) (s : State) : Host.Outcome State Fault Refusal :=
  vecArith 4 .sgnj d a (.scalar b) k s

/-- VSGNJN vectors (R170). -/
def execVsgnjnVv (d a b : BitVec 5) (k : BitVec 3) (s : State) : Host.Outcome State Fault Refusal :=
  vecArith 4 .sgnjn d a (.vec b) k s

/-- VSGNJN with a scalar (R170). -/
def execVsgnjnVx (d a b : BitVec 5) (k : BitVec 3) (s : State) : Host.Outcome State Fault Refusal :=
  vecArith 4 .sgnjn d a (.scalar b) k s

/-- VSGNJX vectors (R170). -/
def execVsgnjxVv (d a b : BitVec 5) (k : BitVec 3) (s : State) : Host.Outcome State Fault Refusal :=
  vecArith 4 .sgnjx d a (.vec b) k s

/-- VSGNJX with a scalar (R170). -/
def execVsgnjxVx (d a b : BitVec 5) (k : BitVec 3) (s : State) : Host.Outcome State Fault Refusal :=
  vecArith 4 .sgnjx d a (.scalar b) k s

/-- VMERGE vectors (R170). -/
def execVmergeVv (d a b : BitVec 5) (k : BitVec 3) (s : State) : Host.Outcome State Fault Refusal :=
  vecArith 4 .merge d a (.vec b) k s

/-- VMERGE with a scalar (R170). -/
def execVmergeVx (d a b : BitVec 5) (k : BitVec 3) (s : State) : Host.Outcome State Fault Refusal :=
  vecArith 4 .merge d a (.scalar b) k s

/-- VMERGE with an immediate (R170). -/
def execVmergeVi (d a im : BitVec 5) (k : BitVec 3) (s : State) : Host.Outcome State Fault Refusal :=
  vecArith 4 .merge d a (.imm im.toInt) k s

/-- VMV vectors (R170). -/
def execVmvVv (d b : BitVec 5) (k : BitVec 3) (s : State) : Host.Outcome State Fault Refusal :=
  vecArith 4 .mv d 0 (.vec b) k s

/-- VMV with a scalar (R170). -/
def execVmvVx (d b : BitVec 5) (k : BitVec 3) (s : State) : Host.Outcome State Fault Refusal :=
  vecArith 4 .mv d 0 (.scalar b) k s

/-- VMV with an immediate (R170). -/
def execVmvVi (d im : BitVec 5) (k : BitVec 3) (s : State) : Host.Outcome State Fault Refusal :=
  vecArith 4 .mv d 0 (.imm im.toInt) k s

/-- VSAT with an immediate (R170). -/
def execVsatVi (d a im : BitVec 5) (k : BitVec 3) (s : State) : Host.Outcome State Fault Refusal :=
  vecArith 4 .sat d a (.imm im.toNat) k s

/-! ### VBSCL -/

/-- A block-scaled element of the floating class (R64, R172). -/
def scaledFloat (t : FFmt) (a sc : Nat) (m : RMode) : Nat × BitVec 5 :=
  if sc = 0xFF then (t.qnan, flagNV)
  else
    match t.decode a with
    | .nan q => (t.qnan, nanFlags [.nan q])
    | .inf neg => (t.inf neg, 0)
    | .num neg x e => t.round m (dyadic neg x (e + ((sc : Int) - 127)))

/-- A block-scaled element of the integer class (R64, R172). -/
def scaledInt (sg : Bool) (n a sc : Nat) (m : RMode) : Nat × BitVec 5 :=
  if sc = 0xFF then (0, flagNV)
  else toInteger m sg n ((Exact.ofInt (valueOf sg n a) 1).scale ((sc : Int) - 127))

/-- VBSCL: the data group times its blocks' scales (R172). -/
def execVbsclVv (d a b : BitVec 5) (k : BitVec 3) (s : State) : Host.Outcome State Fault Refusal :=
  settle (do
    let c ← getC
    let gd := c.grp d
    let ga := c.grp a
    let gs : Grp := { reg := b.toNat, emul := 1, eew := 8 }
    vecBegin ([gd, ga, gs].flatMap Grp.regs)
    legal (gd.aligned && ga.aligned && !gd.meets gs)
    streamCheck false ga
    streamCheck false gs
    streamCheck true gd
    let fmt ← dataTags none [ga]
    let _ ← dataTags (some 1) [gs]
    keptCheck gd k 0
    let float := floatOf fmt c.sew
    if !isInteger fmt && float.isNone then noClass
    else do
      elementLoop gd fmt k 0 fun i => do
        let sc ← srcElem gs (i / 32)
        let x ← srcElem ga i
        floatElem true c.frm fun m =>
          match float with
          | some t => scaledFloat t x sc m
          | none => scaledInt (fmt == 2) c.sew x sc m
      vecRetire 4 k [ga, gs, gd] fun _ => gd.record) s

/-! ### Major 15 -/

/-- The functions of major 15 (R173). -/
inductive VMac where
  | macc | nmsac | madd | nmsub | wmacc | wmul | wadd | wsub | qmacc
deriving DecidableEq, Repr

/-- The destination width as a multiple of SEW (R173). -/
def VMac.factor : VMac → Nat
  | .wmacc => 2
  | .wmul => 2
  | .wadd => 2
  | .wsub => 2
  | .qmacc => 4
  | _ => 1

/-- The destination is read (R173). -/
def VMac.readsD : VMac → Bool
  | .wmul => false
  | .wadd => false
  | .wsub => false
  | _ => true

/-- The exact integer result (R173). -/
def VMac.int (f : VMac) (d a b : Int) : Int :=
  match f with
  | .nmsac => d - a * b
  | .madd => a * d + b
  | .nmsub => -(a * d) + b
  | .wmul => a * b
  | .wadd => a + b
  | .wsub => a - b
  | _ => d + a * b

/-- The floating result in the destination format, one rounding (R173). -/
def VMac.float (f : VMac) (t : FFmt) (m : RMode) (d a b : FVal) : Nat × BitVec 5 :=
  match f with
  | .nmsac => t.fma m d a.minus b
  | .madd => t.fma m b a d
  | .nmsub => t.fma m b a.minus d
  | .wmul => t.mul m a b
  | .wadd => t.add m a b
  | .wsub => t.add m a b.minus
  | _ => t.fma m d a b

/-- The destination format code of a widening function (R174). DESIGN CHOICE (log 85): where R174 gives a source class no
destination format, an accumulator that is read must be tagged as for the others before the class is refused. -/
def VMac.format (f : VMac) (fmt : Nat) : Nat := if isInteger fmt || f.factor = 1 then fmt else 3

/-- A forbidden change of width (R167). -/
def VMac.allowed (f : VMac) (sew lmul : Nat) : Bool :=
  match f.factor with
  | 1 => true
  | 2 => sew ≠ 64 && lmul ≠ 8
  | _ => sew < 32 && lmul < 4

/-- The element function of major 15 on a data format (R173); cause 0x06 where it has no meaning. -/
def macFn (f : VMac) (fmt sew : Nat) : M (Nat → Nat → Nat → M Nat) := do
  let c ← getC
  let w := sew * f.factor
  if isInteger fmt then
    pure fun d a b => pure (wrapTo w (f.int (valueOf (fmt == 2) w d) (valueOf (fmt == 2) sew a) (valueOf (fmt == 2) sew b)))
  else
    match floatOf fmt sew, floatOf (f.format fmt) w with
    | some src, some dst =>
      if f = .qmacc then noClass
      else pure fun d a b => floatElem true c.frm fun m => f.float dst m (dst.decode d) (src.decode a) (src.decode b)
    | _, _ => noClass

/-- An instruction of major 15 (R167, R173, R174). -/
def vecMac (len : Nat) (f : VMac) (d a b : BitVec 5) (k : BitVec 3) (s : State) :
    Host.Outcome State Fault Refusal :=
  settle (do
    let c ← getC
    let n := f.factor
    let gd : Grp := { reg := d.toNat, emul := c.lmul * n, eew := c.sew * n }
    let ga := c.grp a
    let gb := c.grp b
    vecBegin ([gd, ga, gb].flatMap Grp.regs)
    if n ≠ 1 then widthChange else pure ()
    legal (f.allowed c.sew c.lmul && gd.aligned && ga.aligned && gb.aligned &&
      (n == 1 || (!gd.meets ga && !gd.meets gb)))
    streamCheck false ga
    streamCheck false gb
    if f.readsD then streamCheck false gd else pure ()
    streamCheck true gd
    let fmt ← dataTags none [ga, gb]
    if f.readsD then
      let _ ← dataTags (some (f.format fmt)) [gd]
    else pure ()
    keptCheck gd k 0
    let op ← macFn f fmt c.sew
    elementLoop gd (f.format fmt) k 0 fun i => do
      let x ← srcElem ga i
      let y ← srcElem gb i
      let cur ← getC
      op (if f.readsD then cur.elem gd i else 0) x y
    vecRetire len k [ga, gb, gd] fun _ => gd.record) s

/-- VMACC (R173). -/
def execVmacc (d a b : BitVec 5) (k : BitVec 3) (s : State) : Host.Outcome State Fault Refusal :=
  vecMac 4 .macc d a b k s

/-- VNMSAC (R173). -/
def execVnmsac (d a b : BitVec 5) (k : BitVec 3) (s : State) : Host.Outcome State Fault Refusal :=
  vecMac 4 .nmsac d a b k s

/-- VMADD (R173). -/
def execVmadd (d a b : BitVec 5) (k : BitVec 3) (s : State) : Host.Outcome State Fault Refusal :=
  vecMac 4 .madd d a b k s

/-- VNMSUB (R173). -/
def execVnmsub (d a b : BitVec 5) (k : BitVec 3) (s : State) : Host.Outcome State Fault Refusal :=
  vecMac 4 .nmsub d a b k s

/-- VWMACC (R173). -/
def execVwmacc (d a b : BitVec 5) (k : BitVec 3) (s : State) : Host.Outcome State Fault Refusal :=
  vecMac 4 .wmacc d a b k s

/-- VWMUL (R173). -/
def execVwmul (d a b : BitVec 5) (k : BitVec 3) (s : State) : Host.Outcome State Fault Refusal :=
  vecMac 4 .wmul d a b k s

/-- VWADD (R173). -/
def execVwadd (d a b : BitVec 5) (k : BitVec 3) (s : State) : Host.Outcome State Fault Refusal :=
  vecMac 4 .wadd d a b k s

/-- VWSUB (R173). -/
def execVwsub (d a b : BitVec 5) (k : BitVec 3) (s : State) : Host.Outcome State Fault Refusal :=
  vecMac 4 .wsub d a b k s

/-- VQMACC (R173). -/
def execVqmacc (d a b : BitVec 5) (k : BitVec 3) (s : State) : Host.Outcome State Fault Refusal :=
  vecMac 4 .qmacc d a b k s

/-! ### Major 16: special functions -/

/-- The special functions (R175). -/
inductive VSpec where
  | sqrt | rsqrt | rcp | exp2 | log2 | tanh | sigm
deriving DecidableEq, Repr

/-- The value of a special function (R175). -/
def VSpec.float (f : VSpec) (t : FFmt) (m : RMode) (a : FVal) : Nat × BitVec 5 :=
  match f with
  | .sqrt => t.sqrt m a
  | .rsqrt => t.rsqrt m a
  | .rcp => t.rcp m a
  | .exp2 => t.exp2 m a
  | .log2 => t.log2 m a
  | .tanh => t.tanh m a
  | .sigm => t.sigmoid m a

/-- The function has a meaning at a width: the last four not at binary64 (R175). -/
def VSpec.at (f : VSpec) (w : Nat) : Bool :=
  w ≠ 64 || f == .sqrt || f == .rsqrt || f == .rcp

/-- A special function on vs2 with its own rounding field (R175). -/
def vecSpecial (f : VSpec) (d : BitVec 5) (r : BitVec 3) (b : BitVec 5) (k : BitVec 3) (s : State) :
    Host.Outcome State Fault Refusal :=
  settle (do
    let c ← getC
    let gd := c.grp d
    let gb := c.grp b
    vecBegin ([gd, gb].flatMap Grp.regs)
    legal (gd.aligned && gb.aligned)
    streamCheck false gb
    streamCheck true gd
    let fmt ← dataTags none [gb]
    keptCheck gd k 0
    match floatOf fmt c.sew with
    | none => noClass
    | some t =>
      if !f.at c.sew then noClass
      else do
        elementLoop gd fmt k 0 fun i => do
          let x ← srcElem gb i
          floatElem true (c.roundCode r) fun m => f.float t m (t.decode x)
        vecRetire 4 k [gb, gd] fun _ => gd.record) s

/-- VSQRT (R175). -/
def execVsqrt (d : BitVec 5) (r : BitVec 3) (b : BitVec 5) (k : BitVec 3) (s : State) :
    Host.Outcome State Fault Refusal :=
  vecSpecial .sqrt d r b k s

/-- VRSQRT (R175). -/
def execVrsqrt (d : BitVec 5) (r : BitVec 3) (b : BitVec 5) (k : BitVec 3) (s : State) :
    Host.Outcome State Fault Refusal :=
  vecSpecial .rsqrt d r b k s

/-- VRCP (R175). -/
def execVrcp (d : BitVec 5) (r : BitVec 3) (b : BitVec 5) (k : BitVec 3) (s : State) :
    Host.Outcome State Fault Refusal :=
  vecSpecial .rcp d r b k s

/-- VEXP2 (R175). -/
def execVexp2 (d : BitVec 5) (r : BitVec 3) (b : BitVec 5) (k : BitVec 3) (s : State) :
    Host.Outcome State Fault Refusal :=
  vecSpecial .exp2 d r b k s

/-- VLOG2 (R175). -/
def execVlog2 (d : BitVec 5) (r : BitVec 3) (b : BitVec 5) (k : BitVec 3) (s : State) :
    Host.Outcome State Fault Refusal :=
  vecSpecial .log2 d r b k s

/-- VTANH (R175). -/
def execVtanh (d : BitVec 5) (r : BitVec 3) (b : BitVec 5) (k : BitVec 3) (s : State) :
    Host.Outcome State Fault Refusal :=
  vecSpecial .tanh d r b k s

/-- VSIGM (R175). -/
def execVsigm (d : BitVec 5) (r : BitVec 3) (b : BitVec 5) (k : BitVec 3) (s : State) :
    Host.Outcome State Fault Refusal :=
  vecSpecial .sigm d r b k s

/-- VCLASS: the class number of R154 as an unsigned integer (R176). -/
def execVclass (d b : BitVec 5) (k : BitVec 3) (s : State) : Host.Outcome State Fault Refusal :=
  settle (do
    let c ← getC
    let gd := c.grp d
    let gb := c.grp b
    vecBegin ([gd, gb].flatMap Grp.regs)
    legal (gd.aligned && gb.aligned)
    streamCheck false gb
    streamCheck true gd
    let fmt ← dataTags none [gb]
    keptCheck gd k 0
    match floatOf fmt c.sew with
    | none => noClass
    | some t => do
      elementLoop gd 1 k 0 fun i => do
        let x ← srcElem gb i
        pure (t.classOf x)
      vecRetire 4 k [gb, gd] fun _ => gd.record) s

/-! ### Major 16: conversions -/

/-- How the source width of a conversion stands to SEW. -/
inductive Narrow where
  | same | half | double
deriving DecidableEq, Repr

/-- The source group of a conversion (R167, R177, R179). -/
def Narrow.grp (n : Narrow) (c : Ctx) (b : BitVec 5) : Grp :=
  match n with
  | .same => c.grp b
  | .half => { reg := b.toNat, emul := max 1 (c.lmul / 2), eew := c.sew / 2 }
  | .double => { reg := b.toNat, emul := c.lmul * 2, eew := c.sew * 2 }

/-- The change of width is allowed, and the groups are aligned and apart (R167). -/
def Narrow.ok (n : Narrow) (c : Ctx) (gd gb : Grp) : Bool :=
  gd.aligned && gb.aligned &&
    (match n with
     | .same => true
     | .half => c.sew ≠ 8 && !gd.meets gb
     | .double => c.sew ≠ 64 && c.lmul ≠ 8 && !gd.meets gb)

/-- The conversion of one element between formats (R71, R177); none where it has no meaning. DESIGN CHOICE (log 71):
between integers it saturates, sets no flag and takes no draw. -/
def convert (code : BitVec 3) (sf sw df dw : Nat) : Option (Nat → M Nat) :=
  match floatOf sf sw, floatOf df dw with
  | some a, some b => some fun v => floatElem true code fun m => a.convert b m v
  | some a, none =>
    if isInteger df then some fun v => floatElem true code fun m => a.toInt m (df == 2) dw v else none
  | none, some b =>
    if isInteger sf then some fun v => floatElem true code fun m => b.ofInteger m (valueOf (sf == 2) sw v)
    else none
  | none, none =>
    if isInteger sf && isInteger df then
      some fun v => pure (wrapTo dw (satOf (df == 2) dw (valueOf (sf == 2) sw v)))
    else none

/-- Sub-values in a byte of a packed format (R61, R178). -/
def packCount (fmt : Nat) : Nat := if fmt = 9 then 4 else 2

/-- The bits of a sub-value that holds an integer (R61, R71, R178). -/
def packValue (fmt : Nat) (v : Int) : Nat :=
  if fmt = 7 then wrapTo 4 (satS 4 v)
  else if fmt = 8 then wrapTo 4 (satU 4 v)
  else if v = 0 then 0 else if 0 < v then 1 else 3

/-- The integer a sub-value holds; the ternary field 0b10 reads 0 (R61). -/
def unpackValue (fmt v : Nat) : Int :=
  if fmt = 7 then sintOf 4 v
  else if fmt = 8 then (v % 16 : Nat)
  else
    match v % 4 with
    | 1 => 1
    | 3 => -1
    | _ => 0

/-- The sub-values of a byte put together, from the lowest (R61). -/
def packByte (fmt : Nat) : List Int → Nat
  | [] => 0
  | v :: t => packValue fmt v + 2 ^ (8 / packCount fmt) * packByte fmt t

/-- VCVT to a packed format (R178). -/
def packGroup (d b : BitVec 5) (k : BitVec 3) : M Unit := do
  let c ← getC
  let pk := packCount c.vfmt
  let gd := c.grp d
  let gb : Grp := { reg := b.toNat, emul := c.lmul * pk, eew := 8 }
  legal (c.lmul * pk ≤ 8 && gd.aligned && gb.aligned)
  streamCheck false gb
  streamCheck true gd
  let fmt ← dataTags none [gb]
  keptCheck gd k 0
  if !isInteger fmt then noClass
  else do
    elementLoop gd c.vfmt k 0 fun i => do
      let vs ← (List.range pk).mapM fun j => srcElem gb (pk * i + j)
      pure (packByte c.vfmt (vs.map (valueOf (fmt == 2) 8)))
    vecRetire 4 k [gb, gd] fun _ => gd.record

/-- VCVT from a packed format to bytes (R178). -/
def unpackGroup (d b : BitVec 5) (k : BitVec 3) : M Unit := do
  let c ← getC
  let fmt := (c.vr b.toNat).fmt.toNat
  let pk := packCount fmt
  let gd := c.grp d
  let gb : Grp := { reg := b.toNat, emul := max 1 (c.lmul / pk), eew := 8 }
  legal (gd.aligned && gb.aligned)
  streamCheck false gb
  streamCheck true gd
  let _ ← dataTags none [gb]
  keptCheck gd k 0
  elementLoop gd c.vfmt k 0 fun i => do
    let cur ← getC
    let v := cur.elem gb (i / pk) / 2 ^ (8 / pk * (i % pk))
    pure (wrapTo 8 (satOf (c.vfmt == 2) 8 (unpackValue fmt v)))
  vecRetire 4 k [gd] fun _ => gd.record

/-- A conversion to (vtype.fmt, SEW) (R177). -/
def convertGroup (n : Narrow) (d : BitVec 5) (r : BitVec 3) (b : BitVec 5) (k : BitVec 3) : M Unit := do
  let c ← getC
  let gd := c.grp d
  let gb := n.grp c b
  if n ≠ .same then widthChange else pure ()
  legal (n.ok c gd gb)
  streamCheck false gb
  streamCheck true gd
  let fmt ← dataTags none [gb]
  keptCheck gd k 0
  match convert (c.roundCode r) fmt gb.eew c.vfmt c.sew with
  | none => noClass
  | some f =>
    if fmt = c.vfmt && n = .same then noClass
    else do
      elementLoop gd c.vfmt k 0 fun i => do
        let x ← srcElem gb i
        f x
      vecRetire 4 k [gb, gd] fun _ => gd.record

/-- VCVT: convert at SEW; to and from packed formats it packs and unpacks (R177, R178). -/
def execVcvt (d : BitVec 5) (r : BitVec 3) (b : BitVec 5) (k : BitVec 3) (s : State) :
    Host.Outcome State Fault Refusal :=
  settle (do
    let c ← getC
    let pk := if isPacked c.vfmt then packCount c.vfmt else 1
    vecBegin ((c.grp d).regs ++ (span b.toNat (c.lmul * pk)))
    let c ← getC
    if isPacked c.vfmt then packGroup d b k
    else if (c.slotOf b.toNat).isNone && isPacked (c.vr b.toNat).fmt.toNat && isInteger c.vfmt && c.sew = 8 then
      unpackGroup d b k
    else convertGroup .same d r b k) s

/-- VWCVT: from half the width (R177). -/
def execVwcvt (d : BitVec 5) (r : BitVec 3) (b : BitVec 5) (k : BitVec 3) (s : State) :
    Host.Outcome State Fault Refusal :=
  settle (do
    let c ← getC
    vecBegin ((c.grp d).regs ++ (Narrow.half.grp c b).regs)
    convertGroup .half d r b k) s

/-- VNCVT: from twice the width (R177). -/
def execVncvt (d : BitVec 5) (r : BitVec 3) (b : BitVec 5) (k : BitVec 3) (s : State) :
    Host.Outcome State Fault Refusal :=
  settle (do
    let c ← getC
    vecBegin ((c.grp d).regs ++ (Narrow.double.grp c b).regs)
    convertGroup .double d r b k) s

/-- An extension or a clip of an integer source: `out` gives the destination format of the source's (R179). -/
def vecExtend (n : Narrow) (out : Nat → Nat) (f : Nat → Ctx → Nat → Nat) (d b : BitVec 5) (k : BitVec 3)
    (s : State) : Host.Outcome State Fault Refusal :=
  settle (do
    let c ← getC
    let gd := c.grp d
    let gb := n.grp c b
    vecBegin ([gd, gb].flatMap Grp.regs)
    widthChange
    legal (n.ok c gd gb)
    streamCheck false gb
    streamCheck true gd
    let fmt ← dataTags none [gb]
    keptCheck gd k 0
    if !isInteger fmt then noClass
    else do
      elementLoop gd (out fmt) k 0 fun i => do
        let x ← srcElem gb i
        pure (f fmt c x)
      vecRetire 4 k [gb, gd] fun _ => gd.record) s

/-- VSEXT: sign-extends, tagged signed (R179). -/
def execVsext (d b : BitVec 5) (k : BitVec 3) (s : State) : Host.Outcome State Fault Refusal :=
  vecExtend .half (fun _ => 2) (fun _ c x => wrapTo c.sew (sintOf (c.sew / 2) x)) d b k s

/-- VZEXT: zero-extends, tagged unsigned (R179). -/
def execVzext (d b : BitVec 5) (k : BitVec 3) (s : State) : Host.Outcome State Fault Refusal :=
  vecExtend .half (fun _ => 1) (fun _ _ x => x) d b k s

/-- VNCLIP: saturates at SEW by the source's signedness, which it keeps (R179). -/
def execVnclip (d b : BitVec 5) (k : BitVec 3) (s : State) : Host.Outcome State Fault Refusal :=
  vecExtend .double id (fun fmt c x =>
    wrapTo c.sew (satOf (fmt == 2) c.sew (valueOf (fmt == 2) (2 * c.sew) x))) d b k s

end Sys2Proof.Machine
end

