-- ==== Sys2Proof/Machine/VecPerm.lean ====
section
/-!
DEFINITION. Permutes, compares, mask operations and reductions: majors 17 and 18 with M = 0 (R76, R77,
R180 to R184).
-/
namespace Sys2Proof.Machine

/-! ### Permutes, major 17 -/

/-- G(s, j): nothing from VLMAX on, nothing of the tail unless it is kept (R180). -/
def gatherRead (g : Grp) (j : Nat) : M Nat := do
  let s ← get
  if s.vlmax ≤ j || (s.ctx.vl.toNat ≤ j && !s.ctx.tailKeep) then pure 0 else srcElem g j

/-- The checks of a permute: the data sources in order, then the index sources (R166, R167, R180). -/
def permuteChecks (gd : Grp) (data index : List Grp) : M Nat := do
  vecBegin ((gd :: data ++ index).flatMap Grp.regs)
  legal ((gd :: data ++ index).all Grp.aligned && (data ++ index).all fun g => !gd.meets g)
  (data ++ index).forM (streamCheck false)
  streamCheck true gd
  let fmt ← dataTags none data
  index.forM indexTags
  pure fmt

/-- A permute that follows the element loop (R168, R180). -/
def permute (gd : Grp) (data index : List Grp) (k : BitVec 3) (skip : Nat) (result : Nat → M Nat) (s : State) :
    Host.Outcome State Fault Refusal :=
  settle (do
    let fmt ← permuteChecks gd data index
    keptCheck gd k skip
    elementLoop gd fmt k skip result
    vecRetire 4 k (data ++ index ++ [gd]) fun _ => gd.record) s

/-- VGATHER: result(i) = G(vs1, vs2[i]) (R180). -/
def execVgather (d a b : BitVec 5) (k : BitVec 3) (s : State) : Host.Outcome State Fault Refusal :=
  let c := s.ctx
  permute (c.grp d) [c.grp a] [c.grp b] k 0 (fun i => do
    let j ← srcElem (c.grp b) i
    gatherRead (c.grp a) j) s

/-- VSLIDEUP: result(i) = vs1[i - X[N]]; below X[N] every element is kept under every policy (R180). -/
def execVslideup (d a b : BitVec 5) (k : BitVec 3) (s : State) : Host.Outcome State Fault Refusal :=
  let c := s.ctx
  let n := (c.rx b).toNat
  permute (c.grp d) [c.grp a] [] k n (fun i => srcElem (c.grp a) (i - n)) s

/-- VSLIDEDN: result(i) = G(vs1, i + X[N]) (R180). -/
def execVslidedn (d a b : BitVec 5) (k : BitVec 3) (s : State) : Host.Outcome State Fault Refusal :=
  let c := s.ctx
  permute (c.grp d) [c.grp a] [] k 0 (fun i => gatherRead (c.grp a) (i + (c.rx b).toNat)) s

/-- VREV: result(i) = vs1[vl - 1 - i] (R180). -/
def execVrev (d a : BitVec 5) (k : BitVec 3) (s : State) : Host.Outcome State Fault Refusal :=
  let c := s.ctx
  permute (c.grp d) [c.grp a] [] k 0 (fun i => srcElem (c.grp a) (c.vl.toNat - 1 - i)) s

/-- VBCAST: result(i) = G(vs2, X[N]) (R180). -/
def execVbcast (d a b : BitVec 5) (k : BitVec 3) (s : State) : Host.Outcome State Fault Refusal :=
  let c := s.ctx
  permute (c.grp d) [c.grp b] [] k 0 (fun _ => gatherRead (c.grp b) (c.rx a).toNat) s

/-- VINSR: the scalar in element 0, vs1 moved up by one (R180). -/
def execVinsr (d a b : BitVec 5) (k : BitVec 3) (s : State) : Host.Outcome State Fault Refusal :=
  let c := s.ctx
  permute (c.grp d) [c.grp a] [] k 0 (fun i =>
    if i = 0 then pure ((c.rx b).toNat % 2 ^ c.sew) else srcElem (c.grp a) (i - 1)) s

/-- VZIP: even elements from vs1, odd ones from vs2 (R180). -/
def execVzip (d a b : BitVec 5) (k : BitVec 3) (s : State) : Host.Outcome State Fault Refusal :=
  let c := s.ctx
  permute (c.grp d) [c.grp a, c.grp b] [] k 0 (fun i => srcElem (c.grp (if i % 2 = 0 then a else b)) (i / 2)) s

/-- VUNZIP: the even elements of vs1 followed by vs2 (R180). -/
def execVunzip (d a b : BitVec 5) (k : BitVec 3) (s : State) : Host.Outcome State Fault Refusal :=
  let c := s.ctx
  let vl := c.vl.toNat
  permute (c.grp d) [c.grp a, c.grp b] [] k 0 (fun i =>
    if 2 * i < vl then srcElem (c.grp a) (2 * i) else srcElem (c.grp b) (2 * i - vl)) s

/-- The first register tagged none that keeps a tail after `n` elements (R43, R181, R184). -/
def State.keptTail (s : State) (g : Grp) (n : Nat) : Option Nat :=
  let per := s.perReg g.eew
  (List.range g.emul).findSome? fun j =>
    if s.ctx.tailKeep && n < (j + 1) * per && (s.ctx.vr (g.reg + j)).fmt == 0 then some (g.reg + j) else none

/-- Cause 0x06 for it. -/
def keptTailCheck (g : Grp) (n : Nat) : M Unit := fun s =>
  match s.keptTail g n with
  | some r => .error (.trap 0x06#8 (BitVec.ofNat 64 r)) s
  | none => .ok () s

/-- The values of a destination from element 0, and its tail after them. -/
def Ctx.writeGroup (c : Ctx) (g : Grp) (fmt : Nat) (vs : List Nat) : Ctx :=
  (vs.zipIdx.foldl (fun c p => c.putElem g p.2 p.1) c).close g fmt vs.length

/-- Elements of a source, each as element i of the instruction. -/
def readElems (g : Grp) (is : List Nat) : M (List Nat) := is.mapM fun i => atElement i (srcElem g i)

/-- Every element that goes to a store stream is checked before anything is written; no mask holds one
back (R266, R267). -/
def deliverChecks (g : Grp) : M Unit := do
  let c ← getC
  (List.range (min c.vl.toNat g.length)).forM fun i => atElement i (deliverCheck g i)

/-- VCOMPRESS: the masked elements in ascending order, then tail (R181). -/
def execVcompress (d a : BitVec 5) (k : BitVec 3) (s : State) : Host.Outcome State Fault Refusal :=
  settle (do
    let c ← getC
    let gd := c.grp d
    let ga := c.grp a
    let fmt ← permuteChecks gd [ga] []
    let is := (List.range c.vl.toNat).filter fun i => c.kbit k i
    if c.vl = 0 then pure ()
    else do
      keptTailCheck gd is.length
      let vs ← readElems ga is
      deliverChecks gd
      modC fun x => x.writeGroup gd fmt vs
    vecRetire 4 0 [ga, gd] fun _ => gd.record) s

/-- VEXTR: X[d] = G(vs1, X[N]), extended by the tag (R40, R181). -/
def execVextr (d a b : BitVec 5) (s : State) : Host.Outcome State Fault Refusal :=
  settle (do
    let c ← getC
    let ga := c.grp a
    vecBegin ga.regs
    legal ga.aligned
    streamCheck false ga
    let fmt ← dataTags none [ga]
    let v ← atElement (c.rx b).toNat (gatherRead ga (c.rx b).toNat)
    modC fun x => x.setX d (BitVec.ofInt 64 (valueOf (fmt == 2) c.sew v))
    vecRetire 4 0 [ga] fun _ => ldX d) s

/-! ### Compares (R182) -/

/-- The comparison of R182 by op 0 EQ, 1 NE, 2 LT, 3 LE, 4 GT, 5 GE. -/
def intCompare (op : Nat) (a b : Int) : Bool :=
  match op with
  | 0 => a == b
  | 1 => a != b
  | 2 => a < b
  | 3 => a ≤ b
  | 4 => b < a
  | _ => b ≤ a

/-- A compare of vs1 with a group or a scalar (R182). -/
def vecCompare (op : Nat) (d : BitVec 3) (a : BitVec 5) (b : VSrc) (k : BitVec 3) (s : State) :
    Host.Outcome State Fault Refusal :=
  settle (do
    let c ← getC
    let srcs := c.grp a :: b.grps c
    vecBegin (srcs.flatMap Grp.regs)
    legal (d ≠ 0 && srcs.all Grp.aligned)
    srcs.forM (streamCheck false)
    let fmt ← dataTags none srcs
    let float := floatOf fmt c.sew
    if !isInteger fmt && float.isNone then noClass
    else do
      maskLoop d k fun i => do
        let x ← srcElem (c.grp a) i
        let y ← b.elem c i
        match float with
        | some t => do
          let r := t.compare op x y
          raiseFlags r.2
          pure r.1
        | none => pure (intCompare op (valueOf (fmt == 2) c.sew x) (valueOf (fmt == 2) c.sew y))
      vecRetire 4 k srcs fun _ => ldK d) s

/-- VCMPEQ with a group (R182). -/
def execVcmpeqVv (d : BitVec 3) (a b : BitVec 5) (k : BitVec 3) (s : State) : Host.Outcome State Fault Refusal :=
  vecCompare 0 d a (.vec b) k s

/-- VCMPEQ with a scalar (R182). -/
def execVcmpeqVx (d : BitVec 3) (a b : BitVec 5) (k : BitVec 3) (s : State) : Host.Outcome State Fault Refusal :=
  vecCompare 0 d a (.scalar b) k s

/-- VCMPNE with a group (R182). -/
def execVcmpneVv (d : BitVec 3) (a b : BitVec 5) (k : BitVec 3) (s : State) : Host.Outcome State Fault Refusal :=
  vecCompare 1 d a (.vec b) k s

/-- VCMPNE with a scalar (R182). -/
def execVcmpneVx (d : BitVec 3) (a b : BitVec 5) (k : BitVec 3) (s : State) : Host.Outcome State Fault Refusal :=
  vecCompare 1 d a (.scalar b) k s

/-- VCMPLT with a group (R182). -/
def execVcmpltVv (d : BitVec 3) (a b : BitVec 5) (k : BitVec 3) (s : State) : Host.Outcome State Fault Refusal :=
  vecCompare 2 d a (.vec b) k s

/-- VCMPLT with a scalar (R182). -/
def execVcmpltVx (d : BitVec 3) (a b : BitVec 5) (k : BitVec 3) (s : State) : Host.Outcome State Fault Refusal :=
  vecCompare 2 d a (.scalar b) k s

/-- VCMPLE with a group (R182). -/
def execVcmpleVv (d : BitVec 3) (a b : BitVec 5) (k : BitVec 3) (s : State) : Host.Outcome State Fault Refusal :=
  vecCompare 3 d a (.vec b) k s

/-- VCMPLE with a scalar (R182). -/
def execVcmpleVx (d : BitVec 3) (a b : BitVec 5) (k : BitVec 3) (s : State) : Host.Outcome State Fault Refusal :=
  vecCompare 3 d a (.scalar b) k s

/-- VCMPGT with a group (R182). -/
def execVcmpgtVv (d : BitVec 3) (a b : BitVec 5) (k : BitVec 3) (s : State) : Host.Outcome State Fault Refusal :=
  vecCompare 4 d a (.vec b) k s

/-- VCMPGT with a scalar (R182). -/
def execVcmpgtVx (d : BitVec 3) (a b : BitVec 5) (k : BitVec 3) (s : State) : Host.Outcome State Fault Refusal :=
  vecCompare 4 d a (.scalar b) k s

/-- VCMPGE with a group (R182). -/
def execVcmpgeVv (d : BitVec 3) (a b : BitVec 5) (k : BitVec 3) (s : State) : Host.Outcome State Fault Refusal :=
  vecCompare 5 d a (.vec b) k s

/-- VCMPGE with a scalar (R182). -/
def execVcmpgeVx (d : BitVec 3) (a b : BitVec 5) (k : BitVec 3) (s : State) : Host.Outcome State Fault Refusal :=
  vecCompare 5 d a (.scalar b) k s

/-! ### Mask operations (R183) -/

/-- Bits vstart to vl - 1 of a mask computed from two masks; vstart at or above vl writes nothing (R48, R59,
R183). -/
def maskOp (len : Nat) (f : Bool → Bool → Bool) (d a b : BitVec 3) (s : State) :
    Host.Outcome State Fault Refusal :=
  settle (do
    vecBegin []
    legal (d ≠ 0)
    let c ← getC
    let lo := c.vstart.toNat
    let hi := c.vl.toNat
    let bits := (span lo (hi - lo)).foldl (fun m i => splice m i 1 (natOf (f (c.kbit a i) (c.kbit b i)))) (c.k.get d.toFin)
    if hi ≤ lo then pure () else modC fun x => (x.setK d bits).closeK d
    vecRetire len 0 [] fun _ => ldK d) s

/-- KAND: s1 AND s2 (R183). -/
def execKand (d a b : BitVec 3) (s : State) : Host.Outcome State Fault Refusal := maskOp 4 Bool.and d a b s

/-- KOR: s1 OR s2 (R183). -/
def execKor (d a b : BitVec 3) (s : State) : Host.Outcome State Fault Refusal := maskOp 4 Bool.or d a b s

/-- KXOR: s1 XOR s2 (R183). -/
def execKxor (d a b : BitVec 3) (s : State) : Host.Outcome State Fault Refusal := maskOp 4 Bool.xor d a b s

/-- KANDN: s1 AND NOT s2 (R183). -/
def execKandn (d a b : BitVec 3) (s : State) : Host.Outcome State Fault Refusal := maskOp 4 (fun x y => x && !y) d a b s

/-- KNOT: NOT s1 (R183). -/
def execKnot (d a : BitVec 3) (s : State) : Host.Outcome State Fault Refusal := maskOp 4 (fun x _ => !x) d a 0 s

/-- KPOPC: the one bits below vl (R183). -/
def execKpopc (d : BitVec 5) (a : BitVec 3) (s : State) : Host.Outcome State Fault Refusal :=
  settle (do
    vecBegin []
    let c ← getC
    let n := ((List.range c.vl.toNat).filter fun i => c.kbit a i).length
    modC fun x => x.setX d (BitVec.ofNat 64 n)
    vecRetire 4 0 [] fun _ => ldX d) s

/-- KFIRST: the lowest one bit below vl, all ones when there is none (R183). -/
def execKfirst (d : BitVec 5) (a : BitVec 3) (s : State) : Host.Outcome State Fault Refusal :=
  settle (do
    vecBegin []
    let c ← getC
    let v := match (List.range c.vl.toNat).find? fun i => c.kbit a i with
      | some i => BitVec.ofNat 64 i
      | none => BitVec.allOnes 64
    modC fun x => x.setX d v
    vecRetire 4 0 [] fun _ => ldX d) s

/-! ### Reductions (R76, R77, R184) -/

/-- The operators of the reductions (R184). -/
inductive VRedOp where
  | sum | max | min | and | or | xor
deriving DecidableEq, Repr

/-- The identity of an operator on integers (R184). -/
def VRedOp.intIdentity (f : VRedOp) (sg : Bool) (n : Nat) : Nat :=
  match f with
  | .sum => 0
  | .or => 0
  | .xor => 0
  | .and => 2 ^ n - 1
  | .max => if sg then 2 ^ (n - 1) else 0
  | .min => if sg then 2 ^ (n - 1) - 1 else 2 ^ n - 1

/-- The operator on integers (R184). -/
def VRedOp.int (f : VRedOp) (sg : Bool) (n a b : Nat) : Nat :=
  match f with
  | .sum => (a + b) % 2 ^ n
  | .and => Nat.land a b
  | .or => Nat.lor a b
  | .xor => Nat.xor a b
  | .max => if valueOf sg n a < valueOf sg n b then b else a
  | .min => if valueOf sg n a < valueOf sg n b then a else b

/-- Infinity, or the largest finite value where the format has none (R76). -/
def FFmt.far (t : FFmt) (neg : Bool) : Nat := if t.e4m3 then t.maxFinite neg else t.inf neg

/-- The identity of an operator on floating values (R76); none for the bitwise ones. -/
def VRedOp.floatIdentity (f : VRedOp) (t : FFmt) : Option Nat :=
  match f with
  | .sum => some (t.zero true)
  | .max => some (t.far true)
  | .min => some (t.far false)
  | _ => none

/-- The operator on floating values (R76). -/
def VRedOp.float (f : VRedOp) (t : FFmt) (m : RMode) (a b : Nat) : Nat × BitVec 5 :=
  match f with
  | .max => t.minmax true a b
  | .min => t.minmax false a b
  | _ => t.add m (t.decode a) (t.decode b)

/-- One level of the pairwise tree (R76). -/
def pairLevel (op : Nat → Nat → Nat × BitVec 5) : List Nat → List Nat × BitVec 5
  | a :: b :: t =>
    let v := op a b
    let r := pairLevel op t
    (v.1 :: r.1, v.2 ||| r.2)
  | l => (l, 0)

/-- The pairwise tree over a power of two of values: the result and every flag (R76). -/
def pairTree (op : Nat → Nat → Nat × BitVec 5) : Nat → List Nat → Nat × BitVec 5
  | 0, l => (l.headD 0, 0)
  | n + 1, l =>
    let r := pairLevel op l
    let t := pairTree op n r.1
    (t.1, t.2 ||| r.2)

/-- The smallest k with 2^k at least n. -/
def log2Up (n : Nat) : Nat := if n ≤ 1 then 0 else Nat.log2 (n - 1) + 1

/-- The tree of R76 over `ws`, with the initial value first in the last operation. -/
def treeOf (op : Nat → Nat → Nat × BitVec 5) (identity init : Nat) (ws : List Nat) : Nat × BitVec 5 :=
  let k := log2Up ws.length
  let w := pairTree op k (ws ++ List.replicate (2 ^ k - ws.length) identity)
  let r := op init w.1
  (r.1, r.2 ||| w.2)

/-- The sequential sum of R77: under RSR one draw for each addition. -/
def seqSum (t : FFmt) (code : BitVec 3) : Nat → List Nat → M Nat
  | acc, [] => pure acc
  | acc, v :: vs => do
    let r ← floatElem true code fun m => t.add m (t.decode acc) (t.decode v)
    seqSum t code r vs

/-- What a reduction makes of the format, the initial value, the elements below vl and the active ones; with none
active the initial value is combined once with the identity (R184), which takes no draw (R8, R69). DESIGN CHOICE (log 71):
a VREDO takes neither an addition nor a draw for an element below vstart. -/
def reduceValue (f : VRedOp) (ordered : Bool) (fmt sew init : Nat) (active : Nat → Bool) (vs : List Nat) :
    M Nat := do
  let c ← getC
  match floatOf fmt sew with
  | none =>
    let e := f.intIdentity (fmt == 2) sew
    pure (treeOf (fun a b => (f.int (fmt == 2) sew a b, 0)) e init
      (vs.zipIdx.map fun p => if active p.2 then p.1 else e)).1
  | some t =>
    let e := (f.floatIdentity t).getD 0
    if ordered then
      let as := (vs.zipIdx.filter fun p => active p.2).map (·.1)
      if as.isEmpty then floatElem false c.frm fun m => t.add m (t.decode init) (t.decode e)
      else seqSum t c.frm init as
    else do
      let r := treeOf (f.float t c.treeMode) e init (vs.zipIdx.map fun p => if active p.2 then p.1 else e)
      raiseFlags r.2
      pure r.1

/-- A reduction of vs1 from element 0 of vs2 (R184). DESIGN CHOICE (log 85): the high-water mark of vd covers element 0, as
R184 makes the others tail, though R44 counts elements below vl. -/
def reduction (f : VRedOp) (ordered : Bool) (d a b : BitVec 5) (k : BitVec 3) (s : State) :
    Host.Outcome State Fault Refusal :=
  settle (do
    let c ← getC
    let gd : Grp := { reg := d.toNat, emul := 1, eew := c.sew }
    let ga := c.grp a
    let gb : Grp := { reg := b.toNat, emul := 1, eew := c.sew }
    vecBegin ([gd, ga, gb].flatMap Grp.regs)
    legal ga.aligned
    streamCheck false ga
    streamCheck false gb
    streamCheck true gd
    let fmt ← dataTags none [ga, gb]
    if c.vl.toNat ≤ c.vstart.toNat then pure () else keptTailCheck gd 1
    let okF := match floatOf fmt c.sew with
      | some t => (f.floatIdentity t).isSome
      | none => false
    if !isInteger fmt && !okF then noClass
    else do
      let vl := c.vl.toNat
      if vl ≤ c.vstart.toNat then pure ()
      else do
        let active : Nat → Bool := fun i => c.vstart.toNat ≤ i && c.kbit k i
        let vs ← (List.range vl).mapM fun i => if active i then atElement i (srcElem ga i) else pure 0
        let init ← atElement 0 (srcElem gb 0)
        deliverChecks gd
        let v ← reduceValue f ordered fmt c.sew init active vs
        modC fun x => x.writeGroup gd fmt [v]
      vecRetire 4 0 [ga, gb, gd] fun _ => gd.record) s

/-- VRED (R184). -/
def execVred (d a b : BitVec 5) (k : BitVec 3) (s : State) : Host.Outcome State Fault Refusal :=
  reduction .sum false d a b k s

/-- VREDMAX (R184). -/
def execVredmax (d a b : BitVec 5) (k : BitVec 3) (s : State) : Host.Outcome State Fault Refusal :=
  reduction .max false d a b k s

/-- VREDMIN (R184). -/
def execVredmin (d a b : BitVec 5) (k : BitVec 3) (s : State) : Host.Outcome State Fault Refusal :=
  reduction .min false d a b k s

/-- VREDAND (R184). -/
def execVredand (d a b : BitVec 5) (k : BitVec 3) (s : State) : Host.Outcome State Fault Refusal :=
  reduction .and false d a b k s

/-- VREDOR (R184). -/
def execVredor (d a b : BitVec 5) (k : BitVec 3) (s : State) : Host.Outcome State Fault Refusal :=
  reduction .or false d a b k s

/-- VREDXOR (R184). -/
def execVredxor (d a b : BitVec 5) (k : BitVec 3) (s : State) : Host.Outcome State Fault Refusal :=
  reduction .xor false d a b k s

/-- VREDO (R184). -/
def execVredo (d a b : BitVec 5) (k : BitVec 3) (s : State) : Host.Outcome State Fault Refusal :=
  reduction .sum true d a b k s

end Sys2Proof.Machine
end

