-- ==== Sys2Proof/Machine/VecMem.lean ====
section
/-!
DEFINITION. Vector loads and stores, majors 19 and 20 (R185 to R193).
-/
namespace Sys2Proof.Machine

/-- The address modes of R185. -/
inductive VMode where
  | unit
  | stride (r : BitVec 5)
  | index (r : BitVec 5)
  | segments
  | strideSegments (r : BitVec 5)
deriving DecidableEq, Repr

/-- The address of element i, field f (R187). -/
def VMode.addr (m : VMode) (c : Ctx) (a : BitVec 5) (nf i f : Nat) : M Word := do
  let base := (c.rx a).toInt
  let esz : Int := c.sew / 8
  match m with
  | .unit => pure (BitVec.ofInt 64 (base + i * esz))
  | .stride r => pure (BitVec.ofInt 64 (base + i * (c.rx r).toInt))
  | .index r => do
    let x ← srcElem (c.grp r) i
    pure (BitVec.ofInt 64 (base + x))
  | .segments => pure (BitVec.ofInt 64 (base + (i * nf + f) * esz))
  | .strideSegments r => pure (BitVec.ofInt 64 (base + i * (c.rx r).toInt + f * esz))

/-- The index group of a mode. -/
def VMode.groups (m : VMode) (c : Ctx) : List Grp :=
  match m with
  | .index r => [c.grp r]
  | _ => []

/-- The group of field f (R186). -/
def fieldGrp (c : Ctx) (d : BitVec 5) (f : Nat) : Grp :=
  { reg := d.toNat + f * c.lmul, emul := c.lmul, eew := c.sew }

/-- The groups of every field. -/
def fieldGrps (c : Ctx) (d : BitVec 5) (nf : Nat) : List Grp := (List.range nf).map (fieldGrp c d)

/-- The checks of R186 before any stream, tag or access. DESIGN CHOICE (log 69): where a guest's vtype and a group's
alignment or range both fail, which the table leaves open, 0x0D comes first. -/
def vmemBegin (m : VMode) (d : BitVec 5) (nf : Nat) : M Unit := do
  let c ← getC
  let s ← get
  vecBegin ((fieldGrps c d nf ++ m.groups c).flatMap Grp.regs)
  if s.kind = .guest && (c.sew ≠ 32 || c.lmul ≠ 1) then trap 0x0D c.pc else pure ()
  legal ((c.grp d).aligned && (m.groups c).all Grp.aligned && nf * c.lmul ≤ 8 && d.toNat + nf * c.lmul ≤ 32)

/-- What a load checks of its operands: streams, the format of vtype, the index tags (R188, R267). DESIGN CHOICE (log 85):
where vtype gives no format and an index tag fails too, vtype's comes first, with vd as info. -/
def loadOperands (m : VMode) (d : BitVec 5) (nf : Nat) (seg : Bool) : M Unit := do
  let c ← getC
  (m.groups c).forM (streamCheck false)
  if seg then noStream ((fieldGrps c d nf).flatMap Grp.regs) else streamCheck true (c.grp d)
  demand (c.vfmt ≠ 0) 0x06 (zx d)
  (m.groups c).forM indexTags

/-- The fields of element i loaded. -/
def loadElement (m : VMode) (c : Ctx) (d a : BitVec 5) (nf i : Nat) (seg : Bool) : M Unit := do
  let esz := c.sew / 8
  let vs ← (List.range nf).mapM fun f => do
    let p ← m.addr c a nf i f
    memRead p esz
  if seg then pure () else deliverCheck (c.grp d) i
  vs.zipIdx.forM fun p => modC fun x => x.putElem (fieldGrp c d p.2) i p.1

/-- A masked-off element under the mask policy (R168, R188). -/
def maskedElement (c : Ctx) (d : BitVec 5) (nf i : Nat) : M Unit :=
  if c.maskZero then (List.range nf).forM fun f => modC fun x => x.putElem (fieldGrp c d f) i 0 else pure ()

/-- Completion of a load: tails, tags and high-water marks of every field (R42, R44, R188). -/
def closeFields (c : Ctx) (d : BitVec 5) (nf : Nat) : M Unit :=
  (fieldGrps c d nf).forM fun g => modC fun x => x.close g c.vfmt c.vl.toNat

/-- A vector load without a qualifier (R188, R190). -/
def vecLoad (m : VMode) (d a : BitVec 5) (k : BitVec 3) (nf : Nat) (seg : Bool) (s : State) :
    Host.Outcome State Fault Refusal :=
  settle (do
    vmemBegin m d nf
    loadOperands m d nf seg
    let c ← getC
    if c.vl.toNat ≤ c.vstart.toNat then pure ()
    else do
      (fieldGrps c d nf).forM fun g => keptCheck g k 0
      forElements fun i => if c.kbit k i then loadElement m c d a nf i seg else maskedElement c d nf i
      closeFields c d nf
    vecRetire 4 k (m.groups c ++ (if seg then [] else [c.grp d])) fun _ => ldV d) s

/-! ### Full-empty loads (R192, R193) -/

/-- The granule of an address of the stash window or a stash map (R89, R192). -/
def State.feGranule (s : State) (a : Word) : Option Nat :=
  if windowBase ≤ a.toNat && a.toNat < 2 ^ 55 then some ((a.toNat - windowBase) / 16) else s.granuleOf a.toNat

/-- The lowest-indexed element that shares its granule with an element of another group (R192). -/
def aliased (l : List (Nat × Option Nat)) : Option Nat :=
  (l.find? fun p => p.2.isSome && l.any fun q => q.2 == p.2 && q.1 / 16 != p.1 / 16).map (·.1)

/-- An instruction whose active elements alias as R192 forbids takes cause 0x07 before any access, at the lowest of
them. DESIGN CHOICE (log 85): its info is that element's address. -/
def noAlias (l : List (Nat × Word × Option Nat)) : M Unit :=
  match aliased (l.map fun p => (p.1, p.2.2)) with
  | none => pure ()
  | some i => atElement i (trap 0x07 (((l.find? fun p => p.1 == i).map (·.2.1)).getD 0))

/-- One element of a full-empty step checked: its place and granule (R89, R193). No context of an L tile makes the
load (R334). -/
def feCheck (a : Word) (n : Nat) : M (Phys × Nat) := do
  let ph ← checkAccess .load a n
  let s ← get
  match ph.granule with
  | some g => if ((s.tileOf s.cur).map (·.desc.second)).getD false then trap 0x05 a else pure (ph, g)
  | none => trap 0x05 a

/-- One step of R193 for the elements from `lo` to `hi - 1`: check, wait, read and clear; it ends as an acquire at core scope. The waits of R36 come after
the checks of the whole group. -/
def feStep (m : VMode) (c : Ctx) (d a : BitVec 5) (k : BitVec 3) (clear : Bool) (lo hi : Nat) : M Unit :=
  atStep lo (do
    let esz := c.sew / 8
    let is := span lo (hi - lo)
    let pls ← (is.filter fun i => c.kbit k i).mapM fun i => do
      let p ← m.addr c a 1 i 0
      let ph ← feCheck p esz
      deliverCheck (c.grp d) i
      pure (i, p, ph)
    pls.forM fun p => stalls .load p.2.1 esz p.2.2.1
    let gs := pls.foldl (fun l p => setAdd p.2.2.2 l) []
    modS fun s => gs.foldl State.touch (pls.foldl (fun s p => s.claim p.2.2.1 esz) s)
    let s ← get
    if gs.all fun g => s.full.contains g && !(clear && s.reserved s.cur g) then do
      pls.forM fun p => do
        let s ← get
        set ((s.noteRead p.2.2.1).upd fun x => x.putElem (c.grp d) p.1 (s.readN p.2.2.1.key esz))
      if clear then modS fun s => { s with full := gs.foldl setDrop s.full } else pure ()
      is.forM fun i => if c.kbit k i then pure () else maskedElement c d 1 i
      acquire 1
    else fun s => .error (.wait (.granules gs clear) false) s)

/-- The addresses of the active elements from `lo` to before `hi`, as far as they are known before any of them is checked:
an element of an index stream whose read would trap or wait has none. -/
def VMode.foresee (m : VMode) (c : Ctx) (a : BitVec 5) (k : BitVec 3) (nf lo hi : Nat) : M (List (Nat × Word)) := do
  let ps := ((span lo (hi - lo)).filter fun i => c.kbit k i).flatMap fun i => (List.range nf).map fun f => (i, f)
  let ws ← ps.mapM fun p => foreseen (m.addr c a nf p.1 p.2)
  pure ((ps.zip ws).filterMap fun x => x.2.map fun w => (x.1.1, w))

/-- A full-empty qualified load (R192, R193). -/
def feLoad (m : VMode) (d a : BitVec 5) (k : BitVec 3) (clear : Bool) (s : State) :
    Host.Outcome State Fault Refusal :=
  settle (do
    vmemBegin m d 1
    loadOperands m d 1 false
    let c ← getC
    let lo := c.vstart.toNat
    let hi := c.vl.toNat
    if hi ≤ lo then pure ()
    else do
      keptCheck (c.grp d) k 0
      let s ← get
      let ps ← m.foresee c a k 1 lo hi
      noAlias (ps.map fun p => (p.1, p.2, s.feGranule p.2))
      forGroups (feStep m c d a k clear)
      closeFields c d 1
    vecRetire 4 k (m.groups c ++ [c.grp d]) fun _ => ldV d) s

/-- A non-segment load by its qualifier: none, .fe or .fe.clr (R139, R186). -/
def qualifiedLoad (m : VMode) (d a : BitVec 5) (k : BitVec 3) (f : BitVec 2) (s : State) :
    Host.Outcome State Fault Refusal :=
  if f = 0 then vecLoad m d a k 1 false s
  else if f = 3 then settle reserved s
  else feLoad m d a k (f == 2) s

/-- A segment load or store of one field is cause 0x02 (R186). -/
def segmentsOk (n : BitVec 3) : M Unit := if n = 0 then reserved else pure ()

/-! ### Stores (R189, R190) -/

/-- What a store checks of its operands: streams, data tags, index tags (R189, R267). -/
def storeOperands (m : VMode) (d : BitVec 5) (nf : Nat) : M Unit := do
  let c ← getC
  (m.groups c).forM (streamCheck false)
  (fieldGrps c d nf).forM (streamCheck false)
  (fieldGrps c d nf).forM fun g => do
    let c ← getC
    match g.regs.find? fun r => (c.srcTag g r).1 == 0 || (c.srcTag g r).2 != g.eew with
    | some r => trap 0x06 (BitVec.ofNat 64 r)
    | none => pure ()
  (m.groups c).forM indexTags

/-- The addresses of the active elements from `lo` to before `hi`, field by field. -/
def VMode.addrs (m : VMode) (c : Ctx) (a : BitVec 5) (k : BitVec 3) (nf lo hi : Nat) : M (List (Nat × Nat × Word)) :=
  (((span lo (hi - lo)).filter fun i => c.kbit k i).flatMap fun i => (List.range nf).map fun f => (i, f)).mapM
    fun p => atElement p.1 (do
      let w ← m.addr c a nf p.1 p.2
      pure (p.1, p.2, w))

/-- The stage-queue granule of an address (R258). -/
def State.queueGranule (s : State) (a : Word) : Option Nat := (s.feGranule a).filter fun g => (s.queueOf g).isSome

/-- One group of a store into stage queues: it checks its elements, waits until every granule it touches there is
empty, and writes them all in one step (R259). The wait for empty is not architectural. -/
def queueStep (m : VMode) (c : Ctx) (d a : BitVec 5) (k : BitVec 3) (nf lo hi : Nat) : M Unit :=
  atStep lo (do
    let esz := c.sew / 8
    let ps ← m.addrs c a k nf lo hi
    let ws ← ps.mapM fun p => do
      let v ← srcElem (fieldGrp c d p.2.1) p.1
      let ph ← checkAccess .store p.2.2 esz
      pure (p.2.2, ph, v)
    ws.forM fun w => stalls .store w.1 esz w.2.1
    ws.forM fun w => queueRoom w.2.1
    ws.forM fun w => modS fun s => s.store w.1 w.2.1 esz w.2.2)

/-- One group of a vector store: element by element (R189, R190), but into stage queues whole (R259). -/
def storeGroup (m : VMode) (c : Ctx) (d a : BitVec 5) (k : BitVec 3) (nf lo hi : Nat) : M Unit := do
  let s ← get
  let ps ← if s.coreQueues.isEmpty then pure [] else m.foresee c a k nf lo hi
  if ps.any fun p => (s.queueGranule p.2).isSome then queueStep m c d a k nf lo hi
  else
    elementGroup (fun i =>
      if c.kbit k i then
        (List.range nf).forM fun f => do
          let v ← srcElem (fieldGrp c d f) i
          let p ← m.addr c a nf i f
          memWrite p (c.sew / 8) v
      else pure ()) lo hi

/-- A vector store (R189, R190, R259). -/
def vecStore (m : VMode) (d a : BitVec 5) (k : BitVec 3) (nf : Nat) (s : State) :
    Host.Outcome State Fault Refusal :=
  settle (do
    vmemBegin m d nf
    storeOperands m d nf
    let c ← getC
    if c.vl.toNat ≤ c.vstart.toNat then pure ()
    else do
      let s ← get
      let ps ← if s.coreQueues.isEmpty then pure [] else m.foresee c a k nf c.vstart.toNat c.vl.toNat
      noAlias (ps.map fun p => (p.1, p.2, s.queueGranule p.2))
      forGroups (storeGroup m c d a k nf)
    vecRetire 4 k (m.groups c ++ fieldGrps c d nf) ldNone) s

/-! ### The bypass bit (R191, R400). Towards other memory than the host's it changes timing only (log 6) -/

/-- What a bypassing load does otherwise: its host lines keep their state and are read by RdCurr (R400). -/
def bypassLoad (y : BitVec 1) (s : State) (o : Host.Outcome State Fault Refusal) : Host.Outcome State Fault Refusal :=
  match o with
  | .next t =>
    if y = 1 then
      .next { t with
        hostLines := s.hostLines,
        outbox := s.outbox ++ (t.outbox.drop s.outbox.length).map fun m =>
          match m with
          | .cxl 0 l => .cxl 2 l
          | m => m }
    else .next t
  | o => o

/-- The elements of a vector store performed when it ends in `t`: all below vl, or those below vstart. -/
def State.performedIn (s t : State) : Nat :=
  if t.ctx.instret = s.ctx.instret then t.ctx.vstart.toNat else s.ctx.vl.toNat

/-- Host lines that a vector store which ends in `t` has written whole: all 64 bytes of each from its active elements
(R400). -/
def VMode.wholeLines (m : VMode) (a : BitVec 5) (k : BitVec 3) (nf : Nat) (s t : State) : List Nat :=
  let u := t.upd fun x => { x with sq := s.ctx.sq }
  let esz := s.ctx.sew / 8
  let lo := s.ctx.vstart.toNat
  match m.foresee u.ctx a k nf lo (s.performedIn t) u with
  | .error _ _ => []
  | .ok ps _ =>
    let keys := ps.filterMap fun p =>
      match s.xlate (s.partOf s.cur) (s.privOf s.cur) .store p.2.toNat with
      | .ok ph => if ph.cls == .host then some ph.key else none
      | .error _ => none
    ((keys.filterMap hostLine).foldl (fun l x => setAdd x l) []).filter fun l =>
      (List.range (64 / esz)).all fun j => keys.contains (2 ^ 52 + 64 * l + j * esz)

/-- The moving context's stores to a host line that others do not see yet are one store of the whole line. -/
def State.mergeLine (s : State) (line : Nat) : State :=
  let mine (e : PendStore) : Bool := e.by s.cur && hostLine e.key == some line
  match s.pending.filter mine with
  | [] => s
  | e :: t =>
    let base := 2 ^ 52 + 64 * line
    let v : BitVec 512 := (e :: t).foldl (fun v x => splice v (8 * (x.key - base)) (8 * x.size) x.value) 0
    { s with pending := (s.pending.filter fun x => !mine x) ++ [{ e with key := base, size := 64, value := v.toNat }] }

/-- What a bypassing store does otherwise: a host line that it writes whole goes to the host by ItoMWr and is not
kept (R400), also where others see the store later. -/
def bypassStore (y : BitVec 1) (whole : State → State → List Nat) (s : State) (o : Host.Outcome State Fault Refusal) :
    Host.Outcome State Fault Refusal :=
  match o with
  | .next t =>
    if y = 1 then
      let lines := whole s t
      .next (lines.foldl State.mergeLine { t with
        hostLines := t.hostLines.filter fun x => !lines.contains x.1 || t.pending.any fun e => hostLine e.key == some x.1,
        outbox := (t.outbox.take s.outbox.length) ++ (t.outbox.drop s.outbox.length).map fun m =>
          match m with
          | .cxl 1 l => if lines.contains l then .cxl 3 l else .cxl 1 l
          | m => m })
    else .next t
  | o => o

/-- A vector store by its mode and bypass bit (R189, R191, R400). -/
def storeIn (m : VMode) (d a : BitVec 5) (k : BitVec 3) (nf : Nat) (y : BitVec 1) (s : State) :
    Host.Outcome State Fault Refusal :=
  bypassStore y (m.wholeLines a k nf) s (vecStore m d a k nf s)

/-! ### The instructions -/

/-- VLD (R185, R188). -/
def execVld (d a : BitVec 5) (k : BitVec 3) (y : BitVec 1) (f : BitVec 2) (s : State) :
    Host.Outcome State Fault Refusal :=
  bypassLoad y s (qualifiedLoad .unit d a k f s)

/-- VLDS (R185, R188). -/
def execVlds (d a b : BitVec 5) (k : BitVec 3) (y : BitVec 1) (f : BitVec 2) (s : State) :
    Host.Outcome State Fault Refusal :=
  bypassLoad y s (qualifiedLoad (.stride b) d a k f s)

/-- VLDX (R185, R188). -/
def execVldx (d a b : BitVec 5) (k : BitVec 3) (y : BitVec 1) (f : BitVec 2) (s : State) :
    Host.Outcome State Fault Refusal :=
  bypassLoad y s (qualifiedLoad (.index b) d a k f s)

/-- VLSEG (R185, R188). -/
def execVlseg (d a : BitVec 5) (k : BitVec 3) (y : BitVec 1) (n : BitVec 3) (s : State) :
    Host.Outcome State Fault Refusal :=
  if n = 0 then settle (segmentsOk n) s else bypassLoad y s (vecLoad .segments d a k (n.toNat + 1) true s)

/-- VLSSEG (R185, R188). -/
def execVlsseg (d a b : BitVec 5) (k : BitVec 3) (y : BitVec 1) (n : BitVec 3) (s : State) :
    Host.Outcome State Fault Refusal :=
  if n = 0 then settle (segmentsOk n) s else bypassLoad y s (vecLoad (.strideSegments b) d a k (n.toNat + 1) true s)

/-- VST (R185, R189). -/
def execVst (d a : BitVec 5) (k : BitVec 3) (y : BitVec 1) (s : State) : Host.Outcome State Fault Refusal :=
  storeIn .unit d a k 1 y s

/-- VSTS (R185, R189). -/
def execVsts (d a b : BitVec 5) (k : BitVec 3) (y : BitVec 1) (s : State) : Host.Outcome State Fault Refusal :=
  storeIn (.stride b) d a k 1 y s

/-- VSTX (R185, R189). -/
def execVstx (d a b : BitVec 5) (k : BitVec 3) (y : BitVec 1) (s : State) : Host.Outcome State Fault Refusal :=
  storeIn (.index b) d a k 1 y s

/-- VSSEG (R185, R189). -/
def execVsseg (d a : BitVec 5) (k : BitVec 3) (y : BitVec 1) (n : BitVec 3) (s : State) :
    Host.Outcome State Fault Refusal :=
  if n = 0 then settle (segmentsOk n) s else storeIn .segments d a k (n.toNat + 1) y s

/-- VSSSEG (R185, R189). -/
def execVssseg (d a b : BitVec 5) (k : BitVec 3) (y : BitVec 1) (n : BitVec 3) (s : State) :
    Host.Outcome State Fault Refusal :=
  if n = 0 then settle (segmentsOk n) s else storeIn (.strideSegments b) d a k (n.toNat + 1) y s

end Sys2Proof.Machine
end

