-- ==== Sys2Proof/Machine/VecAtomic.lean ====
section
/-!
DEFINITION. Vector atomics, reduce-on-write, memory waits and address matches, major 21 (R111 to R113,
R194 to R199), and the scaled exponential sum (R231).
-/
namespace Sys2Proof.Machine

/-- What the instructions of major 21 share (R194): `data` is the group of vd, if it names one, and `apart` says
that it must not meet the index group (R167). Guests execute VAMO, VRDW and VWAIT, not VMATCH
(R197, R281, log 14). -/
def wordsBegin (guests apart : Bool) (data : Option Grp) (gi : Grp) : M Unit := do
  let c ← getC
  let s ← get
  let gs := gi :: data.toList
  vecBegin (gs.flatMap Grp.regs)
  if s.kind = .guest && (!guests || c.sew ≠ 32 || c.lmul ≠ 1) then trap 0x0D c.pc else pure ()
  legal ((c.sew == 32 || c.sew == 64) && c.lmul ≤ 2 && gs.all Grp.aligned && !(apart && data.any fun g => g.meets gi))
  noStream (gs.flatMap Grp.regs)
  indexTags gi

/-- The address of element i (R194). -/
def wordAddr (c : Ctx) (a : BitVec 5) (gi : Grp) (i : Nat) : Word :=
  BitVec.ofInt 64 ((c.rx a).toInt + (c.elem gi i : Nat))

/-- The active elements from `lo` up to vl. -/
def Ctx.activeFrom (c : Ctx) (k : BitVec 3) (lo : Nat) : List Nat :=
  (span lo (c.vl.toNat - lo)).filter fun i => c.kbit k i

/-- The state with vstart at element i. -/
def atVstart (i : Nat) : M Unit := modC fun x => { x with vstart := BitVec.ofNat 12 i }

/-! ### VAMO (R111, R195) -/

/-- One element checked: host and peer memory have no vector atomics (R195). -/
def amoCheck (a : Word) (n : Nat) : M Phys := do
  let ph ← checkAccess .atomic a n
  demand (ph.cls ≠ .host && ph.cls ≠ .peer) 0x05 a
  pure ph

/-- One element applied: the old value stays in vd (R195). -/
def amoApply (op : AtomOp) (gd : Grp) (n i : Nat) (ph : Phys) : M Unit := do
  modS fun s => s.claim ph n
  let s ← get
  let old := s.readN ph.key n
  set ((((s.noteRead ph).noteStore ph.key n).put ph n (applyAtom op n old (s.ctx.elem gd i))).upd fun x => x.putElem gd i old)

/-- A vector atomic; `signed` and `unsigned` are its operation by vd's tag, `any` whether every class is
accepted (R195). -/
def vecAmo (signed unsigned : AtomOp) (any : Bool) (d a b : BitVec 5) (k sc : BitVec 3) (s : State) :
    Host.Outcome State Fault Refusal :=
  settle (do
    scopeOk sc
    let c ← getC
    let gd := c.grp d
    let gi := c.grp b
    let n := c.sew / 8
    wordsBegin true true (some gd) gi
    let fmt ← dataTags none [gd]
    if !any && !isInteger fmt then noClass
    else do
      let c ← getC
      let act := c.activeFrom k 0
      let pls ← act.mapM fun i => atElement i (amoCheck (wordAddr c a gi i) n)
      match act.find? fun i => act.any fun j => j != i && wordAddr c a gi i == wordAddr c a gi j with
      | some i => atElement i (trap 0x07 (wordAddr c a gi i))
      | none => pure ()
      (act.zip pls).forM fun p => atElement p.1 (do
        stalls .atomic (wordAddr c a gi p.1) n p.2
        queueRoom p.2)
      release sc
      (act.zip pls).forM fun p => amoApply (if fmt = 2 then signed else unsigned) gd n p.1 p.2
      if c.vl = 0 then pure ()
      else do
        (List.range c.vl.toNat).forM fun i => if c.kbit k i then pure () else maskedElement c d 1 i
        modC fun x => x.close gd fmt x.vl.toNat
      acquire sc
      vecRetire 4 k [] fun _ => gd.record) s

/-- VAMO.SWAP writes the operand (R195). -/
def execVamoSwap (d a b : BitVec 5) (k sc : BitVec 3) (s : State) : Host.Outcome State Fault Refusal :=
  vecAmo .swap .swap true d a b k sc s

/-- VAMO.ADD wraps (R195). -/
def execVamoAdd (d a b : BitVec 5) (k sc : BitVec 3) (s : State) : Host.Outcome State Fault Refusal :=
  vecAmo .add .add false d a b k sc s

/-- VAMO.AND (R195). -/
def execVamoAnd (d a b : BitVec 5) (k sc : BitVec 3) (s : State) : Host.Outcome State Fault Refusal :=
  vecAmo .and .and false d a b k sc s

/-- VAMO.OR (R195). -/
def execVamoOr (d a b : BitVec 5) (k sc : BitVec 3) (s : State) : Host.Outcome State Fault Refusal :=
  vecAmo .or .or false d a b k sc s

/-- VAMO.XOR (R195). -/
def execVamoXor (d a b : BitVec 5) (k sc : BitVec 3) (s : State) : Host.Outcome State Fault Refusal :=
  vecAmo .xor .xor false d a b k sc s

/-- VAMO.MIN by the signedness of vd's tag (R195). -/
def execVamoMin (d a b : BitVec 5) (k sc : BitVec 3) (s : State) : Host.Outcome State Fault Refusal :=
  vecAmo .min .minu false d a b k sc s

/-- VAMO.MAX by the signedness of vd's tag (R195). -/
def execVamoMax (d a b : BitVec 5) (k sc : BitVec 3) (s : State) : Host.Outcome State Fault Refusal :=
  vecAmo .max .maxu false d a b k sc s

/-! ### VMATCH (R196) -/

/-- VMATCH: the lowest-indexed active element of each distinct address (R196). -/
def execVmatch (d : BitVec 3) (a b : BitVec 5) (k : BitVec 3) (s : State) : Host.Outcome State Fault Refusal :=
  settle (do
    let c ← getC
    let gi := c.grp b
    legal (d ≠ 0)
    wordsBegin false false none gi
    let c ← getC
    let act := c.activeFrom k 0
    let first (i : Nat) : Bool :=
      act.contains i && !act.any fun j => j < i && wordAddr c a gi j == wordAddr c a gi i
    let bits := (List.range c.vl.toNat).foldl (fun m i => splice m i 1 (natOf (first i))) (c.k.get d.toFin)
    if c.vl = 0 then pure () else modC fun x => (x.setK d bits).closeK d
    vecRetire 4 0 [] fun _ => ldK d) s

/-! ### Reduce-on-write (R113, R198, R199, R231) -/

/-- One element checked: host memory and the stash window have no reductions (R198). -/
def reduceCheck (a : Word) (n : Nat) : M Phys := do
  let ph ← checkAccess .store a n
  demand (ph.cls ≠ .host && ph.cls ≠ .stash && a.toNat < windowBase) 0x05 a
  stalls .store a n ph
  pure ph

/-- The places of elements up to the first whose check fails, and that failure with its element (R199). -/
def reducePlaces (c : Ctx) (a : BitVec 5) (gi : Grp) (n : Nat) :
    List Nat → M (List (Nat × Phys) × Option (Nat × BitVec 8 × Word))
  | [] => pure ([], none)
  | i :: t => fun s =>
    match reduceCheck (wordAddr c a gi i) n s with
    | .error (.trap cause info) _ => .ok ([], some (i, cause, info)) s
    | .error e s => .error e s
    | .ok ph s =>
      match reducePlaces c a gi n t s with
      | .ok r s => .ok ((i, ph) :: r.1, r.2) s
      | .error e s => .error e s

/-- Commit in ascending order up to the first whose tag test fails (R199). Each element is an access of its own, which
others may see later than the next one (R100). -/
def reduceCommit (c : Ctx) (a : BitVec 5) (gd gi : Grp) (n : Nat) (tag : RedTag) :
    List (Nat × Phys) → M Unit
  | [] => pure ()
  | p :: t => do
    let s ← get
    if s.tagAgrees p.2.key n tag then do
      set (s.reduceLate (wordAddr c a gi p.1) p.2 n (c.elem gd p.1) tag)
      reduceCommit c a gd gi n tag t
    else do
      atVstart p.1
      trap 0x0F (wordAddr c a gi p.1)

/-- The element groups of a VRDW in ascending order (R199). -/
def reduceGroups (c : Ctx) (a : BitVec 5) (k : BitVec 3) (gd gi : Grp) (n : Nat) (tag : RedTag) (lo hi : Nat) :
    Nat → M Unit
  | 0 => pure ()
  | m + 1 =>
    if hi ≤ lo then pure ()
    else do
      pointAt lo
      let e := min hi ((lo / 16 + 1) * 16)
      let r ← atGroup lo (reducePlaces c a gi n ((span lo (e - lo)).filter fun i => c.kbit k i))
      reduceCommit c a gd gi n tag r.1
      match r.2 with
      | some (i, cause, info) => do
        atVstart i
        trap cause info
      | none => reduceGroups c a k gd gi n tag e hi m

/-- VRDW with an operator (R198, R199). -/
def vecReduce (op : RedOp) (d a b : BitVec 5) (k sc : BitVec 3) (s : State) : Host.Outcome State Fault Refusal :=
  settle (do
    scopeOk sc
    let c ← getC
    let gd := c.grp d
    let gi := c.grp b
    let n := c.sew / 8
    wordsBegin true false (some gd) gi
    let fmt ← dataTags none [gd]
    if (reduceWith op fmt n).isNone then noClass
    else do
      let c ← getC
      let tag : RedTag := { op := op, fmt := BitVec.ofNat 4 fmt, width := c.sew }
      release sc
      reduceGroups c a k gd gi n tag c.vstart.toNat c.vl.toNat (c.vl.toNat / 16 + 1)
      vecRetire 4 k [] ldNone) s

/-- VRDW.ADD (R198). -/
def execVrdwAdd (d a b : BitVec 5) (k sc : BitVec 3) (s : State) : Host.Outcome State Fault Refusal :=
  vecReduce .add d a b k sc s

/-- VRDW.MAX (R198). -/
def execVrdwMax (d a b : BitVec 5) (k sc : BitVec 3) (s : State) : Host.Outcome State Fault Refusal :=
  vecReduce .max d a b k sc s

/-- VRDW.MIN (R198). -/
def execVrdwMin (d a b : BitVec 5) (k sc : BitVec 3) (s : State) : Host.Outcome State Fault Refusal :=
  vecReduce .min d a b k sc s

/-- VRDW.EXPSUM (R198). -/
def execVrdwExpsum (d a b : BitVec 5) (k sc : BitVec 3) (s : State) : Host.Outcome State Fault Refusal :=
  vecReduce .expsum d a b k sc s

/-! ### VWAIT (R112, R197) -/

/-- The first element of the lowest element group that holds an element of the list (R197); not below
`lo`, where the instruction began. -/
def groupStart (lo : Nat) : List Nat → Nat
  | [] => lo
  | i :: _ => max lo (i / 16 * 16)

/-- Each element not yet satisfied is checked and tested; a failure leaves vstart at the lowest group that
is not satisfied (R197). -/
def waitElements (op n lo : Nat) (a : BitVec 5) (gd gi : Grp) (act : List Nat) : List Nat → M Unit
  | [] => pure ()
  | i :: t => do
    let c ← getC
    let p := wordAddr c a gi i
    let w ← fun s =>
      match memRead p n s with
      | .error (.trap cause info) s =>
        .error (.trap cause info) (s.upd fun x => { x with vstart := BitVec.ofNat 12 (groupStart lo
          (act.filter fun j => !x.met.getLsbD j)) })
      | r => r
    if waitTest op n w (c.elem gd i) then modC fun x => { x with met := splice x.met i 1 1 } else pure ()
    waitElements op n lo a gd gi act t

/-- A wait on words of memory; `unsigned` and `signed` are the comparison by vd's tag (R197). -/
def vecWait (unsigned signed : Nat) (d a b : BitVec 5) (k sc : BitVec 3) (s : State) :
    Host.Outcome State Fault Refusal :=
  settle (do
    scopeOk sc
    let c ← getC
    let gd := c.grp d
    let gi := c.grp b
    let n := c.sew / 8
    wordsBegin true false (some gd) gi
    let fmt ← dataTags none [gd]
    if !isInteger fmt then noClass
    else do
      let c ← getC
      let op := if fmt = 2 then signed else unsigned
      let lo := c.vstart.toNat
      let act := c.activeFrom k lo
      waitElements op n lo a gd gi act (act.filter fun i => !c.met.getLsbD i)
      let c ← getC
      let open' := act.filter fun i => !c.met.getLsbD i
      if open'.isEmpty then do
        acquire sc
        modC fun x => { x with met := 0 }
        vecRetire 4 k [] ldNone
      else do
        atVstart (groupStart lo open')
        fun s => .error (.wait (.words n op
          (open'.map fun i => (i, (wordAddr c a gi i).toNat, c.elem gd i))) false) s) s

/-- VWAIT.EQ (R197). -/
def execVwaitEq (d a b : BitVec 5) (k sc : BitVec 3) (s : State) : Host.Outcome State Fault Refusal :=
  vecWait 0 4 d a b k sc s

/-- VWAIT.NE (R197). -/
def execVwaitNe (d a b : BitVec 5) (k sc : BitVec 3) (s : State) : Host.Outcome State Fault Refusal :=
  vecWait 1 5 d a b k sc s

/-- VWAIT.GE (R197). -/
def execVwaitGe (d a b : BitVec 5) (k sc : BitVec 3) (s : State) : Host.Outcome State Fault Refusal :=
  vecWait 2 6 d a b k sc s

/-- VWAIT.LT (R197). -/
def execVwaitLt (d a b : BitVec 5) (k sc : BitVec 3) (s : State) : Host.Outcome State Fault Refusal :=
  vecWait 3 7 d a b k sc s

end Sys2Proof.Machine
end

