-- ==== Sys2Proof/Machine/Plane.lean ====
section
/-!
DEFINITION. Plane forms and plane management, major 22 and the forms with M = 1: the checks at issue, the
carriage queue, bank locks and NRED (R201 to R205, R223 to R231).
-/
namespace Sys2Proof.Machine

/-! ### Plane descriptors (R49) -/

def pdCount (d : BitVec 128) : Nat := slice d 96 32
def pdRegion (d : BitVec 128) : Nat := slice d 80 16
def pdFirst (d : BitVec 128) : Nat := slice d 64 16
def pdRowbase (d : BitVec 128) : Nat := slice d 22 10
def pdResidue (d : BitVec 128) : Bool := slice d 21 1 == 1
def pdWidth (d : BitVec 128) : Nat := slice d 16 5
def pdValid (d : BitVec 128) : Bool := slice d 0 1 == 1

/-- The rows of an operand, its residue rows among them (R203). -/
def PlaneOperand.rows (q : PlaneOperand) : List Nat := span q.rowbase (q.width + 2 * natOf q.residue)

/-- The operand that a descriptor gives. -/
def pdOperand (d : BitVec 128) : PlaneOperand :=
  { used := true, rowbase := pdRowbase d, width := pdWidth d, residue := pdResidue d }

/-- A slot without operand. -/
def noOperand : PlaneOperand := { used := false, rowbase := 0, width := 0, residue := false }

/-- The fields of a descriptor are within the limits of R49 and R223, and its region is granted to the
partition. -/
def State.pdLimits (s : State) (d : BitVec 128) : Bool :=
  slice d 32 32 == 0 && slice d 1 15 == 0 && pdCount d != 0 && 1 ≤ pdWidth d && pdWidth d ≤ 16 &&
    pdRowbase d + pdWidth d + 2 * natOf (pdResidue d) ≤ 1024 &&
    (match s.region? (s.partOf s.cur) (pdRegion d) with
     | some r => pdFirst d + ceilDiv (pdCount d) 8192 ≤ r.subarrays
     | none => false)

/-- A descriptor of the context. -/
def Ctx.pdAt (c : Ctx) (n : Nat) : BitVec 128 := c.pd.get (Fin.ofNat 16 n)

/-- PDSET (R223). -/
def execPdset (a b c : BitVec 5) (s : State) : Host.Outcome State Fault Refusal :=
  settle (do
    notGuest
    let x ← getC
    let s ← get
    let d : BitVec 128 := (x.rx b) ++ (x.rx c)
    if !pdValid d then modC fun x => { x with pd := x.pd.set (Fin.ofNat 16 a.toNat).val 0 (Fin.ofNat 16 a.toNat).isLt }
    else do
      demand (s.pdLimits d) 0x0B (zx a)
      modC fun x => { x with pd := x.pd.set (Fin.ofNat 16 a.toNat).val d (Fin.ofNat 16 a.toNat).isLt }
    retire 4) s

/-! ### The checks at issue (R203, R204) -/

/-- Every named descriptor in order: valid, within its limits, pvl within its count (R49, R204). -/
def namedCheck (names : List Nat) : M Unit :=
  names.forM fun n => do
    let s ← get
    let d := s.ctx.pdAt n
    demand (pdValid d && s.pdLimits d && s.ctx.pvl.toNat ≤ pdCount d) 0x0B (BitVec.ofNat 64 n)

/-- All of one region and one first subarray (R201). -/
def sameTensor (ds : List (BitVec 128)) : Bool :=
  ds.all fun d => pdRegion d == pdRegion (ds.headD 0) && pdFirst d == pdFirst (ds.headD 0)

/-- Two operands share no row (R203). -/
def apart (a b : PlaneOperand) : Bool := a.rows.all fun r => !b.rows.contains r

/-- vtype.fmt is unsigned or signed: whether it is signed (R201, R204). -/
def planeSigned (a : BitVec 5) : M Bool := do
  let c ← getC
  if c.vfmt = 1 || c.vfmt = 2 then pure (c.vfmt == 2) else trap 0x06 (zx a)

/-- The launch of the context has checking on (R217). -/
def State.checking (s : State) : Bool := !((s.tileOf s.cur).any fun t => t.desc.unchecked)

/-- A plane instruction enters its carriage queue of 32 (R205); with pvl = 0 there is none (R204). -/
def planeIssue (o : PlaneOp) : M Unit := do
  let c ← getC
  if o.count = 0 then pure ()
  else do
    waitFor ((c.planes.filter fun p => p.stack == o.stack).length < 32)
    modC fun c => { c with planes := c.planes ++ [o] }

/-- A plane instruction as it is captured at issue (R205). -/
def State.capture (s : State) (kind : PlaneKind) (d : BitVec 128) (signed : Bool) : PlaneOp :=
  { stack := ((s.region? (s.partOf s.cur) (pdRegion d)).map (·.stack)).getD 0, kind := kind, a := noOperand,
    b := noOperand, d := pdOperand d, e := noOperand, signed := signed, count := s.ctx.pvl.toNat,
    region := pdRegion d, first := pdFirst d, pc := s.ctx.pc, checked := s.checking, barrier := s.ctx.barrier,
    left := span (pdFirst d) (ceilDiv s.ctx.pvl.toNat 8192), batch := [], rounds := 0, here := 0, loops := [], spanAt := 0,
    spanLoops := [], spare := [], verified := false, flag := false, restarted := [], abandoned := 0, suspended := false,
    moved := 0 }

/-- The retirement of a plane form, a vector instruction: vstart becomes 0, ldst.V = 0 (R59, R204, log 15). -/
def planeRetire : M Unit := modC fun c => { c.next 4 (ldNone c.ldst) with vstart := 0 }

/-! ### Plane forms (R201 to R204) -/

/-- The functions of the plane forms (R202). -/
inductive PFn where
  | add | sub | rsub | mul | min | max | and | or | xor | sll | srl | sra | sadd | ssub | merge | sat
  | sext | zext | nclip | eq | ne | lt | le | gt | ge
deriving DecidableEq, Repr

/-- The number of a function in a queued instruction. -/
def PFn.code : PFn → Nat
  | .add => 0 | .sub => 1 | .rsub => 2 | .mul => 3 | .min => 4 | .max => 5 | .and => 6 | .or => 7
  | .xor => 8 | .sll => 9 | .srl => 10 | .sra => 11 | .sadd => 12 | .ssub => 13 | .merge => 14
  | .sat => 15 | .sext => 16 | .zext => 17 | .nclip => 18 | .eq => 19 | .ne => 20 | .lt => 21
  | .le => 22 | .gt => 23 | .ge => 24

/-- The function of a number. -/
def pfnOf (n : Nat) : PFn :=
  match n with
  | 0 => .add | 1 => .sub | 2 => .rsub | 3 => .mul | 4 => .min | 5 => .max | 6 => .and | 7 => .or
  | 8 => .xor | 9 => .sll | 10 => .srl | 11 => .sra | 12 => .sadd | 13 => .ssub | 14 => .merge
  | 15 => .sat | 16 => .sext | 17 => .zext | 18 => .nclip | 19 => .eq | 20 => .ne | 21 => .lt
  | 22 => .le | 23 => .gt | _ => .ge

/-- The second source: a descriptor, an x register, a number, or none. -/
inductive PSrc where
  | plane (n : BitVec 5)
  | scalar (r : BitVec 5)
  | imm (v : Int)
  | none
deriving DecidableEq, Repr

/-- The widths of R203: destination, sources. -/
def widthsOk (f : PFn) (wd : Nat) (ws : List Nat) : Bool :=
  match f with
  | .mul => ws.all (· ≤ wd)
  | .sext => ws.all (· < wd)
  | .zext => ws.all (· < wd)
  | .nclip => ws.all (wd < ·)
  | .eq => wd == 1 && ws.all (· == ws.headD 0)
  | .ne => wd == 1 && ws.all (· == ws.headD 0)
  | .lt => wd == 1 && ws.all (· == ws.headD 0)
  | .le => wd == 1 && ws.all (· == ws.headD 0)
  | .gt => wd == 1 && ws.all (· == ws.headD 0)
  | .ge => wd == 1 && ws.all (· == ws.headD 0)
  | _ => ws.all (· == wd)

/-- A plane form: every check, then issue (R201, R203, R204). -/
def planeForm (f : PFn) (d a : BitVec 5) (b : PSrc) (s : State) : Host.Outcome State Fault Refusal :=
  settle (do
    notGuest
    let sg ← planeSigned d
    let srcs : List Nat := a.toNat :: (match b with
      | .plane n => [n.toNat]
      | _ => [])
    let extra : List Nat := if f = .merge then [0] else []
    namedCheck (d.toNat :: srcs ++ extra)
    let c ← getC
    let s ← get
    let dd := c.pdAt d.toNat
    let ds := srcs.map c.pdAt
    let es := extra.map c.pdAt
    demand (sameTensor (dd :: ds ++ es)) 0x0B (zx d)
    demand (widthsOk f (pdWidth dd) (ds.map pdWidth) &&
      (f ≠ .merge || (es.all (fun e => pdWidth e == 1) && !(d.toNat :: srcs).contains 0)) &&
      (ds ++ es).all fun e => apart (pdOperand dd) (pdOperand e)) 0x0B (zx d)
    let scalar : Option Int := match b with
      | .scalar r => some (valueOf sg 64 (c.rx r).toNat)
      | .imm v => some v
      | _ => none
    planeIssue { s.capture (.form f.code scalar) dd sg with
      a := pdOperand (ds.headD 0),
      b := (match b with
            | .plane n => pdOperand (c.pdAt n.toNat)
            | _ => noOperand),
      e := if f = .merge then pdOperand (c.pdAt 0) else noOperand }
    planeRetire) s

/-- VADD in the planes (R202). -/
def execVaddPVv (d a b : BitVec 5) (s : State) : Host.Outcome State Fault Refusal :=
  planeForm .add d a (.plane b) s

/-- VADD in the planes (R202). -/
def execVaddPVx (d a b : BitVec 5) (s : State) : Host.Outcome State Fault Refusal :=
  planeForm .add d a (.scalar b) s

/-- VSUB in the planes (R202). -/
def execVsubPVv (d a b : BitVec 5) (s : State) : Host.Outcome State Fault Refusal :=
  planeForm .sub d a (.plane b) s

/-- VRSUB in the planes (R202). -/
def execVrsubPVi (d a im : BitVec 5) (s : State) : Host.Outcome State Fault Refusal :=
  planeForm .rsub d a (.imm im.toInt) s

/-- VMUL in the planes (R202). -/
def execVmulPVv (d a b : BitVec 5) (s : State) : Host.Outcome State Fault Refusal :=
  planeForm .mul d a (.plane b) s

/-- VMUL in the planes (R202). -/
def execVmulPVx (d a b : BitVec 5) (s : State) : Host.Outcome State Fault Refusal :=
  planeForm .mul d a (.scalar b) s

/-- VMIN in the planes (R202). -/
def execVminPVv (d a b : BitVec 5) (s : State) : Host.Outcome State Fault Refusal :=
  planeForm .min d a (.plane b) s

/-- VMAX in the planes (R202). -/
def execVmaxPVv (d a b : BitVec 5) (s : State) : Host.Outcome State Fault Refusal :=
  planeForm .max d a (.plane b) s

/-- VAND in the planes (R202). -/
def execVandPVv (d a b : BitVec 5) (s : State) : Host.Outcome State Fault Refusal :=
  planeForm .and d a (.plane b) s

/-- VOR in the planes (R202). -/
def execVorPVv (d a b : BitVec 5) (s : State) : Host.Outcome State Fault Refusal :=
  planeForm .or d a (.plane b) s

/-- VXOR in the planes (R202). -/
def execVxorPVv (d a b : BitVec 5) (s : State) : Host.Outcome State Fault Refusal :=
  planeForm .xor d a (.plane b) s

/-- VXOR in the planes (R202). -/
def execVxorPVi (d a im : BitVec 5) (s : State) : Host.Outcome State Fault Refusal :=
  planeForm .xor d a (.imm im.toInt) s

/-- VSLL in the planes (R202). -/
def execVsllPVi (d a im : BitVec 5) (s : State) : Host.Outcome State Fault Refusal :=
  planeForm .sll d a (.imm im.toNat) s

/-- VSRL in the planes (R202). -/
def execVsrlPVi (d a im : BitVec 5) (s : State) : Host.Outcome State Fault Refusal :=
  planeForm .srl d a (.imm im.toNat) s

/-- VSRA in the planes (R202). -/
def execVsraPVi (d a im : BitVec 5) (s : State) : Host.Outcome State Fault Refusal :=
  planeForm .sra d a (.imm im.toNat) s

/-- VSADD in the planes (R202). -/
def execVsaddPVv (d a b : BitVec 5) (s : State) : Host.Outcome State Fault Refusal :=
  planeForm .sadd d a (.plane b) s

/-- VSSUB in the planes (R202). -/
def execVssubPVv (d a b : BitVec 5) (s : State) : Host.Outcome State Fault Refusal :=
  planeForm .ssub d a (.plane b) s

/-- VMERGE in the planes (R202). -/
def execVmergePVv (d a b : BitVec 5) (s : State) : Host.Outcome State Fault Refusal :=
  planeForm .merge d a (.plane b) s

/-- VSAT in the planes (R202). -/
def execVsatPVi (d a im : BitVec 5) (s : State) : Host.Outcome State Fault Refusal :=
  planeForm .sat d a (.imm im.toNat) s

/-- VSEXT in the planes (R202). -/
def execVsextP (d b : BitVec 5) (s : State) : Host.Outcome State Fault Refusal :=
  planeForm .sext d b .none s

/-- VZEXT in the planes (R202). -/
def execVzextP (d b : BitVec 5) (s : State) : Host.Outcome State Fault Refusal :=
  planeForm .zext d b .none s

/-- VNCLIP in the planes (R202). -/
def execVnclipP (d b : BitVec 5) (s : State) : Host.Outcome State Fault Refusal :=
  planeForm .nclip d b .none s

/-- VCMPEQ in the planes (R202). -/
def execVcmpeqPVv (d : BitVec 4) (a b : BitVec 5) (s : State) : Host.Outcome State Fault Refusal :=
  planeForm .eq (d.setWidth 5) a (.plane b) s

/-- VCMPNE in the planes (R202). -/
def execVcmpnePVv (d : BitVec 4) (a b : BitVec 5) (s : State) : Host.Outcome State Fault Refusal :=
  planeForm .ne (d.setWidth 5) a (.plane b) s

/-- VCMPLT in the planes (R202). -/
def execVcmpltPVv (d : BitVec 4) (a b : BitVec 5) (s : State) : Host.Outcome State Fault Refusal :=
  planeForm .lt (d.setWidth 5) a (.plane b) s

/-- VCMPLE in the planes (R202). -/
def execVcmplePVv (d : BitVec 4) (a b : BitVec 5) (s : State) : Host.Outcome State Fault Refusal :=
  planeForm .le (d.setWidth 5) a (.plane b) s

/-- VCMPGT in the planes (R202). -/
def execVcmpgtPVv (d : BitVec 4) (a b : BitVec 5) (s : State) : Host.Outcome State Fault Refusal :=
  planeForm .gt (d.setWidth 5) a (.plane b) s

/-- VCMPGE in the planes (R202). -/
def execVcmpgePVv (d : BitVec 4) (a b : BitVec 5) (s : State) : Host.Outcome State Fault Refusal :=
  planeForm .ge (d.setWidth 5) a (.plane b) s

/-- VCMPEQ in the planes (R202). -/
def execVcmpeqPVx (d : BitVec 4) (a b : BitVec 5) (s : State) : Host.Outcome State Fault Refusal :=
  planeForm .eq (d.setWidth 5) a (.scalar b) s

/-- VCMPNE in the planes (R202). -/
def execVcmpnePVx (d : BitVec 4) (a b : BitVec 5) (s : State) : Host.Outcome State Fault Refusal :=
  planeForm .ne (d.setWidth 5) a (.scalar b) s

/-- VCMPLT in the planes (R202). -/
def execVcmpltPVx (d : BitVec 4) (a b : BitVec 5) (s : State) : Host.Outcome State Fault Refusal :=
  planeForm .lt (d.setWidth 5) a (.scalar b) s

/-- VCMPLE in the planes (R202). -/
def execVcmplePVx (d : BitVec 4) (a b : BitVec 5) (s : State) : Host.Outcome State Fault Refusal :=
  planeForm .le (d.setWidth 5) a (.scalar b) s

/-- VCMPGT in the planes (R202). -/
def execVcmpgtPVx (d : BitVec 4) (a b : BitVec 5) (s : State) : Host.Outcome State Fault Refusal :=
  planeForm .gt (d.setWidth 5) a (.scalar b) s

/-- VCMPGE in the planes (R202). -/
def execVcmpgePVx (d : BitVec 4) (a b : BitVec 5) (s : State) : Host.Outcome State Fault Refusal :=
  planeForm .ge (d.setWidth 5) a (.scalar b) s

/-! ### Transfers (R224) -/

/-- Bytes of an element in memory (R224). -/
def transferBytes (width : Nat) : Nat := if width ≤ 8 then 1 else 2

/-- The first address of a range in each 64 KiB page that it meets. -/
def pageStarts (base len : Nat) : List Nat :=
  base :: (span (base / 65536 + 1) ((base + len - 1) / 65536 - base / 65536)).map (· * 65536)

/-- The addresses at which a range must be checked: a mailbox is a page of its own (R362). -/
def State.rangeStarts (s : State) (base len : Nat) : List Nat :=
  let mb := (s.part (s.partOf s.cur)).mbox.toNat
  let ps := pageStarts base len
  if mb ≠ 0 && base < mb && mb < base + len then setAdd mb ps else ps

/-- The range of a transfer is aligned and lies in general pages (R224). -/
def transferCheck (acc : Access) (a : Word) (eb n : Nat) : M Unit := do
  demand (a.toNat % eb == 0) 0x03 a
  let s ← get
  (s.rangeStarts a.toNat (n * eb)).forM fun p => do
    let _ ← checkClass [.general] acc (BitVec.ofNat 64 p) eb
    pure ()

/-- PXIN and PXOUT (R204, R224). -/
def planeTransfer (out : Bool) (a b : BitVec 5) (s : State) : Host.Outcome State Fault Refusal :=
  settle (do
    notGuest
    let sg ← planeSigned a
    namedCheck [a.toNat]
    let c ← getC
    let d := c.pdAt a.toNat
    if c.pvl = 0 then pure ()
    else transferCheck (if out then .store else .load) (c.rx b) (transferBytes (pdWidth d)) c.pvl.toNat
    let s ← get
    planeIssue (s.capture (if out then .pxout (c.rx b).toNat else .pxin (c.rx b).toNat) d sg)
    retire 4) s

/-- PXIN: memory to the tensor (R224). -/
def execPxin (a b : BitVec 5) (s : State) : Host.Outcome State Fault Refusal := planeTransfer false a b s

/-- PXOUT: the tensor to memory (R224). -/
def execPxout (a b : BitVec 5) (s : State) : Host.Outcome State Fault Refusal := planeTransfer true a b s

/-! ### User swatches (R225) -/

/-- A word of the image at `a`: it lies in a general page (R225). -/
def imageWord (a : Word) : M Nat := do
  let _ ← checkClass [.general] .load a 4
  memRead a 4

/-- The words of an image after its header (R212, R225). -/
def imageWords (a : Word) : Nat → M (List (BitVec 32))
  | 0 => pure []
  | n + 1 => do
    let w ← imageWord a
    let t ← imageWords (a + 4) n
    pure (BitVec.ofNat 32 w :: t)

/-- PRUN (R212, R225). With no used slot the record is invalid, since nothing names a region (log 16). -/
def execPrun (b c : BitVec 5) (s : State) : Host.Outcome State Fault Refusal :=
  settle (do
    notGuest
    let x ← getC
    let img := x.rx b
    let r := (x.rx c).toNat
    let h ← imageWord img
    demand (1 ≤ h && h ≤ 1024) 0x0B img
    let words ← imageWords (img + 4) h
    let x ← getC
    let used (j : Nat) : Bool := bitsAt r (16 + j) 1 == 1
    let name (j : Nat) : Nat := bitsAt r (4 * j) 4
    demand (r < 2 ^ 20 && bitsAt r 16 4 ≠ 0) 0x0B (x.rx c)
    let order := [2, 0, 1, 3].filter used
    namedCheck (order.map name)
    let s ← get
    let ds := order.map fun j => x.pdAt (name j)
    let slot (j : Nat) : PlaneOperand := if used j then pdOperand (x.pdAt (name j)) else noOperand
    demand (sameTensor ds && [0, 1, 3].all fun j => apart (slot 2) (slot j)) 0x0B (x.rx c)
    let o : PlaneOp := { s.capture (.prun words) (ds.headD 0) false with
      a := slot 0, b := slot 1, d := slot 2, e := slot 3 }
    match swatchInvalid o words with
    | some i => trap 0x0B (img + BitVec.ofNat 64 (4 * (i + 1)))
    | none => planeIssue o
    retire 4) s

/-! ### PFENCE and bank locks (R117, R226 to R228) -/

/-- PFENCE: later plane instructions start after every earlier one has retired (R226). -/
def execPfence (s : State) : Host.Outcome State Fault Refusal :=
  settle (do
    notGuest
    modC fun c => { c with barrier := c.barrier + 1 }
    retire 4) s

/-- The lock that a value names: [15:0] region, [23:16] first position, [31:24] count (R227). -/
def lockNamed (v : Word) (strict : Bool) : BankLock :=
  { region := slice v 0 16, first := slice v 16 8, count := slice v 24 8, strict := strict }

/-- The value names a set of a valid region (R227). -/
def State.lockValid (s : State) (v : Word) : Bool :=
  v.toNat < 2 ^ 32 && slice v 24 8 ≠ 0 &&
    (match s.region? (s.partOf s.cur) (slice v 0 16) with
     | some r => slice v 16 8 + slice v 24 8 ≤ r.bankList.length
     | none => false)

/-- Another context holds one of the banks, a saved one among them, or an older one has been waiting for one (R37,
R117). -/
def State.banksTaken (s : State) (banks : List (Nat × Nat × Nat)) : Bool :=
  let meets (l : List (Nat × Nat × Nat)) : Bool := l.any fun b => banks.contains b
  ((s.others s.cur).any fun x => x.lock.any fun l => meets (s.lockBanks l)) ||
    (List.range 12).any fun n =>
      let x := s.ctxs.get (ctxIx n)
      ctxIx n != s.cur && !x.saved && s.olderThan (ctxIx n) s.cur &&
        (match x.wait with
         | some (.bank r f n) => meets (s.bankSet r f n)
         | _ => false)

/-- Every cached copy of the rows of a set of banks is recalled: stores to them become visible, and the moving context
reads them afresh (R98, R117). -/
def State.recallBanks (s : State) (banks : List (Nat × Nat × Nat)) : State :=
  let inside (k : Nat) : Bool := decide (2 ^ 60 ≤ k) && banks.contains (bankOf ((k - 2 ^ 60) / 1024 / 1040))
  (s.settleStores fun e => inside e.key).upd fun c => { c with early := c.early.filter fun e => !inside e.key }

/-- BKACQ (R117, R227). -/
def execBkacq (b : BitVec 5) (sc : BitVec 3) (t : BitVec 1) (s : State) : Host.Outcome State Fault Refusal :=
  settle (do
    scopeOk sc
    notGuest
    let c ← getC
    let v := c.rx b
    demand c.lock.isNone 0x0C v
    let s ← get
    demand (s.lockValid v) 0x0B v
    let l := lockNamed v (t == 1)
    let banks := s.lockBanks l
    if s.planeOn s.cur banks || s.banksTaken banks then do
      modC fun c => { c with wait := some (.bank l.region l.first l.count) }
      stall
    else do
      modS fun s => s.recallBanks banks
      modC fun c => { c with lock := some l }
      acquire sc
      retire 4) s

/-- BKREL (R117, R228, R290). -/
def execBkrel (b : BitVec 5) (sc : BitVec 3) (s : State) : Host.Outcome State Fault Refusal :=
  settle (do
    scopeOk sc
    notGuest
    let c ← getC
    let v := c.rx b
    let same := c.lock.any fun l => v.toNat < 2 ^ 32 && lockNamed v l.strict == l
    demand same 0x0C v
    planeErrorPending
    let s ← get
    waitFor (!s.planeOn s.cur (s.lockBanks (lockNamed v false)))
    release sc
    modC fun c => { c with lock := none }
    retire 4) s

/-! ### NRED (R229, R230) -/

/-- The operators of NRED (R229). -/
inductive NredOp where
  | sum | fsum | max | emax
deriving DecidableEq, Repr

/-- The operator of a code (R229). -/
def nredOp (g : BitVec 2) : NredOp :=
  match g.toNat with
  | 0 => .sum
  | 1 => .fsum
  | 2 => .max
  | _ => .emax

/-- The identity (R230). -/
def NredOp.identity : NredOp → Nat
  | .sum => 0
  | .fsum => binary32.zero true
  | .max => binary32.inf true
  | .emax => binary32.inf true

/-- The combination of two values (R229 to R231); its flags are dropped (R78). -/
def NredOp.combine (f : NredOp) (a b : Nat) : Nat × BitVec 5 :=
  match f with
  | .sum => ((a + b) % 2 ^ 64, 0)
  | .fsum => binary32.add rne (binary32.decode a) (binary32.decode b)
  | .max => binary32.minmax true a b
  | .emax =>
    let r := expSum (a % 2 ^ 32) (a / 2 ^ 32) (b % 2 ^ 32) (b / 2 ^ 32)
    (r.1 + r.2 * 2 ^ 32, 0)

/-- An element as it enters the tree: signed 32-bit ones are extended (R229). -/
def NredOp.entry (f : NredOp) (v : Nat) : Nat := if f = .sum then wrapTo 64 (sintOf 32 v) else v

/-- The value of a reduction (R230). -/
def NredOp.value (f : NredOp) (vs : List Nat) : Nat :=
  if vs.isEmpty then f.identity else (treeOf f.combine f.identity f.identity (vs.map f.entry)).1

/-- NRED (R229, R230): elements lie in general pages and plane regions alone. -/
def execNred (a b c : BitVec 5) (sc : BitVec 3) (g : BitVec 2) (s : State) : Host.Outcome State Fault Refusal :=
  settle (do
    scopeOk sc
    notGuest
    let x ← getC
    let f := nredOp g
    let size := if f = .emax then 8 else 4
    let as := (List.range (slice (x.rx c) 0 32)).map fun i => x.rx b + BitVec.ofNat 64 (i * size)
    as.forM fun p => do
      let _ ← checkClass [.general, .plane] .load p size
      pure ()
    let vs ← as.mapM fun p => memRead p size
    acquire sc
    retireX 4 a (BitVec.ofNat 64 (f.value vs))) s

end Sys2Proof.Machine
end

