-- ==== Sys2Proof/Machine/Stitch.lean ====
section
/-!
DEFINITION. Stitch control and pushes, majors 24 and 25: casts, stops, waits, stitch events, links, landings
(R16, R21, R22, R245 to R262).
-/
namespace Sys2Proof.Machine

/-! ### Named stitches -/

/-- A stitch number of the tile, or cause 0x02 (R246). -/
def stitchNamed (n : Nat) : M (Fin 12) := do
  let s ← get
  if n < s.stitches then pure (s.stitchIx n) else reserved

/-- The stitches that a mask names, or cause 0x02 (R246, R247, R251). -/
def maskNamed (m : BitVec 8) : M (List (Fin 12)) := do
  let s ← get
  if m = 0 || 2 ^ s.stitches ≤ m.toNat then reserved
  else pure (((List.range 8).filter fun n => m.getLsbD n).map s.stitchIx)

/-- The code of a state (R245). -/
def RunState.code : RunState → Nat
  | .stopped => 0
  | .running => 1
  | .waiting => 2
  | .faulted => 3

/-- Stall, open to pending traps, unless the condition holds: CAST, STOP and SKILL (R301). -/
def pauseFor (ok : Bool) : M Unit := if ok then pure () else fun s => .error .pause s

/-! ### CAST and SFETCH -/

/-- The halfwords of a block: each on an executable page, or cause 0x05 with its address (R247). -/
def blockHalves (a : Word) : Nat → M (List Nat)
  | 0 => pure []
  | n + 1 => do
    let ph ← checkAccess .fetch a 2
    let h ← halfAt ph
    let t ← blockHalves (a + 2) n
    pure (h :: t)

/-- The number of instructions of a block, if it ends where one ends (R247). `skip` halfwords belong to
the instruction before. -/
def blockCount : Nat → List Nat → Option Nat
  | skip, [] => if skip = 0 then some 0 else none
  | 0, h :: t => (blockCount (instrLength h / 2 - 1) t).map (· + 1)
  | skip + 1, _ :: t => blockCount skip t

/-- A stitch receives a block: its halfwords (R55, R247). -/
def Ctx.receive (c : Ctx) (start stop : Word) (halves : List Nat) : Ctx :=
  { c with run := .running, wait := none, pc := start, castEnd := some stop, block := halves, ldst := ldNone c.ldst,
           begun := false, pushed := [] }

/-- A block goes to a stitch, which begins it with an acquire of the CAST (R247, R248). -/
def State.deliver (s : State) (k : Fin 12) (start stop : Word) (halves : List Nat) : State :=
  (s.acquiresBy k 1).updAt k fun x => x.receive start stop halves

/-- CAST: the block's length bits are read, the needle stalls until every named stitch has stopped, and
then all of them receive the block at once (R21, R247); a release at core scope (R248). -/
def castBlock (m : BitVec 8) (n : Nat) : M Unit := do
  onlyNeedle
  let who ← maskNamed m
  let c ← getC
  let halves ← blockHalves (c.pc + 4) n
  if (blockCount 0 halves).any (· ≤ 16) then pure () else reserved
  let s ← get
  pauseFor (who.all fun k => (s.ctxs.get k).run == .stopped)
  release 1
  let s ← get
  let stop := c.pc + 4 + BitVec.ofNat 64 (2 * n)
  set (who.foldl (fun s k => s.deliver k (c.pc + 4) stop halves) s)
  modC fun x => { x.retire (ldNone x.ldst) with pc := stop }

/-- The block length field: 1 to 64 halfwords; a field of 0 or above 64 is a reserved value (R136). -/
def castLengthOk (n : BitVec 7) : M Unit := if n = 0 || 64 < n.toNat then reserved else pure ()

/-- CAST (R247). -/
def execCast (m : BitVec 8) (n : BitVec 7) (s : State) : Host.Outcome State Fault Refusal :=
  settle (do
    castLengthOk n
    castBlock m n.toNat) s

/-- SFETCH: the stitch goes on by its own fetch (R249). -/
def execSfetch (f : BitVec 21) (s : State) : Host.Outcome State Fault Refusal :=
  settle (do
    onlyStitch
    modC fun c => { c.retire (ldNone c.ldst) with pc := c.pc + (sx f <<< 1), castEnd := none }) s

/-! ### STOP and WAITS -/

/-- A stitch stops: by STOP, or at the end of its cast block (R22, R247, R250). -/
def Ctx.halt (c : Ctx) : Ctx := { c with run := .stopped, castEnd := none }

/-- Every access that a context has issued is performed: its store streams, its plane instructions, its
collectives (R16, R286). -/
def Ctx.quiet (c : Ctx) : Bool := c.streamsDrained 255 && c.planes.isEmpty && c.colls.isEmpty

/-- Every channel that a tile's launch has kicked has written its started strips (R16, R270). -/
def State.channelsQuiet (s : State) (slot : Nat) : Bool :=
  s.wm.toList.all fun w => w.all fun b => b.role != .channel || b.slot != slot || b.settled

/-- The tile of a needle may end: every stitch stopped, nothing of the tile still to perform (R16, R250). DESIGN CHOICE
(log 72): beside a second tile the stitches are those of the needle's own tile. -/
def State.tileQuiet (s : State) (slot : Nat) : Bool :=
  match s.tileAt slot with
  | none => true
  | some t =>
    (t.stitchCtxs.all fun c => (s.ctxs.get c).run == .stopped) &&
      ((tileCtxs slot t).all fun c => (s.ctxs.get c).quiet) && s.channelsQuiet slot

/-- Every store of a tile's contexts is performed (R16, R371). -/
def State.performTile (s : State) (slot : Nat) : State :=
  match s.tileAt slot with
  | none => s
  | some t => s.settleStores fun e => (tileCtxs slot t).any fun c => c.val == e.ctx

/-- STOP: a stitch stops with its state intact, a release at core scope; a needle waits until its tile is quiet and ends
it (R16, R22, R250). -/
def execStop (s : State) : Host.Outcome State Fault Refusal :=
  settle (do
    notGuest
    let s ← get
    if s.kind = .stitch then do
      release 1
      modC fun c => (c.next 4 (ldNone c.ldst)).halt
    else do
      let slot := numOf s.cur
      planeErrorPending
      pauseFor (s.tileQuiet slot)
      modS fun s => s.performTile slot
      modC fun c => (c.next 4 (ldNone c.ldst)).halt
      modS fun s => s.setTile slot ((s.tileAt slot).map fun t => { t with ended := true })) s

/-- WAITS: parks the needle until every named stitch has stopped or faulted, and acquires (R251). -/
def execWaits (m : BitVec 8) (u : BitVec 1) (s : State) : Host.Outcome State Fault Refusal :=
  settle (do
    onlyNeedle
    let _ ← maskNamed m
    let s ← get
    if s.waitMet s.cur (.waits m) then do
      acquire 1
      retire 4
    else fun s => .error (.wait (.waits m) (u == 1)) s) s

/-! ### Stitch events -/

/-- The stitch's event is posted and not yet taken (R252, R253). -/
def State.eventPending (s : State) (c : Fin 12) : Bool :=
  (s.ctxs.get (ctxIx (s.slotOf c))).events.any fun e => e.code == 0x11 && e.src.toNat == s.stitchNo c

/-- The pending event of a stitch is cleared (R254, R255). -/
def State.clearEvent (s : State) (c : Fin 12) : State :=
  s.updAt (ctxIx (s.slotOf c)) fun n =>
    { n with events := n.events.filter fun e => !(e.code == 0x11 && e.src.toNat == s.stitchNo c) }

/-- The snapshot that SSTAT gives (R253). -/
def State.snapshot (s : State) (c : Fin 12) : Word :=
  let x := s.ctxs.get c
  BitVec.ofNat 64 (x.run.code + 8 * natOf (s.eventPending c) + 16 * natOf (x.v.toList.any fun r => r.link) +
    256 * (if x.run = .faulted then x.faultCause.toNat else 0) + 2 ^ 20 * x.vstart.toNat)

/-- SSTAT (R253). -/
def execSstat (a : BitVec 5) (sc : BitVec 3) (s : State) : Host.Outcome State Fault Refusal :=
  settle (do
    onlyNeedle
    let k ← stitchNamed sc.toNat
    let s ← get
    retireX 4 a (s.snapshot k)) s

/-- A faulted stitch runs again at its recorded pc, after an acquire of the SRESUME at core scope (R254, R293). -/
def State.resumeStitch (s : State) (k : Fin 12) : State :=
  ((s.acquiresBy k 1).clearEvent k).updAt k fun x =>
    { x with run := .running, faultCause := 0, faultInfo := 0 }

/-- SRESUME: a release at core scope (R293); a faulted stitch runs again (R254). -/
def execSresume (sc : BitVec 3) (s : State) : Host.Outcome State Fault Refusal :=
  settle (do
    onlyNeedle
    let k ← stitchNamed sc.toNat
    release 1
    let s ← get
    if (s.ctxs.get k).run = .faulted then
      set (s.resumeStitch k)
    else pure ()
    retire 4) s

/-- The region of an instruction. -/
def State.opRegion (s : State) (o : PlaneOp) : Option PlaneRegion := s.regions.find? fun r => r.handle == o.region

/-- The subarrays of the module that region subarrays are. -/
def State.physical (s : State) (o : PlaneOp) (ns : List Nat) : List Nat :=
  match s.opRegion o with
  | some r => ns.map r.sub
  | none => []

/-- Rows of a set of subarrays hold free values (R218, R255, log 4). -/
def State.freeRows (s : State) (subs rows : List Nat) : State :=
  subs.foldl (fun s sub => rows.foldl (fun s r =>
    { s.setRow (rowKey sub r) (Config.freeRow s.draws (rowKey sub r)) with draws := s.draws + 1 }) s) s

/-- The rows that a plane instruction writes in each subarray: of its slots only D, and none where it writes memory
(R203, R207, R224). -/
def PlaneOp.destRows (o : PlaneOp) : List Nat :=
  match o.kind with
  | .pxout _ => []
  | _ => if o.d.used then o.d.rows else []

/-- Queued plane instructions of a context are discarded; the batch of a started span leaves free values
in its destination rows (R255). -/
def State.killPlanes (s : State) (c : Fin 12) : State :=
  let s := (s.ctxs.get c).planes.foldl (fun s o => s.freeRows (s.physical o o.batch) o.destRows) s
  s.updAt c fun x => { x with planes := [], planeErr := [], barrier := 0 }

/-- Steps 2 to 6 of R255: the accesses that are issued are performed; the tile-start values, with the throw sequence
number kept, the lanes, and the watchdog timer, which is held (R314). -/
def State.endStitch (s : State) (c : Fin 12) : State :=
  let s := (((((s.settleCtx c).killPlanes c).dropHoldings c).killColls c).clearEvent c)
  s.updAt c fun x =>
    { Ctx.reset with pc := x.pc, alc := x.alc, throwSeq := x.throwSeq, collCounts := x.collCounts,
                     granted := x.granted, timer := x.timer, window := x.window, warned := x.warned }

/-- SKILL: ends a stitch in any state (R255). -/
def execSkill (sc : BitVec 3) (s : State) : Host.Outcome State Fault Refusal :=
  settle (do
    onlyNeedle
    let k ← stitchNamed sc.toNat
    modS fun s => s.updAt k fun x => { x with run := .stopped, wait := none, castEnd := none }
    let s ← get
    pauseFor ((s.ctxs.get k).streamsDrained 255)
    set (s.endStitch k)
    acquire 1
    retire 4) s

/-! ### Links -/

/-- VOFFER: the link-full bits of a group (R256). It leaves vstart (DESIGN CHOICE, log 73). -/
def execVoffer (b : BitVec 5) (s : State) : Host.Outcome State Fault Refusal :=
  settle (do
    onlyStitch
    let c ← getC
    let g := c.grp b
    landNamed g.regs
    legal g.aligned
    let c ← getC
    match g.regs.find? fun r => (c.vr r).fmt == 0 with
    | some r => trap 0x06 (BitVec.ofNat 64 r)
    | none => do
      noStream g.regs
      modC fun c => c.updVs g.regs fun _ r => { r with link := true }
      retire 4) s

/-- VLINK: a copy of an offered group of another stitch (R257). Both register numbers consume landings of the
issuing stitch, the source's too (R260, log 23). It leaves vstart (DESIGN CHOICE, log 73). -/
def execVlink (a b : BitVec 5) (sc : BitVec 3) (s : State) : Host.Outcome State Fault Refusal :=
  settle (do
    onlyStitch
    let c ← getC
    let ga := c.grp a
    let gb := c.grp b
    landNamed (ga.regs ++ gb.regs)
    let k ← stitchNamed sc.toNat
    let s ← get
    if k = s.cur then illegal else pure ()
    legal (ga.aligned && gb.aligned)
    noStream ga.regs
    let o := s.ctxs.get k
    waitFor (gb.regs.all fun r => (o.vr r).link)
    modC fun c => c.updVs ga.regs fun j r =>
      let src := o.vr (gb.reg + j)
      { r with data := src.data, fmt := src.fmt, width := src.width, hwm := src.hwm, dirty := true, link := false }
    modC fun c => c.next 4 ga.record) s

/-! ### Pushes -/

/-- The rows of 64 bytes that a high-water mark holds (R46). -/
def rowsOf (hwm : Nat) : Nat := ceilDiv hwm 64

/-- The rows that a context holds, landed ones among them; none while they are spilled (R46, R47). -/
def Ctx.rowsHeld (c : Ctx) : Nat :=
  if c.spilled then 0
  else (c.v.toList.map fun r => rowsOf r.hwm + ((r.landed.map fun l => rowsOf l.img.hwm).getD 0)).foldl (· + ·) 0

/-- The rows that the contexts of the core hold in its pool (R46). -/
def State.rowCount (s : State) : Nat := (s.ctxs.toList.map Ctx.rowsHeld).foldl (· + ·) 0

/-- Free rows of the core's pool of 1,792 (R46). -/
def State.freeRowCount (s : State) : Nat := 1792 - s.rowCount

/-- The stitch whose rows go to the spill area: of those that are blocked and hold rows the lowest priority, among equals
the youngest (R47). -/
def State.spillNext (s : State) : Option (Fin 12) :=
  let l := ((span 2 8).map ctxIx).filter fun c =>
    let x := s.ctxs.get c
    (x.run == .waiting || x.held) && x.rowsHeld != 0
  l.find? fun c => l.all fun o =>
    o == c || s.prioOf c < s.prioOf o || (s.prioOf c == s.prioOf o && s.olderThan o c)

/-- Rows are spilled until the pool holds those that contexts use, as long as a stitch is blocked (R47). -/
def State.spillRows (s : State) : Nat → State
  | 0 => s
  | n + 1 =>
    if s.rowCount ≤ 1792 then s
    else
      match s.spillNext with
      | none => s
      | some c => (s.updAt c fun x => { x with spilled := true }).spillRows n

/-- The register images of a group, as a push carries them (R260). -/
def Ctx.images (c : Ctx) (g : Grp) : List VImage :=
  g.regs.map fun r =>
    let v := c.vr r
    { data := v.data, fmt := v.fmt, width := v.width, hwm := v.hwm }

/-- No landing bit of the group is set (R261). -/
def Ctx.landingFree (c : Ctx) (first count : Nat) : Bool :=
  (span first count).all fun r => (c.vr r).landed.isNone

/-- An older push of another context waits for this group of `t` (R37, R261). -/
def State.olderPush (s : State) (t first count : Nat) : Bool :=
  (List.range 12).any fun n =>
    let o := ctxIx n
    o != s.cur && !(s.ctxs.get o).saved && s.olderThan o s.cur &&
      (match (s.ctxs.get o).wait with
       | some (.push left f k _ _) => left.contains t && f < first + count && first < f + k
       | _ => false)

/-- The images land on a context's registers (R260). -/
def State.landAt (s : State) (t : Fin 12) (first : Nat) (imgs : List VImage) : State :=
  s.updAt t fun c => imgs.zipIdx.foldl (fun c p =>
    c.updV (first + p.2) fun r =>
      { r with landed := some { img := p.1, first := first, count := imgs.length } }) c

/-- The rows that a landing takes (R46). -/
def imageRows (imgs : List VImage) : Nat := (imgs.map fun i => rowsOf i.hwm).foldl (· + ·) 0

/-- Where a push goes: a context of this core by its number, another core's by its ident + 12. -/
def State.pushTarget (s : State) (id : Nat) : Option Nat :=
  match s.local id with
  | some t =>
    if kindOf t = .stitch && (s.tileAt 0).any (fun x => x.holds (numOf t) && some x.launch == s.launchOf s.cur)
        || kindOf t = .stitch && (s.tileAt 1).any (fun x => x.holds (numOf t) && some x.launch == s.launchOf s.cur)
    then some t.val else none
  | none => (s.remoteNamed id).bind fun r => if some r.launch == s.launchOf s.cur then some (id + 12) else none

/-- One member of a push lands or is left to wait: a context that is saved takes none; gate, then free rows (R47,
R261). -/
def State.pushOne (s : State) (first : Nat) (imgs : List VImage) (t : Nat) : Option State :=
  if 12 ≤ t then some (s.send (.push (t - 12) (BitVec.ofNat 5 first) imgs))
  else
    let c := s.ctxs.get (ctxIx t)
    if !c.saved && c.landingFree first imgs.length && !s.olderPush t first imgs.length && imageRows imgs ≤ s.freeRowCount
    then some (s.landAt (ctxIx t) first imgs) else none

/-- The members of a push in turn; those that cannot land yet are left (R261, R262). -/
def State.pushAll (s : State) (first : Nat) (imgs : List VImage) : List Nat → State × List Nat
  | [] => (s, [])
  | t :: ts =>
    match s.pushOne first imgs t with
    | some s => s.pushAll first imgs ts
    | none =>
      let r := s.pushAll first imgs ts
      (r.1, t :: r.2)

/-- The checks of a push before its target operand; the answer is the source group (R261). -/
def pushChecks (a b : BitVec 5) : M Grp := do
  onlyStitch
  let c ← getC
  let ga := c.grp a
  let gb := c.grp b
  landNamed gb.regs
  legal (ga.aligned && gb.aligned)
  let c ← getC
  match gb.regs.find? fun r => (c.vr r).fmt == 0 with
  | some r => trap 0x06 (BitVec.ofNat 64 r)
  | none => do
    noStream gb.regs
    pure gb

/-- A target operand or gang entry in the layout of R261. -/
def targetOk (v : Nat) : Bool := v < 2 ^ 16 && v / 8 % 4 == 1

/-- The landings of a push, and its retirement when all are complete (R260 to R262). A member on which it has landed is not
pushed again. It leaves vstart (DESIGN CHOICE, log 73). -/
def pushOut (a : BitVec 5) (gb : Grp) (targets : List Nat) : M Unit := do
  let c ← getC
  let s ← get
  let imgs := c.images gb
  let r := s.pushAll a.toNat imgs (targets.filter fun t => !c.pushed.contains t)
  set r.1
  if r.2.isEmpty then retire 4
  else do
    let since := match c.wait with
      | some (.push _ _ _ _ t) => t
      | _ => s.now
    modC fun c => { c with pushed := targets.filter (fun t => !r.2.contains t),
                           wait := some (.push r.2 a.toNat gb.emul (imageRows imgs) since) }
    stall

/-- A push that is saved before it retires runs again whole: what it has landed on members and they have not consumed is freed
unseen (R261, R338). -/
def State.recallPush (s : State) (k : Fin 12) : State :=
  let c := s.ctxs.get k
  let mine (first count : Nat) (l : Landing) : Bool :=
    l.first == first && l.count == count && c.v.toList.any fun r => VImage.mk r.data r.fmt r.width r.hwm == l.img
  let s := match c.wait with
    | some (.push _ first count _ _) =>
      (c.pushed.filter (· < 12)).foldl (fun (s : State) t => s.updAt (ctxIx t) fun x =>
        (span first count).foldl (fun x n => x.updV n fun r =>
          if r.landed.any (mine first count) then { r with landed := none } else r) x) s
    | _ => s
  s.updAt k fun x => { x with pushed := [] }

/-- VPUSH (R261). An ident outside the partition is cause 0x15 (R346). -/
def execVpush (a b c : BitVec 5) (s : State) : Host.Outcome State Fault Refusal :=
  settle (do
    let gb ← pushChecks a b
    let x ← getC
    let id := x.rx c
    demand (targetOk id.toNat) 0x02 id
    let s ← get
    demand (s.identInside id.toNat) 0x15 id
    match s.pushTarget id.toNat with
    | none => trap 0x05 id
    | some t => pushOut a gb [t]) s

/-- The entries of a gang record, read at issue (R262). -/
def gangEntries (a : Word) : M (List Nat) := orNothing do
  let head ← readRecord a 8 1
  generalRecord a 1
  let n := head % 2 ^ 16
  demand (1 ≤ n && n ≤ 32 && head / 2 ^ 16 == 0) 0x02 a
  generalRecord a (n + 1)
  let body ← forRecord a (readWords (a + 8) n)
  let es := (List.range n).map fun j => bitsAt body (64 * j) 64
  demand (es.all targetOk && es.eraseDups.length == n) 0x02 a
  pure es

/-- The places of gang entries; one outside the launch is cause 0x05 with the entry's address (R262), one outside the
partition cause 0x15 with the ident (R346). -/
def gangTargets (a : Word) : List (Nat × Nat) → M (List Nat)
  | [] => pure []
  | (e, j) :: t => do
    let s ← get
    demand (s.identInside e) 0x15 (BitVec.ofNat 64 e)
    match s.pushTarget e with
    | none => trap 0x05 (a + BitVec.ofNat 64 (8 + 8 * j))
    | some k => do
      let r ← gangTargets a t
      pure (k :: r)

/-- VPUSHM: a gang; its record is read once, also where the instruction waits (R262). -/
def execVpushm (a b c : BitVec 5) (s : State) : Host.Outcome State Fault Refusal :=
  settle (do
    let gb ← pushChecks a b
    let x ← getC
    match x.wait with
    | some (.push left _ _ _ _) => pushOut a gb (x.pushed ++ left)
    | _ => do
      let ts ← orNothing (do
        let es ← gangEntries (x.rx c)
        gangTargets (x.rx c) es.zipIdx)
      pushOut a gb ts) s

/-- PUSH_LANDING: a group pushed by a stitch of another core lands on a stitch of this core (R260, R261); where no row is
free it stays blocked, and the sender's core tries again (R47). -/
def execPushLanding (stitch : Nat) (reg : BitVec 5) (imgs : List VImage) (s : State) :
    Host.Outcome State Fault Refusal :=
  let t := ctxIx (2 + stitch % 8)
  if (s.tileOf t).any (fun x => x.holds (stitch % 8)) && 1 ≤ imgs.length && imgs.length ≤ 8 && !(s.ctxs.get t).saved &&
      reg.toNat % imgs.length == 0 && (s.ctxs.get t).landingFree reg.toNat imgs.length
  then
    if imageRows imgs ≤ s.freeRowCount then .next { s.landAt t reg.toNat imgs with landSince := none }
    else .next { s with landSince := some (s.landSince.getD s.now) }
  else .next s

/-- ROW_SPILL: a landing has stayed blocked for 1 microsecond with no free row; the rows of a stitch blocked in
a full-empty wait are spilled, until its next instruction (R47). -/
def execRowSpill (stitch : Nat) (s : State) : Host.Outcome State Fault Refusal :=
  let t := ctxIx (2 + stitch % 8)
  let blocked := s.landSince.any (· + 1050 ≤ s.now) || s.ctxs.toList.any fun c =>
    match c.wait with
    | some (.push _ _ _ rows since) => since + 1050 ≤ s.now && s.freeRowCount < rows
    | _ => false
  let waits := match (s.ctxs.get t).wait with
    | some (.granules _ _) => true
    | _ => false
  if blocked && waits then .next (s.updAt t fun c => { c with spilled := true }) else .next s

end Sys2Proof.Machine
end

