-- ==== Sys2Proof/Machine/Carriage.lean ====
section
/-!
DEFINITION. The carriage: batches, source verify, rounds of standard forms and of user swatches, transfers,
retirement, detected plane errors and refresh (R65, R202, R205 to R222, R224, R289).
-/
namespace Sys2Proof.Machine

/-! ### Queues -/

/-- The instruction at the head of a context's queue in a stack (R205). -/
def State.headOp (s : State) (c : Fin 12) (stack : Nat) : Option PlaneOp :=
  (s.ctxs.get c).planes.find? fun o => o.stack == stack

/-- The first element that passes the test changed; none drops it. -/
def changeFirst (p : α → Bool) (f : α → Option α) : List α → List α
  | [] => []
  | a :: t => if p a then (match f a with
      | some b => b :: t
      | none => t) else a :: changeFirst p f t

/-- The state with the head instruction of a queue changed. -/
def State.updOp (s : State) (c : Fin 12) (stack : Nat) (f : PlaneOp → PlaneOp) : State :=
  s.updAt c fun x => { x with planes := changeFirst (fun o => o.stack == stack) (fun o => some (f o)) x.planes }

/-- The instruction moves data between memory and the planes (R224). -/
def PlaneOp.transfer (o : PlaneOp) : Bool :=
  match o.kind with
  | .pxin _ => true
  | .pxout _ => true
  | _ => false

/-- The started spans of a context are abandoned: each starts again from its first round after the restore
(R222). -/
def Ctx.abandonSpans (c : Ctx) : Ctx :=
  { c with planes := c.planes.map fun o =>
      let o := { o with moved := 0 }
      if o.batch.isEmpty || o.suspended then o else { o with suspended := true, abandoned := o.abandoned + 1 } }

/-- A span that pre-emption has restarted twice is not abandoned again (R222). -/
def PlaneOp.keepsRunning (o : PlaneOp) : Bool := 2 ≤ o.abandoned && !o.batch.isEmpty && !o.suspended

/-- The context's queues are stopped for a save (R222, R309, R386). -/
def State.queuesStopped (s : State) (c : Fin 12) : Bool :=
  (s.ctxs.get c).saved || s.mgmt.entering.isSome || (s.tileOf c).any fun t => t.stopping || t.frozen

/-- A round that others have looked at part-way; the queues stop only when it is over (R116, R222). -/
def PlaneOp.midRound (o : PlaneOp) : Bool := o.moved != 0 && !o.transfer

/-- The head instruction may go on: no save and no clamp holds it, no earlier PFENCE, and outside a started span no other
context's lock over a subarray that it has still to do (R117, R206, R222, R226, R384). -/
def State.opReady (s : State) (c : Fin 12) (o : PlaneOp) : Bool :=
  s.active && (!s.mgmt.clamp || o.midRound) &&
    (!s.queuesStopped c || ((o.keepsRunning || o.midRound) && !(s.ctxs.get c).saved)) &&
    !((s.ctxs.get c).planes.any fun p => p.barrier < o.barrier) &&
    ((!o.batch.isEmpty && !o.suspended) || (s.physical o o.left).all fun n => (s.lockOver c n).isNone)

/-- The subarrays that may compute at once in one bank (R206, R382, R384). -/
def State.budget (s : State) : Nat :=
  if s.mgmt.limit1 then 1
  else
    match s.mgmt.power with
    | .op n => if n.val = 0 then 4 else if n.val ≤ 3 then 2 else 1
    | _ => 1

/-- That number for a context: its launch's phase-table entry applies within it (R389). -/
def State.budgetOf (s : State) (c : Fin 12) : Nat :=
  match ((s.launchOf c).bind fun id => s.launches.find? fun l => l.id == id).bind s.phaseRow with
  | some r => max 1 (min s.budget r.b)
  | none => s.budget

/-- The next batch of an instruction: of every bank the first `b` subarrays left (R206). -/
def batchOf (banks b : Nat) (left : List Nat) : List Nat :=
  left.filter fun n => (left.filter fun m => m % banks == n % banks && m < n).length < b

/-- The batch that an instruction has or would take next. -/
def State.nextBatch (s : State) (c : Fin 12) (o : PlaneOp) : List Nat :=
  if o.batch.isEmpty then batchOf (((s.opRegion o).map (·.bankList.length)).getD 1) (s.budgetOf c) o.left else o.batch

/-- Another context's span holds one of these subarrays, or an older one wants it first (R37, R206). -/
def State.batchTaken (s : State) (c : Fin 12) (subs : List Nat) : Bool :=
  (List.range 12).any fun n =>
    let d := ctxIx n
    d != c && !(s.ctxs.get d).saved && (List.range 16).any fun stack =>
      match s.headOp d stack with
      | none => false
      | some o =>
        ((!o.batch.isEmpty && !o.suspended) || (!o.transfer && s.olderThan d c && s.opReady d o)) &&
          (s.physical o (s.nextBatch d o)).any fun x => subs.contains x

/-- The refresh of a vault that is due (R216). -/
def State.refreshAt (s : State) (vault : Nat) : VaultRefresh :=
  (s.refresh.find? fun r => r.vault == vault).getD { vault := vault, due := 4095, last := 0 }

/-- The refresh interval of a stack (R216). -/
def State.refreshInterval (s : State) (stack : Nat) : Nat := if s.mgmt.hot.contains stack then 2048 else 4095

/-- A vault of these subarrays must be refreshed before the next round (R216). -/
def State.refreshDue (s : State) (subs : List Nat) : Bool :=
  subs.any fun n => (s.refreshAt (n / 32 / 48)).due ≤ s.now

/-- The whole vaults of an instruction's next batch, for the order of refreshes. -/
def State.batchVaults (s : State) (c : Fin 12) (o : PlaneOp) : List Nat :=
  ((s.physical o (s.nextBatch c o)).map fun n => n / 32 / 48).eraseDups

/-- A round or a verify of the head instruction may start now. -/
def State.roundReady (s : State) (c : Fin 12) (o : PlaneOp) : Bool :=
  let subs := s.physical o (s.nextBatch c o)
  !o.transfer && !subs.isEmpty && s.opReady c o && !((o.batch.isEmpty || o.suspended) && s.batchTaken c subs)

/-- The residue latches of subarrays at the start of a span hold free values (R211, log 4). -/
def State.freeLatches (s : State) (subs : List Nat) : State :=
  subs.foldl (fun s sub =>
    let x := Config.freeRow s.draws (sub * 3)
    let y := Config.freeRow (s.draws + 1) (sub * 3 + 1)
    { ((s.setLatch sub 0 x).setLatch sub 1 (y &&& ~~~x)).setLatch sub 2 (Config.freeRow (s.draws + 2) (sub * 3 + 2)) with
      draws := s.draws + 3 }) s

/-- The span starts again from its first round: its live-in rows come back, and it is verified again (R215,
R217). -/
def State.restartSpan (s : State) (c : Fin 12) (o : PlaneOp) : State :=
  let s := o.spare.foldl (fun s p => s.setRow p.1 p.2) s
  let s := s.freeLatches (s.physical o o.batch)
  s.updOp c o.stack fun o => { o with here := o.spanAt, loops := o.spanLoops, rounds := 0, flag := false,
                                      verified := false, suspended := false, moved := 0 }

/-- A batch starts, its rows t0 to t7 and latches unspecified (R206, R207), or an abandoned span starts again
(R222). -/
def State.startBatch (s : State) (c : Fin 12) (o : PlaneOp) : State :=
  if !o.batch.isEmpty then (if o.suspended then s.restartSpan c o else s)
  else
    let b := s.nextBatch c o
    let subs := s.physical o b
    let s := (s.freeRows subs (span 1024 8)).freeLatches subs
    s.updOp c o.stack fun o => { o with batch := b, rounds := 0, here := 0, loops := [], spanAt := 0, spanLoops := [], spare := [],
                                        verified := false, flag := false, restarted := [], moved := 0 }

/-- The batch has run: the next one may start, or the instruction may retire (R205, R206). -/
def State.endBatch (s : State) (c : Fin 12) (stack : Nat) : State :=
  s.updOp c stack fun o => { o with left := o.left.filter fun n => !o.batch.contains n, batch := [], rounds := 0, here := 0,
                                    loops := [], verified := false, flag := false, restarted := [], abandoned := 0,
                                    suspended := false, moved := 0 }

/-! ### Detected plane errors (R218) -/

/-- The instruction ends with a detected plane error: its destination rows are unspecified in every subarray,
the context's later plane instructions go, the error waits to be raised once, a record is logged. -/
def State.planeFail (s : State) (c : Fin 12) (o : PlaneOp) : State :=
  let s := s.freeRows (s.planeSubs o) o.destRows
  let s := s.updAt c fun x =>
    { x with planes := x.planes.takeWhile fun p => !(p.stack == o.stack),
             planeErr := x.planeErr ++ [o.pc] }
  let s := match s.launchOf c with
    | some l => s.updLaunch l fun x => { x with planeErr := true }
    | none => s
  s.logEvent { cls := 0x32, unit := 4, place := o.stack * 4096, part := (s.partOf c).val, addr := o.pc.toNat,
               syndrome := 0, length := 0, descriptor := ((s.tileOf c).map (·.descAddr)).getD 0 }

/-- A mismatch: the first of a span in a batch restarts it, the second is a detected plane error (R217). -/
def State.mismatch (s : State) (c : Fin 12) (o : PlaneOp) (id : Nat) : State :=
  if o.restarted.contains id then s.planeFail c o
  else (s.restartSpan c o).updOp c o.stack fun o => { o with restarted := id :: o.restarted }

/-! ### Standard forms (R202, R219) -/

/-- The column of an operand: its unsigned pattern (R65, R96). -/
def State.column (s : State) (q : PlaneOperand) (sub col : Nat) : Nat :=
  ((List.range q.width).map fun b => natOf (bitOf (s.row (rowKey sub (q.rowbase + b))) col) * 2 ^ b).foldl (· + ·) 0

/-- The residue code of an operand's column (R65). -/
def State.code (s : State) (q : PlaneOperand) (sub col : Nat) : Nat :=
  natOf (bitOf (s.row (rowKey sub (q.rowbase + q.width))) col) +
    2 * natOf (bitOf (s.row (rowKey sub (q.rowbase + q.width + 1))) col)

/-- A pattern under the signedness of the form. -/
def planeValue (signed : Bool) (n v : Nat) : Int := if signed then sintOf n v else v

/-- The function of R202 on one element: patterns and widths of A and B, a scalar, the merge bit. -/
def planeElem (f : PFn) (sg : Bool) (wd wa wb a b : Nat) (scalar : Option Int) (m : Bool) : Nat :=
  let x := planeValue sg wa a
  let y := scalar.getD (planeValue sg wb b)
  let k := (scalar.getD 0).toNat
  let sat (n : Nat) (v : Int) : Int := if sg then satS n v else satU n v
  let bit (c : Bool) : Nat := natOf c
  match f with
  | .add => wrapTo wd (x + y)
  | .sub => wrapTo wd (x - y)
  | .rsub => wrapTo wd (y - x)
  | .mul => wrapTo wd (x * y)
  | .min => wrapTo wd (if x < y then x else y)
  | .max => wrapTo wd (if x < y then y else x)
  | .and => Nat.land a (wrapTo wd y)
  | .or => Nat.lor a (wrapTo wd y)
  | .xor => Nat.xor a (wrapTo wd y)
  | .sll => a * 2 ^ k % 2 ^ wd
  | .srl => a / 2 ^ k
  | .sra => wrapTo wd (sintOf wa a / (2 ^ k : Nat))
  | .sadd => wrapTo wd (sat wd (x + y))
  | .ssub => wrapTo wd (sat wd (x - y))
  | .merge => if m then b else a
  | .sat => if k + 1 < wd then wrapTo wd (sat (k + 1) x) else a
  | .sext => wrapTo wd (sintOf wa a)
  | .zext => a
  | .nclip => wrapTo wd (sat wd x)
  | .eq => bit (x == y)
  | .ne => bit (x != y)
  | .lt => bit (x < y)
  | .le => bit (x ≤ y)
  | .gt => bit (y < x)
  | .ge => bit (y ≤ x)

/-- VADD, VSUB and VRSUB whose plane sources all carry residues are checked by residue (R217). -/
def PlaneOp.byResidue (o : PlaneOp) (f : PFn) : Bool :=
  (f == .add || f == .sub || f == .rsub) && o.a.residue && (!o.b.used || o.b.residue)

/-- The residue that a residue-checked form writes: from the source codes, less the carry out; a column with
code 0b11 gives 0 (R211, R219, R220). -/
def expectedCode (f : PFn) (wd a b ca cb d : Nat) : Nat :=
  let exact : Int := match f with
    | .add => (a : Int) + b
    | .sub => (a : Int) - b
    | _ => (b : Int) - a
  let r : Int := match f with
    | .add => (ca : Int) + cb
    | .sub => (ca : Int) - cb
    | _ => (cb : Int) - ca
  if ca = 3 || cb = 3 then 0 else ((r + ((d : Int) - exact) / (2 ^ wd : Nat) * (2 ^ wd : Nat)) % 3).toNat

/-- One column of a standard form: the destination pattern and its residue code. -/
def State.formColumn (s : State) (o : PlaneOp) (f : PFn) (scalar : Option Int) (sub col : Nat) : Nat × Nat :=
  let a := s.column o.a sub col
  let b := if o.b.used then s.column o.b sub col else 0
  let m := o.e.used && bitOf (s.row (rowKey sub o.e.rowbase)) col
  let d := planeElem f o.signed o.d.width o.a.width o.b.width a b scalar m
  if o.byResidue f then
    let pb := if o.b.used then b else wrapTo o.d.width (scalar.getD 0)
    let cb := if o.b.used then s.code o.b sub col else pb % 3
    (d, expectedCode f o.d.width a pb (s.code o.a sub col) cb d)
  else (d, d % 3)

/-- A row whose column c holds bit `b` of the c-th number. -/
def rowOfBits (vs : List Nat) (b : Nat) : RowData :=
  BitVec.ofNat 8192 (vs.foldr (fun v acc => acc * 2 + v / 2 ^ b % 2) 0)

/-- The columns of a subarray written as an operand with its residue rows, where the mask is set. DESIGN CHOICE (log 74): a
row that the carriage writes keeps the reduction tags of its words (R113). -/
def State.putColumns (s : State) (q : PlaneOperand) (sub : Nat) (mask : RowData) (vs codes : List Nat) : State :=
  let put (s : State) (r : Nat) (v : RowData) : State :=
    s.setRow (rowKey sub r) ((s.row (rowKey sub r) &&& ~~~mask) ||| (v &&& mask))
  let s := (List.range q.width).foldl (fun s b => put s (q.rowbase + b) (rowOfBits vs b)) s
  if q.residue then
    put (put s (q.rowbase + q.width) (rowOfBits codes 0)) (q.rowbase + q.width + 1) (rowOfBits codes 1)
  else s

/-- A standard form on one subarray (R201, R202, R219). -/
def State.formOn (s : State) (o : PlaneOp) (f : PFn) (scalar : Option Int) (sub : Nat) : State :=
  let cols := (List.range 8192).map fun c => s.formColumn o f scalar sub c
  s.putColumns o.d sub (BitVec.allOnes 8192) (cols.map (·.1)) (cols.map (·.2))

/-- A source column whose residue code no longer agrees with its data (R65, R289). -/
def State.staleAt (s : State) (q : PlaneOperand) (sub : Nat) (cols : List Nat) : Bool :=
  q.used && q.residue && cols.any fun c => s.code q sub c != s.column q sub c % 3

/-- One of the first `n`. -/
def State.stale (s : State) (q : PlaneOperand) (sub n : Nat) : Bool := s.staleAt q sub (List.range n)

/-! ### The rounds of a standard form (R116, R220) -/

/-- A standard form that runs as the swatch of R220 for VADD with residues, or a variant of it. -/
def PlaneOp.asAdd (o : PlaneOp) (f : PFn) : Bool := o.byResidue f && o.d.residue

/-- One that runs as R220's swatch for VMUL of equal widths. -/
def PlaneOp.asMul (o : PlaneOp) (f : PFn) : Bool :=
  f == .mul && !o.checked && !o.d.residue && o.b.used && o.a.width == o.d.width && o.b.width == o.d.width

/-- One that runs as R220's swatch for VCMPLT, or a variant of it: D is written in its last round. -/
def PlaneOp.asCompare (o : PlaneOp) (f : PFn) : Bool :=
  [PFn.lt, .le, .gt, .ge].contains f && !o.checked && !o.d.residue && o.b.used

/-- The rounds of a standard form in a batch before its last: of the swatches that R220 gives one for each YIELD. -/
def PlaneOp.formRounds (o : PlaneOp) (op : Nat) : Nat :=
  let f := pfnOf op
  let n := o.d.width
  if o.asAdd f then n
  else if o.asMul f then n + n * (n - 1) / 2
  else if o.asCompare f then o.a.width
  else Config.formRounds op n

/-- The rows of an operand in a subarray, the lowest bit first. -/
def State.operandRows (s : State) (q : PlaneOperand) (sub : Nat) : List RowData :=
  (List.range q.width).map fun b => s.row (rowKey sub (q.rowbase + b))

/-- A row of all ones or of zeros. -/
def constRow (b : Bool) : RowData := if b then BitVec.allOnes 8192 else 0

/-- A carry chain over rows from a carry in: for each bit the carry into it and the sum (R220). -/
def carryChain : List RowData → List RowData → RowData → List (RowData × RowData)
  | x :: xs, y :: ys, c => (c, x ^^^ y ^^^ c) :: carryChain xs ys ((x &&& y) ||| (x &&& c) ||| (y &&& c))
  | _, _, _ => []

/-- The rows of the second source of an add, or those of its constant (R220). -/
def State.secondRows (s : State) (o : PlaneOp) (scalar : Option Int) (sub : Nat) : List RowData :=
  if o.b.used then s.operandRows o.b sub
  else (List.range o.d.width).map fun b => constRow (bitOf (BitVec.ofNat 16 (wrapTo o.d.width (scalar.getD 0))) b)

/-- The rows of D after the passes of R220's multiplication up to pass `p`. -/
def mulPasses (a b : List RowData) : Nat → List RowData
  | 0 => a.map fun x => x &&& b.getD 0 0
  | p + 1 =>
    let d := mulPasses a b p
    d.take (p + 1) ++ (carryChain (a.map fun x => x &&& b.getD (p + 1) 0) (d.drop (p + 1)) 0).map (·.2)

/-- The pass of a round of that multiplication, and the round's place in the pass. -/
def mulPlace (n r : Nat) : Nat → Nat × Nat
  | 0 => (0, r)
  | k + 1 =>
    let m := mulPlace n r k
    if m.1 = k && n - k ≤ m.2 then (k + 1, m.2 - (n - k)) else m

/-- What round `r` of a form whose swatch R220 gives writes in a subarray: a row of D, by what its column operations put
there first, the carry in or zeros, and by what it seals. -/
def State.roundRow (s : State) (o : PlaneOp) (f : PFn) (scalar : Option Int) (r sub : Nat) : Option (Nat × RowData × RowData) :=
  let a := s.operandRows o.a sub
  if o.asAdd f then
    let b := s.secondRows o scalar sub
    let flip (l : List RowData) : List RowData := l.map fun x => ~~~x
    let chain := match f with
      | .sub => carryChain a (flip b) (constRow true)
      | .rsub => carryChain (flip a) b (constRow true)
      | _ => carryChain a b 0
    chain[r]?.map fun x => (o.d.rowbase + r, x.1, x.2)
  else if o.asMul f then
    let n := o.d.width
    let b := s.operandRows o.b sub
    let m := mulPlace n r (n - 1)
    match m.1 with
    | 0 => (mulPasses a b 0)[m.2]?.map fun x => (o.d.rowbase + m.2, 0, x)
    | p + 1 =>
      let d := mulPasses a b p
      (carryChain (a.map fun x => x &&& b.getD (p + 1) 0) (d.drop (p + 1)) 0)[m.2]?.map fun x =>
        (o.d.rowbase + p + 1 + m.2, x.1, x.2)
  else none

/-- A round before the last one on its subarrays: the rows that the swatch of R220 writes, to what they hold part-way or at
its end; of other forms the destination rows hold what their swatch has written so far, free values here (log 4). -/
def State.roundOn (s : State) (o : PlaneOp) (f : PFn) (scalar : Option Int) (half : Bool) (subs : List Nat) : State :=
  if o.asAdd f || o.asMul f then
    subs.foldl (fun s n => match s.roundRow o f scalar o.rounds n with
      | some x => s.setRow (rowKey n x.1) (if half then x.2.1 else x.2.2)
      | none => s) s
  else if o.asCompare f then s
  else s.freeRows subs o.destRows

/-- The last round: the residue rows of a form by residue, nothing more of R220's multiplication, else the result. -/
def State.lastRoundOn (s : State) (o : PlaneOp) (f : PFn) (scalar : Option Int) (subs : List Nat) : State :=
  if o.asMul f then s
  else if o.asAdd f then
    subs.foldl (fun s n =>
      let codes := (List.range 8192).map fun c => (s.formColumn o f scalar n c).2
      let at_ := o.d.rowbase + o.d.width
      (s.setRow (rowKey n at_) (rowOfBits codes 0)).setRow (rowKey n (at_ + 1)) (rowOfBits codes 1)) s
  else subs.foldl (fun s n => s.formOn o f scalar n) s

/-- One round of a batch of a standard form, or the part of it that others may look at (R116): with the schedule's stop the
round stands part-way. With checking on a mismatch restarts the span once and then ends it (R217). -/
def State.formRound (s : State) (c : Fin 12) (o : PlaneOp) (op : Nat) (scalar : Option Int) (upset : Bool) : State :=
  let f := pfnOf op
  let subs := s.physical o o.batch
  if s.stopAt.isSome && o.moved = 0 && o.rounds < o.formRounds op then
    (s.roundOn o f scalar true subs).updOp c o.stack fun o => { o with moved := 1 }
  else if o.checked && upset then (s.roundOn o f scalar false subs).mismatch c o 0
  else if o.rounds < o.formRounds op then
    (s.roundOn o f scalar false subs).updOp c o.stack fun o => { o with rounds := o.rounds + 1, moved := 0 }
  else if o.checked && o.byResidue f && subs.any (fun n => s.stale o.a n 8192 || s.stale o.b n 8192) then s.mismatch c o 0
  else (s.lastRoundOn o f scalar subs).endBatch c o.stack

/-! ### User swatches (R208 to R217) -/

/-- The number of a span as it is met: the word it starts at and its loop indexes. -/
def PlaneOp.spanId (o : PlaneOp) : Nat :=
  o.spanAt + 2048 * (o.spanLoops.foldl (fun n l => n * 32 + l.index + 1) 0)

/-- A new span starts at the instruction's place: its t rows go to the spare rows (R215). -/
def State.startSpan (s : State) (c : Fin 12) (stack : Nat) : State :=
  match s.headOp c stack with
  | none => s
  | some o =>
    let subs := s.physical o o.batch
    let keep := subs.flatMap fun n => (span 1024 8).map fun r => (rowKey n r, s.row (rowKey n r))
    (s.freeLatches subs).updOp c stack fun o =>
      { o with spanAt := o.here, spanLoops := o.loops, spare := keep, verified := !o.checked, flag := false,
               abandoned := 0, moved := 0 }

/-- The words of one round, up to YIELD, END or the end of a span; after `n` of them the round stands part-way (R116, R213,
R217). -/
def State.swatchRound (s : State) (c : Fin 12) (stack : Nat) (words : List (BitVec 32)) (upset : Bool) : Nat → State
  | 0 => s.updOp c stack fun o => { o with moved := 1 }
  | n + 1 =>
    match s.headOp c stack with
    | none => s
    | some o =>
      let w := words.getD o.here 0
      if swOp w = 0 then s.endBatch c stack
      else
        let r := s.rowOps o words o.here o.loops (s.physical o o.batch)
        let x := swNext o words o.here o.loops
        let flag := o.flag || r.2
        let s := r.1.updOp c stack fun o => { o with flag := flag, here := x.1, loops := x.2 }
        if swOp w = 0x10 then s.updOp c stack fun o => { o with moved := 0 }
        else if swOp w = 0x0B && slice w 0 1 = 1 then
          (if flag || upset then s.mismatch c { o with flag := flag } o.spanId else s.startSpan c stack)
        else s.swatchRound c stack words upset n

/-! ### The events -/

/-- SOURCE_VERIFY: before the first round of a span the vault reads the span's source rows; an uncorrectable
error is a detected plane error (R217). -/
def execSourceVerify (c stack : Nat) (uncorrectable : Bool) (s : State) : Host.Outcome State Fault Refusal :=
  let k := ctxIx c
  match s.headOp k stack with
  | none => .next s
  | some o =>
    if s.roundReady k o && o.checked && !o.verified then
      let s := s.startBatch k o
      let o := (s.headOp k stack).getD o
      .next (if uncorrectable then s.planeFail k o else s.updOp k stack fun o => { o with verified := true })
    else .next s

/-- CARRIAGE_ROUND: one round of the head instruction's batch, or a part of it that the schedule chooses; `upset` is a
transient fault in it (R116, R213, R217). What the context has read ahead of the rows is marked (R118). -/
def execCarriageRound (c stack : Nat) (upset : Bool) (s : State) : Host.Outcome State Fault Refusal :=
  let k := ctxIx c
  match s.headOp k stack with
  | none => .next s
  | some o =>
    let subs := s.physical o (s.nextBatch k o)
    if s.roundReady k o && !s.refreshDue subs && (o.verified || !o.checked) then
      let s := s.startBatch k o
      let o := (s.headOp k stack).getD o
      match o.kind with
      | .form op scalar => .next ((s.formRound k o op scalar upset).noteOwn s k 8)
      | .prun words => .next ((s.swatchRound k stack words upset (s.stopAt.getD (2 ^ 22))).noteOwn s k 8)
      | _ => .next s
    else .next s

/-- One element of PXIN: its address (R224). -/
def elemAddr (base width i : Nat) : Nat := base + i * transferBytes width

/-- The elements of a subarray that lie below pvl. -/
def PlaneOp.elems (o : PlaneOp) (n : Nat) : Nat := min 8192 (o.count - (n - o.first) * 8192)

/-- The elements of the subarray being moved that are still to move, or as many of them as the schedule lets go (R100). -/
def State.toMove (s : State) (o : PlaneOp) (n : Nat) : List Nat :=
  let left := o.elems n - o.moved
  span o.moved (min left (s.stopAt.getD left))

/-- PXIN of the elements of a region subarray that are to move; the second part says whether each could be read (R224). -/
def State.pxinOn (s : State) (p : Fin 16) (o : PlaneOp) (base n : Nat) : State × Bool :=
  match s.opRegion o with
  | none => (s, false)
  | some r =>
    let es := s.toMove o n
    let at_ (c : Nat) : Nat := elemAddr base o.d.width ((n - o.first) * 8192 + c)
    let vs := es.map fun c => match s.engineRead p 2 (at_ c) (transferBytes o.d.width) with
      | .ok v => some (v % 2 ^ o.d.width)
      | .error _ => none
    let ok := (vs.takeWhile (·.isSome)).map (·.getD 0)
    let read := es.take ok.length
    let vals := List.replicate o.moved 0 ++ ok
    let mask : RowData := BitVec.ofNat 8192 ((2 ^ ok.length - 1) * 2 ^ o.moved)
    let s := read.foldl (fun s c => s.noteEngine p 2 (at_ c)) s
    (s.putColumns o.d (r.sub n) mask vals (vals.map (· % 3)), vs.all (·.isSome))

/-- PXOUT of the elements of a region subarray that are to move: ordinary writes of the extended elements, up to the first
that cannot be written (R224). -/
def State.pxoutOn (s : State) (p : Fin 16) (o : PlaneOp) (base n : Nat) : State × Bool :=
  match s.opRegion o with
  | none => (s, false)
  | some r =>
    (s.toMove o n).foldl (fun t c =>
      if !t.2 then t
      else
        let v := wrapTo 16 (planeValue o.signed o.d.width (t.1.column o.d (r.sub n) c))
        match t.1.engineWrite p 2 (elemAddr base o.d.width ((n - o.first) * 8192 + c)) (transferBytes o.d.width) v with
        | .ok u => (u, true)
        | .error _ => (t.1, false)) (s, true)

/-- `k` more elements of a subarray are transferred, or all of it. -/
def State.transferred (s : State) (c : Fin 12) (stack n k : Nat) : State :=
  s.updOp c stack fun o =>
    if o.elems n ≤ o.moved + k then { o with left := o.left.filter (· != n), moved := 0 }
    else { o with moved := o.moved + k }

/-- SUBARRAY_TRANSFER: PXIN or PXOUT moves its next subarray, or as many of its elements as the schedule chooses, each a
single access (R100, R224); `mismatch` counts transient residue mismatches of PXOUT, the second of which is a detected plane
error. -/
def execSubarrayTransfer (c stack mismatch : Nat) (s : State) : Host.Outcome State Fault Refusal :=
  let k := ctxIx c
  match s.headOp k stack with
  | none => .next s
  | some o =>
    match o.left with
    | [] => .next s
    | n :: _ =>
      let p := s.partOf k
      let subs := s.physical o [n]
      if !o.transfer || !s.opReady k o || s.refreshDue subs || s.batchTaken k subs then .next s
      else
        match o.kind with
        | .pxin base =>
          let r := s.pxinOn p o base n
          .next ((if r.2 then r.1.transferred k stack n (s.toMove o n).length else r.1.planeFail k o).noteOwn s k 8)
        | .pxout base =>
          let bad := o.checked && o.d.residue &&
            (2 ≤ mismatch || subs.any fun sub => s.staleAt o.d sub (s.toMove o n))
          let r := s.pxoutOn p o base n
          .next ((if bad then s.planeFail k o
            else if r.2 then r.1.transferred k stack n (s.toMove o n).length
            else r.1.planeFail k o).noteOwn s k 8)
        | _ => .next s

/-- PLANE_RETIRE: every batch of the head instruction has run (R205). -/
def execPlaneRetire (c stack : Nat) (s : State) : Host.Outcome State Fault Refusal :=
  let k := ctxIx c
  match s.headOp k stack with
  | none => .next s
  | some o =>
    if o.left.isEmpty && o.batch.isEmpty then
      .next (s.updAt k fun x => { x with planes := changeFirst (fun p => p.stack == stack) (fun _ => none) x.planes })
    else .next s

/-- DETECTED_PLANE_ERROR: the error is raised at the context's next instruction boundary, once (R218). -/
def execDetectedPlaneError (c : Nat) (s : State) : Host.Outcome State Fault Refusal :=
  let k := ctxIx c
  match (s.ctxs.get k).planeErr with
  | [] => .next s
  | a :: t =>
    if s.movable k && s.active then
      .next (({ s with cur := k }.upd fun x => { x with planeErr := t }).raise 0x16 a)
    else .next s

/-- REFRESH: a vault runs a refresh that is due; due times follow the schedule (R216). -/
def execRefresh (vault : Nat) (s : State) : Host.Outcome State Fault Refusal :=
  let r := s.refreshAt vault
  if r.due ≤ s.now then
    let step := s.refreshInterval (vault / 32)
    let due := r.due + ((s.now - r.due) / step + 1) * step
    .next { s with refresh := { vault := vault, due := due, last := s.now } :: s.refresh.filter fun x => x.vault != vault }
  else .next s

end Sys2Proof.Machine
end

