-- ==== Sys2Proof/Machine/Compact.lean ====
section
/-!
DEFINITION. The compact forms (R54, R133): each behaves as its base form with the first source set to the
register that ldst records, and is two bytes long.
-/
namespace Sys2Proof.Machine

/-- The register that ldst records, if it is valid and of a class: 0 x, 1 v, 2 k (R54). -/
def Ctx.chained (c : Ctx) (cls : Nat) : Option (BitVec 5) :=
  if c.ldst.getLsbD 7 && slice c.ldst 5 2 == cls then some (c.ldst.setWidth 5) else none

/-- The chain check: another record is cause 0x10 with the instruction's bits (R54, R133). -/
def chain (cls : Nat) (f : BitVec 5 → State → Host.Outcome State Fault Refusal) (s : State) :
    Host.Outcome State Fault Refusal :=
  match s.ctx.chained cls with
  | some a => f a s
  | none => .next (s.raise 0x10 s.ir)

/-- The chain check of a form that names v or k registers, which no needle has: cause 0x01 there comes first (R38,
R136). Landed groups that the form names are renamed whether or not the check fails (R260). -/
def chainV (cls : Nat) (named : Ctx → List Nat) (f : BitVec 5 → State → Host.Outcome State Fault Refusal) (s : State) :
    Host.Outcome State Fault Refusal :=
  if s.kind = .needle then .next (s.raise 0x01 s.ir)
  else
    match s.ctx.chained cls with
    | some a => f a s
    | none => settle (do
        landNamed (named s.ctx)
        trap 0x10 s.ir) s

/-- A scalar compact form on X[ldst] and a value (R133). -/
def compactX (f : Word → Word → Word) (d : BitVec 5) (v : State → Word) (s : State) :
    Host.Outcome State Fault Refusal :=
  chain 0 (fun a s => .next (s.doneX 2 d (f (s.ctx.rx a) (v s)))) s

/-- A compact load of `n` bytes at n × s(ldst) (R133). -/
def compactLoad (n : Nat) (f : Nat → Word) (d sc : BitVec 5) (s : State) : Host.Outcome State Fault Refusal :=
  chain 0 (fun a => settle (do
    let c ← getC
    let v ← memRead (c.rx a + BitVec.ofNat 64 (n * sc.toNat)) n
    retireX 2 d (f v))) s

/-- A compact vector form of majors 12 and 13 (R133). -/
def compactV (f : VFn) (d : BitVec 5) (b : VSrc) (s : State) : Host.Outcome State Fault Refusal :=
  chainV 1 (fun c => (c.grp d).regs ++ (b.grps c).flatMap Grp.regs) (fun a => vecArith 2 f d a b 0) s

/-- A compact mask form (R133). -/
def compactK (f : Bool → Bool → Bool) (d b : BitVec 3) (s : State) : Host.Outcome State Fault Refusal :=
  chainV 2 (fun _ => []) (fun a => maskOp 2 f d (a.setWidth 3) b) s

/-- CADD: ADD rd, ldst, x(s) (R133). -/
def execCadd (d sc : BitVec 5) (s : State) : Host.Outcome State Fault Refusal :=
  compactX (fun a b => a + b) d (fun s => s.ctx.rx sc) s

/-- CSUB: SUB (R133). -/
def execCsub (d sc : BitVec 5) (s : State) : Host.Outcome State Fault Refusal :=
  compactX (fun a b => a - b) d (fun s => s.ctx.rx sc) s

/-- CAND: AND (R133). -/
def execCand (d sc : BitVec 5) (s : State) : Host.Outcome State Fault Refusal :=
  compactX (fun a b => a &&& b) d (fun s => s.ctx.rx sc) s

/-- COR: OR (R133). -/
def execCor (d sc : BitVec 5) (s : State) : Host.Outcome State Fault Refusal :=
  compactX (fun a b => a ||| b) d (fun s => s.ctx.rx sc) s

/-- CXOR: XOR (R133). -/
def execCxor (d sc : BitVec 5) (s : State) : Host.Outcome State Fault Refusal :=
  compactX (fun a b => a ^^^ b) d (fun s => s.ctx.rx sc) s

/-- CSLL: SLL (R133). -/
def execCsll (d sc : BitVec 5) (s : State) : Host.Outcome State Fault Refusal :=
  compactX opSll d (fun s => s.ctx.rx sc) s

/-- CSRL: SRL (R133). -/
def execCsrl (d sc : BitVec 5) (s : State) : Host.Outcome State Fault Refusal :=
  compactX opSrl d (fun s => s.ctx.rx sc) s

/-- CSRA: SRA (R133). -/
def execCsra (d sc : BitVec 5) (s : State) : Host.Outcome State Fault Refusal :=
  compactX opSra d (fun s => s.ctx.rx sc) s

/-- CMUL: MUL (R133). -/
def execCmul (d sc : BitVec 5) (s : State) : Host.Outcome State Fault Refusal :=
  compactX (fun a b => a * b) d (fun s => s.ctx.rx sc) s

/-- CADDI: ADDI, s signed (R133). -/
def execCaddi (d sc : BitVec 5) (s : State) : Host.Outcome State Fault Refusal :=
  compactX (fun a b => a + b) d (fun _ => sx sc) s

/-- CANDI: ANDI, s signed (R133). -/
def execCandi (d sc : BitVec 5) (s : State) : Host.Outcome State Fault Refusal :=
  compactX (fun a b => a &&& b) d (fun _ => sx sc) s

/-- CSLLI: SLLI (R133). -/
def execCslli (d sc : BitVec 5) (s : State) : Host.Outcome State Fault Refusal :=
  compactX opSll d (fun _ => zx sc) s

/-- CSRLI: SRLI (R133). -/
def execCsrli (d sc : BitVec 5) (s : State) : Host.Outcome State Fault Refusal :=
  compactX opSrl d (fun _ => zx sc) s

/-- CSRAI: SRAI (R133). -/
def execCsrai (d sc : BitVec 5) (s : State) : Host.Outcome State Fault Refusal :=
  compactX opSra d (fun _ => zx sc) s

/-- CMV: ADDI rd, ldst, 0 (R133). -/
def execCmv (d : BitVec 5) (s : State) : Host.Outcome State Fault Refusal :=
  compactX (fun a b => a + b) d (fun _ => 0) s

/-- CLW: LW rd, 4 × s(ldst) (R133). -/
def execClw (d sc : BitVec 5) (s : State) : Host.Outcome State Fault Refusal :=
  compactLoad 4 (extendS 32) d sc s

/-- CLD: LD rd, 8 × s(ldst) (R133). -/
def execCld (d sc : BitVec 5) (s : State) : Host.Outcome State Fault Refusal :=
  compactLoad 8 (BitVec.ofNat 64) d sc s

/-- CVADD: VADD vd, ldst, v(s) (R133). -/
def execCvadd (d sc : BitVec 5) (s : State) : Host.Outcome State Fault Refusal :=
  compactV .add d (.vec sc) s

/-- CVSUB: VSUB vd, ldst, v(s) (R133). -/
def execCvsub (d sc : BitVec 5) (s : State) : Host.Outcome State Fault Refusal :=
  compactV .sub d (.vec sc) s

/-- CVMUL: VMUL vd, ldst, v(s) (R133). -/
def execCvmul (d sc : BitVec 5) (s : State) : Host.Outcome State Fault Refusal :=
  compactV .mul d (.vec sc) s

/-- CVMACC: VMACC vd, ldst, v(s) (R133). -/
def execCvmacc (d sc : BitVec 5) (s : State) : Host.Outcome State Fault Refusal :=
  chainV 1 (fun c => (c.grp d).regs ++ (c.grp sc).regs) (fun a => vecMac 2 .macc d a sc 0) s

/-- CVMIN: VMIN vd, ldst, v(s) (R133). -/
def execCvmin (d sc : BitVec 5) (s : State) : Host.Outcome State Fault Refusal :=
  compactV .min d (.vec sc) s

/-- CVMAX: VMAX vd, ldst, v(s) (R133). -/
def execCvmax (d sc : BitVec 5) (s : State) : Host.Outcome State Fault Refusal :=
  compactV .max d (.vec sc) s

/-- CVAND: VAND vd, ldst, v(s) (R133). -/
def execCvand (d sc : BitVec 5) (s : State) : Host.Outcome State Fault Refusal :=
  compactV .and d (.vec sc) s

/-- CVOR: VOR vd, ldst, v(s) (R133). -/
def execCvor (d sc : BitVec 5) (s : State) : Host.Outcome State Fault Refusal :=
  compactV .or d (.vec sc) s

/-- CVXOR: VXOR vd, ldst, v(s) (R133). -/
def execCvxor (d sc : BitVec 5) (s : State) : Host.Outcome State Fault Refusal :=
  compactV .xor d (.vec sc) s

/-- CVADDX: VADD vd, ldst, x(s) (R133). -/
def execCvaddx (d sc : BitVec 5) (s : State) : Host.Outcome State Fault Refusal :=
  compactV .add d (.scalar sc) s

/-- CVMULX: VMUL vd, ldst, x(s) (R133). -/
def execCvmulx (d sc : BitVec 5) (s : State) : Host.Outcome State Fault Refusal :=
  compactV .mul d (.scalar sc) s

/-- CKAND: KAND kd, ldst, k(s) (R133). -/
def execCkand (d sc : BitVec 3) (s : State) : Host.Outcome State Fault Refusal :=
  compactK Bool.and d sc s

/-- CKOR: KOR kd, ldst, k(s) (R133). -/
def execCkor (d sc : BitVec 3) (s : State) : Host.Outcome State Fault Refusal :=
  compactK Bool.or d sc s

/-- CKXOR: KXOR kd, ldst, k(s) (R133). -/
def execCkxor (d sc : BitVec 3) (s : State) : Host.Outcome State Fault Refusal :=
  compactK Bool.xor d sc s

end Sys2Proof.Machine
end

