-- ==== Sys2Proof/Machine/Matrix.lean ====
section
/-!
DEFINITION. Stationary regions, accumulator tiles and matrix instructions, major 23 and long major 3
(R73 to R75, R232 to R244).
-/
namespace Sys2Proof.Machine

/-! ### Weights (R232) -/

/-- Rows of a region. -/
def Region.k (r : Region) : Nat := 256 * r.kmac

/-- Columns of a region. -/
def Region.n (r : Region) : Nat := colsPerMacro r.wfmt * r.nmac

/-- Bits of a weight (R232). -/
def weightBits (wfmt : Nat) : Nat :=
  match wfmt with
  | 1 => 4
  | 2 => 2
  | 5 => 16
  | _ => 8

/-- A byte of the image. -/
def Region.byte (r : Region) (o : Nat) : Nat := (cellGet 0 r.image o).toNat

/-- The bits of W[row][col] (R232). -/
def Region.weight (r : Region) (row col : Nat) : Nat :=
  let base := row * 64 * r.nmac
  let w := weightBits r.wfmt
  if w = 16 then r.byte (base + 2 * col) + 256 * r.byte (base + 2 * col + 1)
  else r.byte (base + col * w / 8) / 2 ^ (col * w % 8) % 2 ^ w

/-- The value of an integer weight: signed, or the ternary code in which 0b10 is 0 (R61, R232). -/
def weightInt (wfmt v : Nat) : Int :=
  if wfmt = 2 then (match v with
    | 1 => 1
    | 3 => -1
    | _ => 0)
  else sintOf (weightBits wfmt) v

/-- The floating format of a weight; none for the integer formats (R232). -/
def weightFloat (wfmt : Nat) : Option FFmt :=
  match wfmt with
  | 3 => some fp8e4m3
  | 4 => some fp8e5m2
  | 5 => some bfloat16
  | _ => none

/-- Width of an A element (R232). -/
def aWidth (wfmt : Nat) : Nat := if wfmt = 5 then 16 else 8

/-- The A tags that a weight format takes (R232). -/
def aTagOk (wfmt fmt : Nat) : Bool :=
  match wfmt with
  | 3 => fmt == 5 || fmt == 6
  | 4 => fmt == 5 || fmt == 6
  | 5 => fmt == 4
  | _ => isInteger fmt

/-! ### Block alignment (R73, R74) -/

/-- A NaN or an infinity of a format (R74). -/
def FFmt.special (f : FFmt) (v : Nat) : Bool :=
  match f.decode v with
  | .num _ _ _ => false
  | _ => true

/-- The exponent of an element, at least 1 (R73). -/
def FFmt.expField (f : FFmt) (v : Nat) : Nat := max 1 (v / 2 ^ (f.p - 1) % 2 ^ f.w)

/-- The significand of an element (R73). -/
def FFmt.significand (f : FFmt) (v : Nat) : Nat :=
  (if v / 2 ^ (f.p - 1) % 2 ^ f.w = 0 then 0 else 2 ^ (f.p - 1)) + v % 2 ^ (f.p - 1)

/-- Aligned mantissas of a block and the exponent of its unit; none where it holds a NaN or an infinity. -/
def FFmt.align (f : FFmt) (mw : Nat) (els : List Nat) : Option (List Int × Int) :=
  if els.any f.special then none
  else
    let e := (els.map fun v => if v % 2 ^ (f.bits - 1) = 0 then 1 else f.expField v).foldl max 1
    some (els.map fun v =>
      let mag := f.significand v * 2 ^ (mw - 1 - f.p) / 2 ^ (e - f.expField v)
      if f.top v then -(mag : Int) else (mag : Int), (e : Int) - f.bias - (mw - 2))

/-- The exact sum of products of two lists. -/
def dot (a b : List Int) : Int := ((a.zip b).map fun p => p.1 * p.2).foldl (· + ·) 0

/-- An FP32 cell with one block added (R74, R75, R237). DESIGN CHOICE (log 71): a block sum that is exactly 0 has no sign of
its own and counts as +0, so that a cell that is -0 becomes +0 where the sum of the two is. -/
def addBlock (cell : Nat) (a b : Option (List Int × Int)) : Nat × BitVec 5 :=
  match a, b with
  | some (ma, xa), some (mb, xb) =>
    let s := dot ma mb
    binary32.add rne (binary32.decode cell) (.num (s < 0) s.natAbs (xa + xb))
  | _, _ => (binary32.qnan, flagNV)

/-! ### MSTAT (R233 to R235) -/

/-- The macros of a held region. -/
def Region.macros (r : Region) : List Nat := span r.macro0 (r.kmac * r.nmac)

/-- A stationary descriptor is neither held nor reserved by an MSTAT that is not complete (R50, R234). -/
def State.sdFree (s : State) (n : Nat) : Bool :=
  (s.sd.get (Fin.ofNat 8 n)).isNone && s.ctxs.toList.all fun x => x.reserve.all fun r => r.sd != n

/-- Another stitch's MSTAT that is not complete reserves the descriptor (R234, R242). -/
def State.sdReserved (s : State) (n : Nat) : Bool := (s.others s.cur).any fun x => x.reserve.any fun r => r.sd == n

/-- The macros are free for a region: not held or reserved, no map bytes, no stage queue, no strip buffer, and no more
than 32 held together (R90, R233, R234). -/
def State.macrosFree (s : State) (macro0 count : Nat) : Bool :=
  let lo := macro0 * 16384
  let hi := (macro0 + count) * 16384
  let meets (a n : Nat) : Bool := a < hi && lo < a + n
  let held := ((s.sd.toList.map fun r => (r.map fun r => r.kmac * r.nmac).getD 0) ++
    s.ctxs.toList.map fun x => (x.reserve.map (·.count)).getD 0).foldl (· + ·) 0
  (span macro0 count).all (fun m => !s.macroHeld m && (s.mapOf (m * 16384)).isNone) && held + count ≤ 32 &&
    s.coreMaps.all (fun m => !meets m.window m.length ||
      (span macro0 count).all fun k => s.outside.contains k || !(m.window < (k + 1) * 16384 && k * 16384 < m.window + m.length)) &&
    s.coreQueues.all (fun q => !meets q.offset (q.granules * 16)) &&
    s.wm.toList.all fun w => w.all fun b => b.role != .channel || !meets b.offset (2 * b.stripLen * b.esz)

/-- The lines of an image checked in ascending order (R234). One in a held or reserved macro is cause 0x0A (R243). -/
def imageCheck (a : Word) (lines : Nat) : M Unit :=
  (List.range lines).forM fun i => do
    let p := a + BitVec.ofNat 64 (128 * i)
    let s ← get
    demand (!(windowBase ≤ p.toNat && p.toNat < 2 ^ 55 && s.macroHeld ((p.toNat - windowBase) / 16384))) 0x0A p
    let _ ← checkClass [.general] .load p 16
    pure ()

/-- The bytes of an image read as 16-byte loads, zero bytes left out (R234). -/
def imageRead (a : Word) (pieces : Nat) : M Memory := do
  let vs ← (List.range pieces).mapM fun i => memRead (a + BitVec.ofNat 64 (16 * i)) 16
  pure ((vs.flatMap (leBytes 16)).zipIdx.filterMap fun p => if p.1 = 0 then none else some (p.2, p.1))

/-- Bound macros lose their stash contents and full-empty bits (R234), stores that only their contexts saw among
them. -/
def State.clearMacros (s : State) (macro0 count : Nat) : State :=
  let lo := macro0 * 16384
  let hi := (macro0 + count) * 16384
  let s := (s.settleStores fun e => stashKey lo ≤ e.key && e.key < stashKey hi).forgetEarly (stashKey lo) (stashKey hi - stashKey lo)
  let out (g : Nat) : Bool := !(lo ≤ g * 16 && g * 16 < hi)
  { s with mem := s.mem.filter (fun c => !(stashKey lo ≤ c.1 && c.1 < stashKey hi)),
           full := s.full.filter out, present := s.present.filter out }

/-- The state with a stationary descriptor held. -/
def State.setRegion (s : State) (sd : BitVec 3) (r : Region) : State :=
  { s with sd := s.sd.set sd.toNat (some r) sd.isLt }

/-- A needle or guest executes no matrix instruction (R236). -/
def matrixStitch : M Unit := do notNeedle; notGuest

/-- A tile that shares its core as the second one has no stash (R334). -/
def noSecondTile (a : Word) : M Unit := do
  let s ← get
  demand (!((s.tileOf s.cur).any fun t => t.desc.second)) 0x05 a

/-- MSTAT (R234, R235). -/
def execMstat (sd sc : BitVec 3) (macro0 : BitVec 8) (kmac nmac : BitVec 6) (wfmt : BitVec 4) (a : BitVec 5)
    (s : State) : Host.Outcome State Fault Refusal :=
  settle (do
    scopeOk sc
    if regionLimits macro0 kmac nmac wfmt then pure () else reserved
    matrixStitch
    let c ← getC
    noSecondTile (c.rx a)
    let s ← get
    let count := kmac.toNat * nmac.toNat
    let mine : Reserve := { sd := sd.toNat, macro0 := macro0.toNat, count := count }
    demand (c.reserve == some mine || (s.sdFree sd.toNat && s.macrosFree macro0.toNat count)) 0x0A (zx sd)
    modC fun c => { c with reserve := some mine }
    demand ((c.rx a).toNat % 128 == 0) 0x03 (c.rx a)
    imageCheck (c.rx a) (128 * count)
    let img ← imageRead (c.rx a) (1024 * count)
    let r : Region := Region.mk (c.rx a).toNat (numOf s.cur) macro0.toNat kmac.toNat nmac.toNat wfmt.toNat img
    modS fun s => (s.clearMacros macro0.toNat count).setRegion sd r
    acquire sc
    retire 8) s

/-! ### MMAC and MMACT (R236 to R238) -/

/-- A cell of a tile. -/
def Acc.cell (t : Acc) (i : Nat) : BitVec 32 := cellGet 0 t.cells i

/-- An accumulator tile by number. -/
def State.accAt (s : State) (a : Nat) : Option Acc := s.acc.get (Fin.ofNat 2 a)

/-- The state with an accumulator tile changed. -/
def State.setAcc (s : State) (a : Nat) (t : Option Acc) : State :=
  { s with acc := s.acc.set (Fin.ofNat 2 a).val t (Fin.ofNat 2 a).isLt }

/-- The operands of a matrix instruction: the region, the tile and the A registers, checked in order. -/
def matrixOperands (transpose : Bool) (a b : BitVec 5) (sd : BitVec 3) : M (Region × Acc) := do
  matrixStitch
  let c ← getC
  let ga := c.grp b
  vecBegin ga.regs
  legal ga.aligned
  noStream ga.regs
  let s ← get
  let c ← getC
  match s.sd.get sd.toFin with
  | none => trap 0x0A (zx sd)
  | some r =>
    demand (r.owner == numOf s.cur) 0x0A (zx sd)
    match s.accAt a.toNat with
    | none => trap 0x0A (zx a)
    | some t =>
      demand (t.owner == numOf s.cur) 0x0A (zx a)
      match ga.regs.find? fun n => !(aTagOk r.wfmt (c.vr n).fmt.toNat && widthOf (c.vr n).width == aWidth r.wfmt
          && aWidth r.wfmt == c.sew) with
      | some n => trap 0x06 (BitVec.ofNat 64 n)
      | none =>
        demand (t.fp32 == (weightFloat r.wfmt).isSome) 0x06 (zx a)
        demand (c.vl.toNat ≤ 4096 / c.sew && c.vl.toNat ≤ (if transpose then r.n else r.k)) 0x0A (zx c.vl)
        demand (c.vstart.toNat % 32 == 0) 0x0A (zx c.vstart)
        pure (r, t)

/-- Elements `lo` to `hi - 1` of a register of the A tile. -/
def aBlock (c : Ctx) (n lo hi : Nat) : List Nat :=
  (span lo (hi - lo)).map fun j => slice (c.vr n).data (j * c.sew) c.sew

/-- Wt(j, o) for j of a block (R237). -/
def Region.wtBlock (r : Region) (transpose : Bool) (o lo hi : Nat) : List Nat :=
  (span lo (hi - lo)).map fun j => if transpose then r.weight o j else r.weight j o

/-- A cell with one K block added, and its flags (R75, R237). -/
def blockCell (c : Ctx) (r : Region) (transpose : Bool) (n o lo hi cell : Nat) : Nat × BitVec 5 :=
  let fmt := (c.vr n).fmt.toNat
  let as := aBlock c n lo hi
  let ws := r.wtBlock transpose o lo hi
  match weightFloat r.wfmt, floatOf fmt c.sew with
  | some fw, some fa =>
    let mw := if r.wfmt = 5 then 16 else 8
    addBlock cell (fa.align mw as) (fw.align mw ws)
  | _, _ =>
    (wrapTo 32 ((cell : Int) + dot (as.map (valueOf (fmt == 2) 8)) (ws.map (weightInt r.wfmt))), 0)

/-- One K block on every row and output column (R237). -/
def blockStep (c : Ctx) (r : Region) (transpose : Bool) (b lo hi out : Nat) (t : Acc) : Acc × BitVec 5 :=
  (List.range (c.lmul * out)).foldl (fun x i =>
    let row := i / out
    let o := i % out
    let v := blockCell c r transpose (b + row) o lo hi (x.1.cell (row * 2048 + o)).toNat
    ({ x.1 with cells := cellPut 0 x.1.cells (row * 2048 + o) (BitVec.ofNat 32 v.1) }, x.2 ||| v.2)) (t, 0)

/-- The K blocks from `lo` on (R237). -/
def matrixBlocks (c : Ctx) (r : Region) (transpose : Bool) (b lo hi out : Nat) : Nat → Acc × BitVec 5 → Acc × BitVec 5
  | 0, x => x
  | n + 1, x =>
    if hi ≤ lo then x
    else
      let y := blockStep c r transpose b lo (min (lo + 32) hi) out x.1
      matrixBlocks c r transpose b (lo + 32) hi out n (y.1, x.2 ||| y.2)

/-- Where a matrix instruction ends for now: vl, or a K block boundary at which the schedule stops it (R238, log 3). -/
def State.blockStop (s : State) (lo hi : Nat) : Nat :=
  match s.stopAt with
  | some n => if n % 32 = 0 && lo < n && n < hi then n else hi
  | none => hi

/-- MMAC and MMACT, with their pre-emption points (R237, R238). -/
def matrixMac (transpose : Bool) (a b : BitVec 5) (sd : BitVec 3) (s : State) : Host.Outcome State Fault Refusal :=
  settle (do
    let (r, t) ← matrixOperands transpose a b sd
    let c ← getC
    let hi := c.vl.toNat
    let s ← get
    let stop := s.blockStop c.vstart.toNat hi
    let x := matrixBlocks c r transpose b.toNat c.vstart.toNat stop (if transpose then r.k else r.n) (hi / 32 + 1) (t, 0)
    modS fun s => s.setAcc a.toNat (some x.1)
    raiseFlags x.2
    if stop < hi then pointAt stop else pure ()
    modC fun c => { c.next 4 (ldNone c.ldst) with vstart := 0 }) s

/-- MMAC (R237). -/
def execMmac (a b : BitVec 5) (c : BitVec 3) (s : State) : Host.Outcome State Fault Refusal :=
  matrixMac false a b c s

/-- MMACT (R237). -/
def execMmact (a b : BitVec 5) (c : BitVec 3) (s : State) : Host.Outcome State Fault Refusal :=
  matrixMac true a b c s

/-! ### MZERO and MREL (R239, R242) -/

/-- MZERO (R239). It leaves vstart (DESIGN CHOICE, log 73). -/
def execMzero (a : BitVec 5) (m : BitVec 1) (s : State) : Host.Outcome State Fault Refusal :=
  settle (do
    matrixStitch
    let s ← get
    demand ((s.accAt a.toNat).all fun t => t.owner == numOf s.cur) 0x0A (zx a)
    modS fun s => s.setAcc a.toNat (some { owner := numOf s.cur, fp32 := m == 1, cells := [] })
    retire 4) s

/-- A region is freed: its macros stay outside every map (R242). -/
def State.freeRegion (s : State) (n : Nat) : State :=
  match s.sd.get (Fin.ofNat 8 n) with
  | none => s
  | some r => { s with sd := s.sd.set (Fin.ofNat 8 n).val none (Fin.ofNat 8 n).isLt,
                       outside := r.macros.foldl (fun l m => setAdd m l) s.outside }

/-- MREL (R242). It leaves vstart (DESIGN CHOICE, log 73). -/
def execMrel (a : BitVec 5) (t : BitVec 1) (s : State) : Host.Outcome State Fault Refusal :=
  settle (do
    matrixStitch
    let s ← get
    if t = 0 then do
      demand (((s.sd.get (Fin.ofNat 8 a.toNat)).all fun r => r.owner == numOf s.cur) && !s.sdReserved a.toNat) 0x0A (zx a)
      set (s.freeRegion a.toNat)
    else do
      demand ((s.accAt a.toNat).all fun t => t.owner == numOf s.cur) 0x0A (zx a)
      set (s.setAcc a.toNat none)
    retire 4) s

/-! ### MDRAIN and MDRAINX (R240, R241) -/

/-- Conv of R240 for a cell of integer or FP32 mode, and its flags. -/
def drainCell (fp32 : Bool) (fmt sew cell : Nat) (sc : Int) (m : RMode) : Nat × BitVec 5 :=
  match floatOf fmt sew with
  | some t =>
    if fp32 then
      match binary32.decode cell with
      | .num neg x e => t.round m (dyadic neg x (e + sc))
      | _ => binary32.convert t m cell
    else t.round m ((Exact.ofInt (sintOf 32 cell) 1).scale sc)
  | none =>
    if fp32 then
      match binary32.decode cell with
      | .num neg x e => toInteger m (fmt == 2) sew (dyadic neg x (e + sc))
      | _ => binary32.toInt m (fmt == 2) sew cell
    else ((toInteger m (fmt == 2) sew ((Exact.ofInt (sintOf 32 cell) 1).scale sc)).1, 0)

/-- The active cells of a drain in row-major order, each with its address (R240). -/
def drainCells (c : Ctx) (k : BitVec 3) (rowAddr : Nat → Int) : List (Nat × Nat × Word) :=
  (List.range c.lmul).flatMap fun r =>
    ((List.range c.vl.toNat).filter fun n => c.kbit k n && c.kbit k (2048 + r)).map fun n =>
      (r, n, BitVec.ofInt 64 (rowAddr r + n * (c.sew / 8 : Nat)))

/-- One cell of a drain: its row and column, its address and where that lies. -/
structure DrainCell where
  row : Nat
  col : Nat
  addr : Word
  place : Phys

/-- The rest of a drain after the checks of R241: `rowAddr` gives the address of a row (R240). Every cell is checked, a
strict lock and a stopped channel among its faults; then the drain waits until all can be written. -/
def drain (k : BitVec 3) (sc : Int) (rowAddr : Nat → Int) (t : Acc) : M Unit := do
  let c ← getC
  let n := c.sew / 8
  let cells ← (drainCells c k rowAddr).mapM fun x => atElement x.2.1 (do
    let ph ← checkAccess .store x.2.2 n
    stallFaults .store x.2.2 n ph
    pure (DrainCell.mk x.1 x.2.1 x.2.2 ph))
  cells.forM fun x => atElement x.col (stalls .store x.addr n x.place)
  cells.forM fun x => queueRoom x.place
  cells.forM fun x => do
    let v ← floatElem true c.frm fun m => drainCell t.fp32 c.vfmt c.sew (t.cell (x.row * 2048 + x.col)).toNat sc m
    modS fun s => s.store x.addr x.place n v
  modC fun c => { c.next 4 (ldNone c.ldst) with vstart := 0 }

/-- The tile of a drain, its length and its destination format (R240, R241). -/
def drainTile (a : BitVec 5) : M Acc := do
  let s ← get
  match s.accAt a.toNat with
  | none => trap 0x0A (zx a)
  | some t =>
    demand (t.owner == numOf s.cur) 0x0A (zx a)
    demand (s.ctx.vl.toNat ≤ 2048) 0x0A (zx s.ctx.vl)
    demand (1 ≤ s.ctx.vfmt && s.ctx.vfmt ≤ 6) 0x06 (zx a)
    pure t

/-- MDRAIN (R240). -/
def execMdrain (a b c : BitVec 5) (k : BitVec 3) (s : State) : Host.Outcome State Fault Refusal :=
  settle (do
    matrixStitch
    vecBegin []
    let t ← drainTile a
    let x ← getC
    let v := x.rx c
    demand (slice v 56 8 == 0) 0x02 v
    drain k (sintOf 8 (slice v 48 8)) (fun r => (x.rx b).toInt + r * sintOf 48 (slice v 0 48)) t) s

/-- MDRAINX (R240). -/
def execMdrainx (a b c : BitVec 5) (k : BitVec 3) (s : State) : Host.Outcome State Fault Refusal :=
  settle (do
    matrixStitch
    let gi : Grp := { reg := c.toNat, emul := 1, eew := 64 }
    vecBegin gi.regs
    noStream gi.regs
    let t ← drainTile a
    indexTags gi
    let x ← getC
    drain k 0 (fun r => (x.rx b).toInt + (x.elem gi r : Nat)) t) s

end Sys2Proof.Machine
end

