-- ==== Sys2Proof/Machine/Streams.lean ====
section
/-!
DEFINITION. Stream slots, copy channels, watermarks and signals, majors 26 and 27 and long major 1
(R52, R53, R263 to R278). The sequencers themselves are events.
-/
namespace Sys2Proof.Machine

/-! ### SBIND and SUNBIND -/

/-- A level of a pattern record, by its count and its stride (R263). -/
def patternLevel (r j : Nat) : Nat × Int := (bitsAt r (128 + 64 * j) 32, sintOf 32 (bitsAt r (160 + 64 * j) 32))

/-- The pattern that a record of 48 bytes gives, if its fields are within their limits (R263). -/
def patternOf (store : Bool) (reg : BitVec 5) (r : Nat) : Option Stream :=
  let nl := bitsAt r 66 3
  let ls := (List.range 4).map (patternLevel r)
  if bitsAt r 55 9 = 0 && 1 ≤ nl && nl ≤ 4 && bitsAt r 69 59 = 0 &&
      (ls.take nl).all (fun l => 1 ≤ l.1) && (ls.drop nl).all (fun l => l == (0, 0))
  then some { store := store, reg := reg, esz := BitVec.ofNat 2 (bitsAt r 64 2), base := bitsAt r 0 55,
              levels := ls.take nl, pos := 0, fetched := [], deliveries := [], blocked := none }
  else none

/-- SBIND (R263). -/
def execSbind (a b : BitVec 5) (sc : BitVec 3) (g : BitVec 1) (s : State) : Host.Outcome State Fault Refusal :=
  settle (orNothing do
    if a.toNat < 16 then reserved else pure ()
    onlyStitch
    let c ← getC
    let at_ := c.rx b
    let r ← readRecord at_ 16 6
    match patternOf (g == 1) a r with
    | none => trap 0x08 at_
    | some q => do
      let c ← getC
      demand (c.sq.get sc.toFin).isNone 0x08 (zx sc)
      match c.slotOf a.toNat with
      | some (n, _) => trap 0x08 (BitVec.ofNat 64 n)
      | none => do
        modC fun c => c.updSq sc.toNat fun _ => some q
        retire 4) s

/-- SUNBIND (R268). -/
def execSunbind (sc : BitVec 3) (s : State) : Host.Outcome State Fault Refusal :=
  settle (do
    onlyStitch
    let c ← getC
    waitFor (c.streamsDrained (2 ^ sc.toNat))
    modS fun s => if c.streamNamed (2 ^ sc.toNat) true then s.barred (2 ^ sc.toNat) else s
    modC fun c => c.updSq sc.toNat fun _ => none
    retire 4) s

/-! ### Watermark registers -/

/-- A watermark number: 16 to 31 are reserved values (R136). -/
def wmNumber (a : BitVec 5) : M (Fin 16) := if 16 ≤ a.toNat then reserved else pure (Fin.ofNat 16 a.toNat)

/-- The state with a watermark register changed. -/
def State.setWm (s : State) (n : Fin 16) (w : Option Watermark) : State :=
  { s with wm := s.wm.set n.val w n.isLt }

/-- The binding of a register, if it is the executing launch's; else cause 0x09 with the number (R52). -/
def ownBinding (n : Fin 16) : M Watermark := fun s =>
  match s.wm.get n with
  | none => .error (.trap 0x09#8 (BitVec.ofNat 64 n.val)) s
  | some w =>
    if s.inLaunch s.cur w then .ok w s else .error (.trap 0x09#8 (BitVec.ofNat 64 n.val)) s

/-! ### Copy channels -/

/-- A buffer of window offsets overlaps a stash map, a stage queue or another channel's buffer (R269). -/
def State.bufferTaken (s : State) (o n : Nat) : Bool :=
  s.coreMaps.any (fun m => rangesMeet o n m.window m.length) ||
    s.coreQueues.any (fun q => rangesMeet o n q.offset (16 * q.granules)) ||
    s.wm.toList.any fun w => w.any fun w => w.role == .channel && rangesMeet o n w.offset (2 * w.stripLen * w.esz)

/-- CHDECL (R269). DESIGN CHOICE (log 86): bits 63 to 55 of the base are not checked here; the channel's accesses fail where
they are not zero. -/
def execChdecl (xs xn : BitVec 5) (off : BitVec 18) (len : BitVec 12) (esz : BitVec 2) (a : BitVec 5)
    (s : State) : Host.Outcome State Fault Refusal :=
  settle (do
    let n ← wmNumber a
    notGuest
    let c ← getC
    let base := c.rx xs
    let count := (c.rx xn).toNat
    let eb := 2 ^ esz.toNat
    let strip := len.toNat + 1
    let o := 16 * off.toNat
    let size := 2 * strip * eb
    noSecondTile (BitVec.ofNat 64 (windowBase + o))
    let s ← get
    demand (s.wm.get n).isNone 0x09 (zx a)
    demand (base != 0 && 1 ≤ count && count < 2 ^ 32 && strip * eb % 16 == 0) 0x09 (zx a)
    demand (base.toNat % eb == 0) 0x03 base
    demand (o + size ≤ 0x3F0000 && !s.bufferTaken o size) 0x09 (zx a)
    demand ((span (o / 16384) ((o + size - 1) / 16384 + 1 - o / 16384)).all fun m => !s.macroHeld m) 0x0A (zx a)
    set (s.setWm n (some (Watermark.mk .channel (s.slotOf s.cur) base.toNat eb count 1 false 0 0 strip o false 0 0
      s.cur.val none false [])))
    retire 8) s

/-- The window's bytes that a channel's buffer takes (R269). -/
def Watermark.buffer (w : Watermark) : Nat × Nat := (stashKey w.offset, 2 * w.stripLen * w.esz)

/-- CHKICK (R270): a release towards the channel (R115); from now on accesses to its buffer wait for the strips, so that
nothing read ahead of it stays (R271). -/
def execChkick (a : BitVec 5) (s : State) : Host.Outcome State Fault Refusal :=
  settle (do
    let n ← wmNumber a
    notGuest
    let w ← ownBinding n
    demand (w.role == .channel && !w.kicked) 0x09 (zx a)
    let s ← get
    (s.rangeStarts w.base (w.count * w.esz)).forM fun p => do
      let _ ← checkClass [.general, .plane, .host, .peer] .load (BitVec.ofNat 64 p) 1
    modS fun s => (s.settleCtx s.cur).forgetEarly w.buffer.1 w.buffer.2
    modS fun s => s.setWm n (some { w with
      kicked := true, owner := s.cur.val, starts := List.replicate (min 2 w.strips) s.now })
    retire 4) s

/-! ### Watermarks -/

/-- The binding that a record of 24 bytes gives, if its fields are within their limits (R273). -/
def wmRecord (s : State) (sc : BitVec 3) (strip : Bool) (r : Nat) : Option Watermark :=
  let eb := 2 ^ bitsAt r 160 2
  let producer := bitsAt r 162 1 == 1
  let base := bitsAt r 0 64
  if base < 2 ^ 55 && base % eb == 0 && bitsAt r 64 64 % 8 == 0 && 1 ≤ bitsAt r 128 32 && bitsAt r 163 29 == 0 &&
      !(producer && strip)
  then some (Watermark.mk (if producer then .producer else .consumer) (s.slotOf s.cur) base eb (bitsAt r 128 32) sc
    strip 0 (bitsAt r 64 64) 0 0 false 0 0 s.cur.val none false [])
  else none

/-- WMBIND with b = 0: a channel waits for the strips it has started (R272, R273). -/
def unbindWm (n : Fin 16) : M Unit := do
  let s ← get
  match s.wm.get n with
  | none => retire 4
  | some _ => do
    let w ← ownBinding n
    if w.role == .channel then do
      modS fun s => s.setWm n (some { w with unbinding := true })
      waitFor w.settled
    else pure ()
    modS fun s => s.setWm n none
    retire 4

/-- A binding begins: nothing is granted under it (R274), and a load of its range waits from now on, so that nothing read
ahead of it stays (R31). -/
def State.beginBinding (s : State) (n : Fin 16) (w : Watermark) : State :=
  { s with ctxs := s.ctxs.map fun c =>
      { c with granted := c.granted.set n.val 0 n.isLt,
               early := c.early.filter fun e => !rangesMeet e.addr e.size w.base (w.count * w.esz) } }

/-- WMBIND (R273). -/
def execWmbind (a b : BitVec 5) (sc : BitVec 3) (g : BitVec 1) (s : State) : Host.Outcome State Fault Refusal :=
  settle (orNothing do
    let n ← wmNumber a
    if b = 0 then do
      if sc != 0 || g != 0 then reserved else pure ()
      notGuest
      unbindWm n
    else do
      scopeOk sc
      notGuest
      let c ← getC
      let at_ := c.rx b
      let r ← readRecord at_ 8 3
      let s ← get
      match wmRecord s sc (g == 1) r with
      | none => trap 0x09 at_
      | some w => do
        demand (s.wm.get n).isNone 0x09 at_
        let _ ← checkClass [.general] .load (BitVec.ofNat 64 w.word) 8
        modS fun s => (s.setWm n (some w)).beginBinding n w
        retire 4) s

/-- WMPUB (R275). -/
def execWmpub (a b : BitVec 5) (s : State) : Host.Outcome State Fault Refusal :=
  settle (do
    let n ← wmNumber a
    notGuest
    let w ← ownBinding n
    demand (w.role == .producer) 0x09 (zx a)
    let c ← getC
    let v := min (max w.value (c.rx b).toNat) w.count
    release w.scope
    let _ ← memRmw (BitVec.ofNat 64 w.word) 8 (fun old => some (max old v))
    modS fun s => s.setWm n (some { w with value := v })
    retire 4) s

/-- WMWAIT (R276). -/
def execWmwait (a b : BitVec 5) (u : BitVec 1) (s : State) : Host.Outcome State Fault Refusal :=
  settle (do
    let n ← wmNumber a
    notGuest
    let w ← ownBinding n
    let c ← getC
    let bound := if w.role == .channel then (c.rx b).toNat else min (c.rx b).toNat w.count
    if bound ≤ w.shown then do
      acquire w.scope
      retire 4
    else
      match w.failed with
      | some bad => trap 0x09 bad
      | none => fun s => .error (.wait (.mark n.val bound) (u == 1)) s) s

/-! ### Signals -/

/-- The word of a signal lies in general, host or peer memory (R277). A guest's far access comes first (log 67). -/
def signalCheck (acc : Access) (a : Word) : M Unit := do
  let s ← get
  let _ ← if s.kind = .guest && windowBase ≤ a.toNat then checkAccess acc a 8
    else checkClass [.general, .host, .peer] acc a 8
  pure ()

/-- SIGP (R277). -/
def execSigp (a b : BitVec 5) (sc : BitVec 3) (s : State) : Host.Outcome State Fault Refusal :=
  settle (do
    scopeOk sc
    let c ← getC
    signalCheck .atomic (c.rx a)
    release sc
    let _ ← memRmw (c.rx a) 8 (fun old => some (old + (c.rx b).toNat))
    retire 4) s

/-- SIGW (R278). -/
def execSigw (a b : BitVec 5) (sc : BitVec 3) (u : BitVec 1) (s : State) : Host.Outcome State Fault Refusal :=
  settle (do
    scopeOk sc
    notGuest
    let c ← getC
    signalCheck .load (c.rx a)
    let v ← memRead (c.rx a) 8
    if (c.rx b).toNat ≤ v then do
      acquire sc
      modS fun s => s.dropOwn 16
      retire 4
    else fun s => .error (.wait (.signal (c.rx a) (c.rx b).toNat) (u == 1)) s) s

end Sys2Proof.Machine
end

