-- ==== Sys2Proof/Machine/Scopes.lean ====
section
/-!
DEFINITION. Where an agent lies, and the instance of each scope around it (R6, R103).
-/
namespace Sys2Proof.Machine

/-- The agents of R103. A core is numbered in its module, a context in its core; a stream slot, a copy channel and a
carriage queue are where the context is that bound, declared or issued it, and a guest is on its guest slot's core. -/
inductive Agent where
  | context (module core num : Nat)
  | vault (module stack vault : Nat)
  | collective (modules : List Nat)
  | scheduler (module stack : Nat)
  | dispatcher (module : Nat)
  | host
deriving DecidableEq, Repr

/-- The module of an agent, where it lies in one. -/
def Agent.module? : Agent → Option Nat
  | .context m _ _ => some m
  | .vault m _ _ => some m
  | .scheduler m _ => some m
  | .dispatcher m => some m
  | _ => none

/-- An agent that lies in one module: it is in the instance of scope `sc`, below domain, of a context there. -/
def Agent.near (x : Agent) (sc core num : Nat) : Bool :=
  match x with
  | .context _ c n =>
    (4 ≤ sc || c / 128 == core / 128) && (3 ≤ sc || c / 4 == core / 4) && (2 ≤ sc || c == core) && (1 ≤ sc || n == num)
  | .vault _ st v => (4 ≤ sc || st == core / 128) && (3 ≤ sc || v == core / 4 % 32) && 2 ≤ sc
  | .scheduler _ st => 4 ≤ sc || (sc == 3 && st == core / 128)
  | .dispatcher _ => 3 ≤ sc
  | _ => false

/-- An agent lies in the instance of scope `sc` of a context (R6, R103). -/
def Agent.inside (x : Agent) (sc : Nat) (b : Agent) : Bool :=
  match b with
  | .context module core num =>
    match x with
    | .host => sc == 6
    | .collective ms => 5 ≤ sc || (sc == 4 && ms.contains module && ms.all (· == module))
    | _ => 5 ≤ sc || (x.module? == some module && x.near sc core num)
  | _ => sc == 6

end Sys2Proof.Machine
end

