-- ==== Sys2Proof/Machine/Throws.lean ====
section
/-!
DEFINITION. THROW and CATCH, major 28 (R33, R120, R279 to R283, R373).
-/
namespace Sys2Proof.Machine

/-- Where a throw goes: a vault of this module, or an offset in another module's memory. -/
inductive Home where
  | here (stack vault : Nat)
  | module (n offset : Nat)
deriving DecidableEq, Repr

/-- Cause 0x0D: a target without a home carries its address; on a guest the info is the pc (R279, R281). -/
def noHome (a : Word) : M α := fun s =>
  .error (.trap 0x0D#8 (if s.kind = .guest then s.ctx.pc else a)) s

/-- The home of a target (R33, R279). -/
def throwHome (a : Word) : M Home := do
  let va := a.toNat
  let s ← get
  let p := s.partOf s.cur
  let mb := (s.part p).mbox.toNat
  if windowBase ≤ va && va < 2 ^ 55 then noHome a
  else if 2 ^ 54 ≤ va then trap 0x04 a
  else if mb ≠ 0 && mb ≤ va && va < mb + 4096 then noHome a
  else do
    let e ← leafFor va
    match s.leafKey p e va with
    | .error c => trap c a
    | .ok k =>
      match leafClass e with
      | .peer => pure (.module ((k - 2 ^ 53) / 2 ^ 46) (k % 2 ^ 46))
      | cls =>
        match s.home cls k with
        | some (stack, vault) => pure (.here stack vault)
        | none => noHome a

/-- The lowest free ticket slot (R279). -/
def Ctx.freeTicket (c : Ctx) : Option (Fin 8) :=
  ((List.range 8).map (Fin.ofNat 8)).find? fun n => !(c.tickets.get n).used

/-- A scope at least as wide as `lo` (R120, R373). -/
def widen (sc : BitVec 3) (lo : Nat) : BitVec 3 := BitVec.ofNat 3 (max sc.toNat lo)

/-- The narrowest scope whose instance contains this context and a home (R6, R103, R120). -/
def State.homeScope (s : State) (h : Home) : Nat :=
  let module := s.mgmt.moduleNumber
  let home : Agent := match h with
    | .here stack vault => .vault module stack vault
    | .module n _ => .vault (if n = module then n + 1 else n) 0 0
  ((List.range 7).find? fun sc => home.inside sc (.context module s.coreId s.cur.val)).getD 6

/-- A throw or forward as a vendor-defined message carries it (R373). -/
def throwBytes (m : ThrowMsg) (offset : Nat) : List Byte :=
  leBytes 1 (if m.forwarded then 2 else 1) ++ leBytes 1 m.scope.toNat ++ leBytes 2 0 ++ leBytes 4 m.budget ++
    leBytes 4 m.thrower.toNat ++ leBytes 4 0 ++ leBytes 8 m.ticket.toNat ++ leBytes 8 m.target.toNat ++
    leBytes 8 offset ++ leBytes 8 m.entry.toNat ++ m.payload.flatMap (fun w => leBytes 8 w.toNat)

/-- A message goes to its home: this vault's queue, another vault, another module (R33, R373). -/
def State.dispatchThrow (s : State) (m : ThrowMsg) (h : Home) : State :=
  match h with
  | .here stack vault =>
    let m := { m with homeStack := stack, homeVault := vault }
    if stack = s.stack.toNat && vault = s.vault.toNat then { s with throws := s.throws ++ [(s.now, m)] }
    else s.send (.throwOut m)
  | .module n offset => s.send (.vdm n (throwBytes m offset))

/-- The payload of a throw (R279). -/
def Ctx.payload (c : Ctx) : List Word := (span 10 8).map fun n => c.rx (BitVec.ofNat 5 n)

/-- A guest's THROW forwards its call and ends the guest without a reply (R33, R281). A call of this core's own that goes
to another vault with a ticket is noted until its reply comes. -/
def forwardThrow (g : GuestInfo) (sc : BitVec 3) (target entry : Word) (h : Home) : M Unit := do
  modS fun s =>
    let m : ThrowMsg :=
      { forwarded := true, kept := h == .here g.homeStack g.homeVault, scope := widen sc (s.homeScope h),
        budget := g.budget - 1, thrower := g.thrower, ticket := g.ticket, target := target, entry := entry,
        payload := s.ctx.payload, homeStack := 0, homeVault := 0, partition := g.partition }
    let ours := bitOf g.ticket 3 && g.thrower.toNat / 65536 == s.mgmt.moduleNumber &&
      (s.local (g.thrower.toNat % 65536)).isSome
    let s := if ours && !m.kept then { s with forwards := s.forwards ++ [(g.thrower, g.ticket)] } else s
    ((s.dispatchThrow m h).disown [s.cur] 13).upd fun _ => Ctx.reset

/-- A needle's or stitch's THROW, with a ticket unless a = 0 (R279). -/
def sendThrow (a : BitVec 5) (sc : BitVec 3) (target entry : Word) (h : Home) : M Unit := do
  let s ← get
  let c := s.ctx
  let m (ticket : Word) : ThrowMsg :=
    { forwarded := false, kept := false, scope := widen sc (s.homeScope h), budget := 4096, thrower := s.farIdent s.cur,
      ticket := ticket, target := target, entry := entry, payload := c.payload, homeStack := 0, homeVault := 0,
      partition := (s.partOf s.cur).val }
  if a = 0 then do
    set (s.dispatchThrow (m 0) h)
    retireX 4 a 0
  else
    match c.freeTicket with
    | none => retireX 4 a 0
    | some n => do
      let ticket : Word := (zx c.throwSeq <<< 4) ||| BitVec.ofNat 64 (8 + n.val)
      set ((s.dispatchThrow (m ticket) h).upd fun c =>
        { c with throwSeq := c.throwSeq + 1,
                 tickets := c.tickets.set n.val { used := true, seq := c.throwSeq, issued := s.counted,
                                                  timeout := c.throwtmo.toNat, reply := none } n.isLt })
      retireX 4 a ticket

/-- A THROW is a release at its scope, widened to contain its home (R120, R373). -/
def releaseTo (sc : BitVec 3) (h : Home) : M Unit := modS fun s => s.releases (widen sc (s.homeScope h))

/-- THROW (R279, R281). -/
def execThrowCall (a b c : BitVec 5) (sc : BitVec 3) (s : State) : Host.Outcome State Fault Refusal :=
  settle (do
    scopeOk sc
    let x ← getC
    let target := x.rx b
    let entry := x.rx c
    match x.guest with
    | some g => do
      demand (a == 0 && !g.forwarded) 0x0D x.pc
      demand (entry.toNat % 2 == 0) 0x03 entry
      let h ← throwHome target
      releaseTo sc h
      forwardThrow g sc target entry h
    | none => do
      demand (entry.toNat % 2 == 0) 0x03 entry
      let h ← throwHome target
      releaseTo sc h
      sendThrow a sc target entry h) s

/-- A ticket slot is freed. -/
def Ctx.freeSlot (c : Ctx) (n : Fin 8) : Ctx := { c with tickets := c.tickets.set n.val Ticket.free n.isLt }

/-- The info of a guest fault as CATCH raises it (R282). -/
def guestInfo (cause : BitVec 8) (info : Word) : Word :=
  BitVec.ofNat 64 (cause.toNat * 2 ^ 56 + info.toNat % 2 ^ 55)

/-- The payload of a reply in x10 to x13 (R282). -/
def Ctx.takeReply (c : Ctx) (r : Reply) : Ctx :=
  (List.range 4).foldl (fun c i => c.setX (BitVec.ofNat 5 (10 + i)) ((r.vals[i]?).getD 0)) c

/-- CATCH (R282). -/
def execCatchReply (a b : BitVec 5) (u : BitVec 1) (s : State) : Host.Outcome State Fault Refusal :=
  settle (do
    notGuest
    let s ← get
    let ticket := s.ctx.rx b
    let n : Fin 8 := Fin.ofNat 8 (ticket.toNat % 8)
    let t := s.ctx.tickets.get n
    if !bitOf ticket 3 then retireX 4 a 3
    else if !t.used || t.seq.toNat ≠ ticket.toNat / 16 then retireX 4 a 2
    else
      match t.reply with
      | some r =>
        match r.gcause with
        | some cause => do
          modC fun c => c.freeSlot n
          acquire 6
          trap 0x0D (guestInfo cause r.info)
        | none => do
          modC fun c => (c.freeSlot n).takeReply r
          acquire 6
          retireX 4 a 0
      | none =>
        if s.ticketLate t then do
          modC fun c => c.freeSlot n
          retireX 4 a 1
        else fun s => .error (.wait (.reply ticket) (u == 1)) s) s

end Sys2Proof.Machine
end

