-- ==== Sys2Proof/Machine/Engines.lean ====
section
/-!
DEFINITION. The engines beside a thread: stream slots, channels, watermarks, waits that end, guests, replies and
collective engines (R36, R76, R114, R266, R270 to R274, R280 to R286, R373, R375).
-/
namespace Sys2Proof.Machine

/-- What an engine of a context does, in the context's place; a check that fails ends it there. -/
def State.engineRun (s : State) (c : Fin 12) (m : M Unit) : State :=
  match m { s with cur := c } with
  | .ok _ t => { t with cur := s.cur }
  | .error _ t => { t with cur := s.cur }

/-- The engines of a context may move: it belongs to a tile that stands on the core unsaved. -/
def State.enginesOn (s : State) (c : Fin 12) : Bool :=
  s.active && !(s.ctxs.get c).saved && (s.tileOf c).any fun t => !t.frozen

/-! ### Stream slots (R114, R266) -/

/-- Elements from `e` on are read ahead, up to the first that cannot be read now. -/
def fetchAhead (n : Nat) (q : Stream) (e : Nat) : Nat → M Unit
  | 0 => pure ()
  | k + 1 =>
    if q.total ≤ e then pure ()
    else do
      let ph ← streamAccess .load (q.addr e) q.size (some n)
      match ph with
      | none => pure ()
      | some ph => do
        let s ← get
        set (s.noteRead ph)
        let v := s.readN ph.key q.size
        modC fun c => c.updSq n fun o => o.map fun o => { o with fetched := o.fetched ++ [(e, v)] }
        fetchAhead n q (e + 1) k

/-- The first element that a load stream has not fetched. -/
def Stream.ahead (q : Stream) : Nat := q.fetched.foldl (fun m x => max m (x.1 + 1)) q.pos

/-- STREAM_FETCH: a load stream fetches its next element group ahead of consumption (R114). -/
def execStreamFetch (c sq : Nat) (s : State) : Host.Outcome State Fault Refusal :=
  let k := ctxIx c
  match (s.ctxs.get k).sq.get (Fin.ofNat 8 sq) with
  | none => .next s
  | some q =>
    if q.store || !s.enginesOn k then .next s
    else .next (s.engineRun k (fetchAhead sq q q.ahead (16 - q.ahead % 16)))

/-- The first delivery of a slot is done with. -/
def Ctx.dropDelivery (c : Ctx) (n : Nat) : Ctx :=
  c.updSq n fun o => o.map fun o => { o with deliveries := o.deliveries.drop 1 }

/-- A write by a slot of the moving context, unordered with the stores of its thread path (R99, R114); one to peer memory
stays unseen until its completion (R371). -/
def State.slotStore (s : State) (slot : Nat) (a : Word) (ph : Phys) (n v : Nat) : State :=
  let t := s.noteStore ph.key n
  let t := if ph.cls = .peer then
      { t with pending := t.pending ++ [{ ctx := s.cur.val, seq := slot + 1, addr := a.toNat, key := ph.key,
                                          granule := ph.granule, size := n, value := v, red := none }] }
    else t.put ph n v
  t.noteOwn s s.cur 4

/-- One delivered element is written. One that must wait, also for a strict lock, stays (R407); one that its
checks refuse now is lost (log 17). -/
def deliverOne (n : Nat) (q : Stream) (d : Delivery) : M Unit := fun s =>
  let a := q.addr d.element
  match checkAccess .store a q.size s with
  | .error _ t => .ok () (t.upd fun c => c.dropDelivery n)
  | .ok ph t =>
    match stalls .store a q.size ph t with
    | .error (.trap c _) t =>
      if c = 0x0C#8 then .error .stall (t.blockSlot n (.wait (.lock ph.key) false))
      else .ok () (t.upd fun c => c.dropDelivery n)
    | .error e t => .error .stall (t.blockSlot n e)
    | .ok _ t =>
      match queueRoom ph t with
      | .error e t => .error e t
      | .ok _ t => .ok () (((t.unblockSlot n).slotStore n a ph q.size d.value).upd fun c => c.dropDelivery n)

/-- The delivered elements of one element group, in order. -/
def deliverGroup (n : Nat) (q : Stream) : List Delivery → M Unit
  | [] => pure ()
  | d :: t => do
    deliverOne n q d
    deliverGroup n q t

/-- STREAM_WRITE: a store stream performs the writes of its first delivered group (R266). -/
def execStreamWrite (c sq : Nat) (s : State) : Host.Outcome State Fault Refusal :=
  let k := ctxIx c
  match (s.ctxs.get k).sq.get (Fin.ofNat 8 sq) with
  | none => .next s
  | some q =>
    if !s.enginesOn k then .next s
    else
      let g := ((q.deliveries.head?.map (·.element)).getD 0) / 16
      .next (s.engineRun k (deliverGroup sq q (q.deliveries.takeWhile fun d => d.element / 16 == g)))

/-! ### Copy channels (R270 to R272) and watermarks (R274) -/

/-- The window offset of an element of a channel (R269, R270). -/
def Watermark.place (w : Watermark) (e : Nat) : Nat :=
  w.offset + (e / w.stripLen % 2 * w.stripLen + e % w.stripLen) * w.esz

/-- The elements of the strips whose fetch has started (R270). -/
def Watermark.limit (w : Watermark) : Nat := min w.count (min (w.ended + 2) w.strips * w.stripLen)

/-- One element of a channel: read at its source and written to the strip buffer. -/
def stripElement (n : Nat) (w : Watermark) (e : Nat) : M Unit := do
  let ph ← checkAccess .load (BitVec.ofNat 64 (w.base + e * w.esz)) w.esz
  stalls .load (BitVec.ofNat 64 (w.base + e * w.esz)) w.esz ph
  modS fun s =>
    let o := w.place e
    let v := s.readN ph.key w.esz
    ((s.noteRead ph).put { cls := .stash, key := stashKey o, granule := some (o / 16) } w.esz v).setWm (Fin.ofNat 16 n)
      (some { w with filled := e + 1 })

/-- The elements from F on that lie in one granule; a read that its checks refuse stops the channel, one under
another context's lock waits (R271, log 17). -/
def stripRun (n g : Nat) : Nat → State → State
  | 0, s => s
  | k + 1, s =>
    match s.wm.get (Fin.ofNat 16 n) with
    | none => s
    | some w =>
      if w.failed.isSome || w.limit ≤ w.filled || w.place w.filled / 16 != g then s
      else
        match stripElement n w w.filled { s with cur := ctxIx w.owner } with
        | .ok _ t => stripRun n g k { t with cur := s.cur }
        | .error (.trap c a) t =>
          if c = 0x0C#8 then { t with cur := s.cur }
          else { t with cur := s.cur }.setWm (Fin.ofNat 16 n) (some { w with failed := some a })
        | .error _ t => { t with cur := s.cur }

/-- A channel that has ended, or is unbound, becomes free once its started strips are written (R272). -/
def State.freeChannel (s : State) (n : Nat) : State :=
  match s.wm.get (Fin.ofNat 16 n) with
  | none => s
  | some w =>
    if w.role == .channel && w.kicked && (w.unbinding || w.strips ≤ w.ended) && w.settled then
      s.setWm (Fin.ofNat 16 n) none
    else s

/-- The place in the window of the strip that a channel fills next, and when its fetch was started (R115, R270). -/
def Watermark.stripNow (w : Watermark) : Nat × Nat × Nat :=
  let k := w.filled / w.stripLen
  (w.starts.getD k 0, w.offset + k % 2 * w.stripLen * w.esz, w.stripLen * w.esz)

/-- STRIP_WRITE: a channel fills its next granule (R270, R271), no earlier engine command on that range being left
(R115). -/
def execStripWrite (wm : Nat) (s : State) : Host.Outcome State Fault Refusal :=
  match s.wm.get (Fin.ofNat 16 wm) with
  | none => .next s
  | some w =>
    if w.role == .channel && w.kicked && s.enginesOn (ctxIx w.owner) && s.engineFree w.stripNow.1 [] [w.stripNow.2] then
      .next ((stripRun wm (w.place w.filled / 16) 16 s).freeChannel wm)
    else .next s

/-- WATERMARK_REREAD: a consumer binding reads its word again (R274). -/
def execWatermarkReread (wm : Nat) (s : State) : Host.Outcome State Fault Refusal :=
  match s.wm.get (Fin.ofNat 16 wm) with
  | none => .next s
  | some w =>
    if w.role == .consumer then
      match s.peek (ctxIx w.owner) (BitVec.ofNat 64 w.word) 8 with
      | some v => .next (s.setWm (Fin.ofNat 16 wm) (some { w with value := max w.value (min v w.count) }))
      | none => .next s
    else .next s

/-! ### Waits that end (R36) -/

/-- A waiting context runs again: its instruction, the one at its pc, finds its condition. A stall on a watermark, a channel
or a bank lock ends as an acquire (R31, R104, R115, R117). -/
def State.wakeCtx (s : State) (c : Fin 12) : State :=
  (s.acquiresBy c (((s.ctxs.get c).wait.map s.waitScope).getD 0)).updAt c fun x => { x with run := .running }

/-- A context waits and its condition holds. -/
def State.wakeable (s : State) (c : Fin 12) : Bool :=
  let x := s.ctxs.get c
  x.run == .waiting && s.active && !x.saved && x.wait.any (s.waitMet c ·)

/-- No older context of the same priority is to be woken before this one (R37). -/
def State.wakesFirst (s : State) (c : Fin 12) : Bool :=
  (List.range 12).all fun n =>
    let o := ctxIx n
    o == c || !s.wakeable o || s.prioOf o != s.prioOf c || s.olderThan c o

/-- The host lines of the words that a context waits on (R402). -/
def State.watchedLines (s : State) (c : Fin 12) : List Nat :=
  let line (a : Nat) : List Nat := ((s.peekKey c a).bind hostLine).toList
  if (s.ctxs.get c).run == .waiting then
    match (s.ctxs.get c).wait with
    | some (.signal a _) => line a.toNat
    | some (.words _ _ ps) => ps.flatMap fun p => line p.2.1
    | _ => []
  else []

/-- A waiter whose line a snoop has taken reads its word again, through RdShared (R400, R402). -/
def State.watchAgain (s : State) (c : Fin 12) : State :=
  match (s.watchedLines c).find? fun l => (s.line? l).isNone with
  | some l => if s.active then (s.setLine l (some .shared)).send (.cxl 0 l) else s
  | none => s

/-- ARCHITECTURAL_WAIT_END: a context whose condition has become true runs again (R36), the oldest first (R37); one whose
host line is lost reads it again (R402). -/
def execArchitecturalWaitEnd (c : Nat) (s : State) : Host.Outcome State Fault Refusal :=
  let k := ctxIx c
  if s.wakeable k && s.wakesFirst k then .next (s.wakeCtx k) else .next (s.watchAgain k)

/-! ### Guests and replies (R33, R280 to R283) -/

/-- The registers of a guest at its start (R280). -/
def guestX (m : ThrowMsg) : Vector Word 32 :=
  Vector.ofFn fun n =>
    if n.val = 1 then replyAddr
    else if n.val = 3 then m.target
    else if n.val = 4 then m.thrower
    else if 10 ≤ n.val && n.val < 18 then (m.payload[n.val - 10]?).getD 0
    else 0

/-- A guest whose throw arrived at a cycle, at its start (R37, R280, R281, R314). -/
def guestStart (arrived : Nat) (m : ThrowMsg) (window : Nat) : Ctx :=
  { Ctx.reset with
    run := .running, pc := m.entry, x := guestX m, window := window,
    guest := some { forwarded := m.forwarded, kept := m.kept, scope := m.scope, budget := m.budget,
                    thrower := m.thrower, ticket := m.ticket, homeStack := m.homeStack,
                    homeVault := m.homeVault, partition := m.partition, lender := none, arrived := arrived } }

/-- A throw of this thread to this home has not been replied to: its guest, or a forward of it that stays here,
runs, such a forward waits, or it went on to another home (R33, log 76). -/
def State.throwerBusy (s : State) (thrower : Word) : Bool :=
  ([10, 11].any fun n => ((s.ctxs.get (ctxIx n)).guest).any fun g =>
    g.thrower == thrower && (!g.forwarded || g.kept)) ||
    s.throws.any (fun o => o.2.thrower == thrower && o.2.forwarded && o.2.kept) || s.forwards.any fun f => f.1 == thrower

/-- The first entry in arrival order that may start (R33): its place. A forward always may; a throw, unless an
earlier throw of its thread is here. -/
def State.nextThrow (s : State) : Option Nat :=
  (List.range s.throws.length).find? fun i =>
    match s.throws[i]? with
    | none => false
    | some (_, m) => m.forwarded ||
        (!s.throwerBusy m.thrower && !(s.throws.take i).any fun o => o.2.thrower == m.thrower && !o.2.forwarded)

/-- GUEST_START: a throw starts in the core's first free guest slot (R33, R280). -/
def execGuestStart (slot : Nat) (s : State) : Host.Outcome State Fault Refusal :=
  let free (n : Nat) : Bool := (s.ctxs.get (ctxIx (10 + n))).guest.isNone
  if !free (slot % 2) || (slot % 2 = 1 && free 0) || !s.accepting then .next s
  else
    match s.nextThrow with
    | none => .next s
    | some i =>
      match s.throws[i]? with
      | none => .next s
      | some (t, m) =>
        .next ({ s with throws := s.throws.take i ++ s.throws.drop (i + 1) }.updAt (ctxIx (10 + slot % 2)) fun _ =>
          guestStart t m (s.part s.corePart).wdctl)

/-- A reply fills its ticket slot; one whose slot has been freed is discarded (R283). -/
def Ctx.hear (c : Ctx) (ticket : Word) (r : Reply) : Ctx :=
  let n : Fin 8 := Fin.ofNat 8 (ticket.toNat % 8)
  let t := c.tickets.get n
  if bitOf ticket 3 && t.used && t.seq.toNat = ticket.toNat / 16 && t.reply.isNone then
    { c with tickets := c.tickets.set n.val { t with reply := some r } n.isLt }
  else c

/-- A thrower that pre-emption has taken off the core hears its reply too: it waits in its slot (R283). -/
def State.hearSaved (s : State) (n : Nat) (ticket : Word) (r : Reply) : State :=
  { s with savedTiles := s.savedTiles.map fun t =>
      { t with ctxs := t.ctxs.map fun p => if p.1 == n then (p.1, p.2.hear ticket r) else p } }

/-- REPLY_ARRIVAL: a reply of a local guest, or one from outside the core, arrives at its thrower (R283). -/
def execReplyArrival (c : Nat) (ticket : Word) (gcause : Option (BitVec 8)) (info : Word) (vals : List Word)
    (s : State) : Host.Outcome State Fault Refusal :=
  let k := ctxIx c
  let r : Reply := { gcause := gcause, info := info, vals := (vals ++ List.replicate 4 0).take 4 }
  let r : Reply := if gcause.isSome then { r with vals := [] } else { r with info := 0 }
  let s := { s with replies := s.replies.erase (k, ticket, r),
                    forwards := s.forwards.filter fun f => !(f.1 == s.farIdent k && f.2 == ticket) }
  .next ((s.updAt k fun x => x.hear ticket r).hearSaved k.val ticket r)

/-- THROW_TIMEOUT: throwtmo has passed for a ticket with no reply; a CATCH that waits for it runs again
(R282, R283). -/
def execThrowTimeout (c slot : Nat) (s : State) : Host.Outcome State Fault Refusal :=
  let k := ctxIx c
  let x := s.ctxs.get k
  let t := x.tickets.get (Fin.ofNat 8 slot)
  let mine := match x.wait with
    | some (.reply ticket) => ticket.toNat % 8 == slot % 8
    | _ => false
  if t.used && t.reply.isNone && s.ticketLate t && mine && x.run == .waiting && !x.saved && s.active then
    .next (s.wakeCtx k)
  else .next s

/-- The throw of another module at its home: bytes 32 to 39 of its message name a stack and a name in its general space,
which must lie within the chunks of a partition that is paired with the thrower's module; else it is discarded (R363, R369,
R370, R373). -/
def State.throwFrom (s : State) (m : ThrowMsg) (home : Nat) : Option ThrowMsg :=
  let stack := home / 2 ^ 40
  let name := home % 2 ^ 40
  let far := m.thrower.toNat / 65536 % 64
  match (if stack < 16 && far != s.mgmt.moduleNumber then s.ownerOf stack else none) with
  | none => none
  | some p =>
    if s.mgmt.accepted.getLsbD 1 && s.ownsGeneral p stack name && (s.part p).paired.any fun x => x.1 == far then
      (s.home .general (generalKey stack name)).map fun h =>
        { m with homeStack := h.1, homeVault := h.2, partition := p.val }
    else none

/-- THROW_MESSAGE: a throw or forward arrives, from another vault of this module, or with the home name of its message from
another module; one whose home is another vault of this module goes on to it (R33, R373). -/
def execThrowMessage (msg : ThrowArrival) (s : State) : Host.Outcome State Fault Refusal :=
  match (match msg.home with
    | none => some msg.msg
    | some n => s.throwFrom msg.msg n) with
  | some m => .next (s.dispatchThrow m (.here m.homeStack m.homeVault))
  | none => .next s

/-! ### Collective engines (R76, R285, R286, R375) -/

/-- COLL_EXCHANGE: what another member's engine brings (R375). -/
def execCollExchange (mem : CollMember) (s : State) : Host.Outcome State Fault Refusal :=
  .next (s.learn mem)

/-- The members of a collective that are known here. -/
def State.knownMembers (s : State) (m : CollMember) : List CollMember :=
  (s.collMembers ++ s.ctxs.toList.flatMap fun c => c.colls.map (·.mem)).filter fun o =>
    o.team == m.team && o.seq == m.seq

/-- Two members disagree on what they do together (R285). -/
def collDiffers (a b : CollMember) : Bool :=
  a.kind != b.kind || a.op != b.op || a.esz != b.esz || a.n != b.n || a.p != b.p || a.scope != b.scope ||
    a.entries != b.entries

/-- The operation of a reduction: binary32 for fsum and fmax (R284, R285). -/
def collOp (op esz a b : Nat) : Nat :=
  match op with
  | 0 => (a + b) % 2 ^ (8 * esz)
  | 1 => (binary32.add rne (binary32.decode a) (binary32.decode b)).1
  | 2 => if sintOf (8 * esz) a < sintOf (8 * esz) b then b else a
  | _ => (binary32.minmax true a b).1

/-- The identity of a reduction (R76, R285). -/
def collIdentity (op esz : Nat) : Nat :=
  match op with
  | 0 => 0
  | 1 => binary32.zero true
  | 2 => 2 ^ (8 * esz - 1)
  | _ => binary32.inf true

/-- The tree of R76 over the ranks (R285). -/
def collTree (op esz : Nat) (vs : List Nat) : Nat :=
  (treeOf (fun a b => (collOp op esz a b, 0)) (collIdentity op esz) (collIdentity op esz) vs).1

/-- Element `i` of a member's send buffer. -/
def sendElem (m : CollMember) (i : Nat) : Nat := leValue ((m.send.drop (i * m.esz)).take m.esz)

/-- The send elements, by rank and index, that element `j` of the receive buffer of `m` depends on (R285). -/
def collSources (m : CollMember) (j : Nat) : List (Nat × Nat) :=
  match m.kind with
  | 0 => (List.range m.p).map fun q => (q, j)
  | 1 => (List.range m.p).map fun q => (q, m.rank * m.n + j)
  | 2 => [(j / m.n, j % m.n)]
  | _ => [(0, j)]

/-- A receive element from its source values (R285). -/
def collElem (m : CollMember) (vs : List Nat) : Nat :=
  if m.kind ≤ 1 then collTree m.op m.esz vs else vs.headD 0

/-- A participant of a collective on this core has written these bytes since it issued (R119). -/
def writtenSince (here : List (Fin 12 × Coll)) (key : Option Nat) (n : Nat) : Bool :=
  key.any fun k => here.any fun x => x.2.stores.any fun w => rangesMeet w.1 w.2 k n

/-- A participant on this core has written element `e` of the send buffer of rank `q` since it issued (R119). -/
def State.sendWritten (s : State) (here : List (Fin 12 × Coll)) (q e : Nat) : Bool :=
  here.any fun x => x.2.mem.rank == q &&
    writtenSince here (s.peekKey x.1 (x.2.sendAddr + e * x.2.mem.esz)) x.2.mem.esz

/-- Element `e` of the send buffer of rank `q` is not what it was at issue (R119). -/
def State.sendChanged (s : State) (here : List (Fin 12 × Coll)) (q e : Nat) : Bool :=
  here.any fun x =>
    let esz := x.2.mem.esz
    x.2.mem.rank == q && (((s.sendNow x.1 x.2).getD []).drop (e * esz)).take esz != (x.2.mem.send.drop (e * esz)).take esz

/-- A participant has written receive element `j` of a member, or a send element that it depends on, since issue: it is
unspecified (R119). -/
def State.elemWritten (s : State) (c : Fin 12) (k : Coll) (here : List (Fin 12 × Coll)) (j : Nat) : Bool :=
  (collSources k.mem j).any (fun x => s.sendWritten here x.1 x.2) ||
    writtenSince here ((s.pokePhys c (k.recvAddr + j * k.mem.esz)).map (·.key)) k.mem.esz

/-- Before the engines write: element `j` is unspecified, because a participant has written there or a send element that it
depends on has changed since issue (R119). -/
def State.elemSpoilt (s : State) (c : Fin 12) (k : Coll) (here : List (Fin 12 × Coll)) (j : Nat) : Bool :=
  s.elemWritten c k here j || (collSources k.mem j).any fun x => s.sendChanged here x.1 x.2

/-- The receive elements of a member from every member's send buffer; one that is unspecified is free (R119, R285,
log 4). -/
def State.collResult (s : State) (c : Fin 12) (k : Coll) (known : List CollMember) (here : List (Fin 12 × Coll)) : List Nat :=
  let m := k.mem
  (List.range (recvCount m.kind m.n m.p)).map fun j =>
    if s.elemSpoilt c k here j then freeElem s.draws m.esz j
    else collElem m ((collSources m j).map fun x =>
      ((known.find? fun o => o.rank == x.1).map fun o => sendElem o x.2).getD 0)

/-- Every element of the receive buffer of a member can be written (R286). -/
def State.recvOpen (s : State) (c : Fin 12) (k : Coll) : Bool :=
  (s.pokeAll c k.recvAddr k.mem.esz (List.replicate (recvCount k.mem.kind k.mem.n k.mem.p) 0)).isSome

/-- A write of an engine of a context that others do not see yet. -/
def engineStore (c : Fin 12) (va n v : Nat) (ph : Phys) : PendStore :=
  { ctx := c.val, seq := 9, addr := va, key := ph.key, granule := ph.granule, size := n, value := v, red := none }

/-- The engine of a member on this core writes its receive buffer (R285). Its writes have no order among themselves: each
becomes visible by itself, all of them before the completion (R99, R119). -/
def State.fillMember (s : State) (vs : List Nat) (x : Fin 12 × Coll) : State :=
  let esz := x.2.mem.esz
  let ws := vs.zipIdx.filterMap fun p =>
    let va := x.2.recvAddr + p.2 * esz
    (s.pokePhys x.1 va).map fun ph => engineStore x.1 va esz p.1 ph
  { s with draws := s.draws + 1, pending := s.pending ++ ws }.updAt x.1 fun c =>
    { c with colls := c.colls.map fun k => if k == x.2 then { k with written := true } else k }

/-- The engines' writes of the members on this core are visible; receive elements that a participant has spoilt meanwhile
hold free values (R119, R288). A buffer that is sent and received in place has changed by these writes, and is not spoilt. -/
def State.sealMembers (s : State) (here : List (Fin 12 × Coll)) : State :=
  let t := s.settleStores fun e => e.seq == 9 && here.any fun x => x.1.val == e.ctx
  here.foldl (fun t x =>
    ((List.range (recvCount x.2.mem.kind x.2.mem.n x.2.mem.p)).filter (s.elemWritten x.1 x.2 here)).foldl
      (fun t j =>
        let u := { t with draws := t.draws + 1 }
        (u.poke x.1 (x.2.recvAddr + j * x.2.mem.esz) x.2.mem.esz (freeElem t.draws x.2.mem.esz j)).getD u) t) t

/-- The collective of a context with every member present and agreed (R285, R286): aborted where an access of a
member here fails. The engines write the receive buffers of all members here before the first of them completes (R288),
in the order of issue of overlapping engine commands (R115). -/
def State.runColl (s : State) (c : Fin 12) (i : Nat) (k : Coll) : State :=
  let here := s.localMembers k.mem
  if k.written then (s.sealMembers (here.filter (·.2.written))).finishColl c i k 0
  else if here.any fun x => (s.sendNow x.1 x.2).isNone || !s.recvOpen x.1 x.2 then s.abortTeam k.mem
  else if here.all fun x => x.2.read && s.engineFree x.2.issued [] (s.collWrites x.2) then
    let known := s.knownMembers k.mem
    (here.map fun x => (s.collResult x.1 x.2 known here, x)).foldl (fun s p => s.fillMember p.1 p.2) s
  else s

/-- COLL_COMPLETE: outstanding collective `k` of a context completes: aborted, mismatched, or with its result
once every member is known (R285, R286). -/
def execCollComplete (c k : Nat) (s : State) : Host.Outcome State Fault Refusal :=
  let x := ctxIx c
  match (s.ctxs.get x).colls[k]? with
  | none => .next s
  | some o =>
    if !s.active then .next s
    else
      let known := s.knownMembers o.mem
      if known.any (·.aborted) then .next (s.abortColl x k o)
      else if known.any fun m => collDiffers m o.mem then .next (s.finishColl x k o 1)
      else if (List.range o.mem.p).all fun r => known.any fun m => m.rank == r then .next (s.runColl x k o)
      else .next s

end Sys2Proof.Machine
end

