-- ==== Sys2Proof/Machine/FloatScalar.lean ====
section
/-!
DEFINITION. Scalar floating point, major 9 (R40, R153 to R155). Operands are the low bits of x registers;
results are zero-extended.
-/
namespace Sys2Proof.Machine

/-- The low bits of an x register in a format (R40). -/
def FFmt.bitsOf (f : FFmt) (w : Word) : Nat := w.toNat % 2 ^ f.bits

/-- Write a result with its flags and retire (R40, R70). -/
def retireF (d : BitVec 5) (v : Nat × BitVec 5) : M Unit := do
  raiseFlags v.2
  retireX 4 d (BitVec.ofNat 64 v.1)

/-- A rounding instruction on X[rd], X[rs1] and X[rs2]: one draw under RSR whatever the result (R69). -/
def fpRounded (r : BitVec 3) (d a b : BitVec 5)
    (op : RMode → Word → Word → Word → Nat × BitVec 5) (s : State) : Host.Outcome State Fault Refusal :=
  settle (do
    let m ← scalarRounding r
    let c ← getC
    retireF d (op m (c.rx d) (c.rx a) (c.rx b))) s

/-- A rounding instruction on two floating operands (R153). -/
def fpBinary (f : FFmt) (op : RMode → FVal → FVal → Nat × BitVec 5) (r : BitVec 3) (d a b : BitVec 5)
    (s : State) : Host.Outcome State Fault Refusal :=
  fpRounded r d a b (fun m _ x y => op m (f.decode (f.bitsOf x)) (f.decode (f.bitsOf y))) s

/-- An instruction that does not round: its result and flags from X[rs1] and X[rs2] (R153, R154). -/
def fpPlain (d a b : BitVec 5) (op : Word → Word → Nat × BitVec 5) (s : State) :
    Host.Outcome State Fault Refusal :=
  settle (do
    let c ← getC
    retireF d (op (c.rx a) (c.rx b))) s

/-- The magnitude of `a` with a sign (R153). -/
def FFmt.withSign (f : FFmt) (a : Nat) (neg : Bool) : Nat := a % 2 ^ (f.bits - 1) + f.signBit neg

/-- The sign bit of a pattern. -/
def FFmt.signOf (f : FFmt) (a : Nat) : Bool := a / 2 ^ (f.bits - 1) % 2 == 1

/-- A comparison as a 64-bit integer with its flags (R154). -/
def FFmt.compareWord (f : FFmt) (op : Nat) (x y : Word) : Nat × BitVec 5 :=
  let r := f.compare op (f.bitsOf x) (f.bitsOf y)
  (natOf r.1, r.2)

/-- FADD: Round(a + b) (R153). -/
def execFadd (d a b : BitVec 5) (r : BitVec 3) (t : BitVec 2) (s : State) :
    Host.Outcome State Fault Refusal :=
  fpBinary (ftFormat t) (ftFormat t).add r d a b s

/-- FSUB: Round(a − b) (R153). -/
def execFsub (d a b : BitVec 5) (r : BitVec 3) (t : BitVec 2) (s : State) :
    Host.Outcome State Fault Refusal :=
  fpBinary (ftFormat t) (fun m x y => (ftFormat t).add m x y.minus) r d a b s

/-- FMUL: Round(a × b) (R153). -/
def execFmul (d a b : BitVec 5) (r : BitVec 3) (t : BitVec 2) (s : State) :
    Host.Outcome State Fault Refusal :=
  fpBinary (ftFormat t) (ftFormat t).mul r d a b s

/-- FDIV: Round(a ÷ b) (R153). -/
def execFdiv (d a b : BitVec 5) (r : BitVec 3) (t : BitVec 2) (s : State) :
    Host.Outcome State Fault Refusal :=
  fpBinary (ftFormat t) (ftFormat t).div r d a b s

/-- FSQRT: Round(√a) (R153). -/
def execFsqrt (d a : BitVec 5) (r : BitVec 3) (t : BitVec 2) (s : State) :
    Host.Outcome State Fault Refusal :=
  fpBinary (ftFormat t) (fun m x _ => (ftFormat t).sqrt m x) r d a 0 s

/-- FMIN: −0 is below +0; a NaN gives the other operand (R153). -/
def execFmin (d a b : BitVec 5) (t : BitVec 2) (s : State) :
    Host.Outcome State Fault Refusal :=
  fpPlain d a b (fun x y => (ftFormat t).minmax false ((ftFormat t).bitsOf x) ((ftFormat t).bitsOf y)) s

/-- FMAX: −0 is below +0; a NaN gives the other operand (R153). -/
def execFmax (d a b : BitVec 5) (t : BitVec 2) (s : State) :
    Host.Outcome State Fault Refusal :=
  fpPlain d a b (fun x y => (ftFormat t).minmax true ((ftFormat t).bitsOf x) ((ftFormat t).bitsOf y)) s

/-- X[rd] ± a × b with one rounding (R153). -/
def fmaScalar (f : FFmt) (minus : Bool) (m : RMode) (d x y : Word) : Nat × BitVec 5 :=
  let a := f.decode (f.bitsOf x)
  f.fma m (f.decode (f.bitsOf d)) (if minus then a.minus else a) (f.decode (f.bitsOf y))

/-- FMAC: Round(X[rd] + a × b), one rounding (R153). -/
def execFmac (d a b : BitVec 5) (r : BitVec 3) (t : BitVec 2) (s : State) :
    Host.Outcome State Fault Refusal :=
  fpRounded r d a b (fmaScalar (ftFormat t) false) s

/-- FNMAC: Round(X[rd] − a × b), one rounding (R153). -/
def execFnmac (d a b : BitVec 5) (r : BitVec 3) (t : BitVec 2) (s : State) :
    Host.Outcome State Fault Refusal :=
  fpRounded r d a b (fmaScalar (ftFormat t) true) s

/-- FSGNJ: the magnitude of a with a chosen sign; no flags (R153). -/
def execFsgnj (d a b : BitVec 5) (t : BitVec 2) (s : State) :
    Host.Outcome State Fault Refusal :=
  fpPlain d a b (fun x y => ((ftFormat t).withSign ((ftFormat t).bitsOf x) ((ftFormat t).signOf ((ftFormat t).bitsOf y)), 0)) s

/-- FSGNJN: the magnitude of a with a chosen sign; no flags (R153). -/
def execFsgnjn (d a b : BitVec 5) (t : BitVec 2) (s : State) :
    Host.Outcome State Fault Refusal :=
  fpPlain d a b (fun x y => ((ftFormat t).withSign ((ftFormat t).bitsOf x) (!(ftFormat t).signOf ((ftFormat t).bitsOf y)), 0)) s

/-- FSGNJX: the magnitude of a with a chosen sign; no flags (R153). -/
def execFsgnjx (d a b : BitVec 5) (t : BitVec 2) (s : State) :
    Host.Outcome State Fault Refusal :=
  fpPlain d a b (fun x y => ((ftFormat t).withSign ((ftFormat t).bitsOf x) ((ftFormat t).signOf ((ftFormat t).bitsOf x) != (ftFormat t).signOf ((ftFormat t).bitsOf y)), 0)) s

/-- FEQ: 1 or 0; a NaN gives 0 (R154). -/
def execFeq (d a b : BitVec 5) (t : BitVec 2) (s : State) :
    Host.Outcome State Fault Refusal :=
  fpPlain d a b ((ftFormat t).compareWord 0) s

/-- FLT: 1 or 0; a NaN gives 0 (R154). -/
def execFlt (d a b : BitVec 5) (t : BitVec 2) (s : State) :
    Host.Outcome State Fault Refusal :=
  fpPlain d a b ((ftFormat t).compareWord 2) s

/-- FLE: 1 or 0; a NaN gives 0 (R154). -/
def execFle (d a b : BitVec 5) (t : BitVec 2) (s : State) :
    Host.Outcome State Fault Refusal :=
  fpPlain d a b ((ftFormat t).compareWord 3) s

/-- FCLASS: one bit of ten (R154). -/
def execFclass (d a : BitVec 5) (t : BitVec 2) (s : State) :
    Host.Outcome State Fault Refusal :=
  fpPlain d a 0 (fun x _ => (2 ^ (ftFormat t).classOf ((ftFormat t).bitsOf x), 0)) s

/-- FCVTFS: signed integer to ft (R155). -/
def execFcvtfs (d a : BitVec 5) (r : BitVec 3) (t : BitVec 2) (s : State) :
    Host.Outcome State Fault Refusal :=
  fpRounded r d a 0 (fun m _ x _ => (ftFormat t).ofInteger m x.toInt) s

/-- FCVTFU: unsigned integer to ft (R155). -/
def execFcvtfu (d a : BitVec 5) (r : BitVec 3) (t : BitVec 2) (s : State) :
    Host.Outcome State Fault Refusal :=
  fpRounded r d a 0 (fun m _ x _ => (ftFormat t).ofInteger m x.toNat) s

/-- FCVTSF: ft to signed 64-bit integer (R155). -/
def execFcvtsf (d a : BitVec 5) (r : BitVec 3) (t : BitVec 2) (s : State) :
    Host.Outcome State Fault Refusal :=
  fpRounded r d a 0 (fun m _ x _ => (ftFormat t).toInt m true 64 ((ftFormat t).bitsOf x)) s

/-- FCVTUF: ft to unsigned 64-bit integer (R155). -/
def execFcvtuf (d a : BitVec 5) (r : BitVec 3) (t : BitVec 2) (s : State) :
    Host.Outcome State Fault Refusal :=
  fpRounded r d a 0 (fun m _ x _ => (ftFormat t).toInt m false 64 ((ftFormat t).bitsOf x)) s

/-- FCVTFF: the format rs2[1:0] names to ft (R155). -/
def execFcvtff (d a : BitVec 5) (sc : BitVec 2) (r : BitVec 3) (t : BitVec 2) (s : State) :
    Host.Outcome State Fault Refusal :=
  fpRounded r d a 0 (fun m _ x _ => (ftFormat sc).convert (ftFormat t) m ((ftFormat sc).bitsOf x)) s

end Sys2Proof.Machine
end

