-- ==== Sys2Proof/Machine/Host.lean ====
section
/-!
DEFINITION. What the host, the peers of the domain and the fabric manager do to the module, and where machine checks of
units go (R299, R300, R362 to R374, R393, R399 to R402).
-/
namespace Sys2Proof.Machine

/-! ### Records and machine checks (R299, R300, R381, R393) -/

/-- Core 0 of vault 0 of a stack, as a core number of the module. -/
def stackCore (stack : Nat) : Nat := stack * 128

/-- The cores whose needle takes a check of an I/O-die unit: one for each partition that it serves (R393). -/
def State.ioCores (s : State) (serves : List Nat) : List Nat :=
  (serves.filter (· < 16)).filterMap fun n =>
    let p := s.part (partIx n)
    if p.on then p.ownStacks.head?.map stackCore else none

/-- The partitions that a port serves: one in the role domain those that have a pairing, one in the role host all
(R360, R393, log 82). -/
def State.portServes (s : State) (port : Nat) : List Nat :=
  (List.range 16).filter fun n => !s.mgmt.ports.getLsbD port || !(s.part (partIx n)).paired.isEmpty

/-- A record is logged and its machine check raised at the needle of slot 0 of this core, if it is one of the cores that
it goes to (R299, R300). The info is the record's sequence number. -/
def State.logCheck (s : State) (f : LogFields) (cores : List Nat) : State :=
  let seq := s.mgmt.nextSeq
  let s := s.logEvent f
  if cores.contains s.coreId then s.check 0 (BitVec.ofNat 8 f.cls) (BitVec.ofNat 64 seq) else s

/-- A link error of an access of a partition: machine check 0x33 (R364, R372, R381). -/
def State.linkCheck (s : State) (port part addr : Nat) : State :=
  s.logCheck (LogFields.mk 0x33 3 (port % 32) part addr 0 0 0) (s.ioCores (s.portServes port))

/-- The partition of a context, for a record; 0xFF where the store of one that has ended is meant. -/
def State.partNumber (s : State) (c : Nat) : Nat := if c < 12 then (s.partOf (ctxIx c)).val else 0xFF

/-- The accesses that a move has found to fail are logged with their ports and partitions (R364, R372, R379). -/
def State.logFailed (s : State) : State :=
  s.failed.foldl (fun s f => s.linkCheck f.port (s.partNumber f.ctx) f.addr) { s with failed := [] }

/-! ### Functions and names (R362, R363) -/

/-- The number of a function in the mailbox and MSI-X keys: PF0 is 16. -/
def fnIx (fn : Option Nat) : Nat := fn.getD 16

/-- The function exists: PF0, or the function of a partition that exists (R362). -/
def State.fnExists (s : State) (fn : Option Nat) : Bool :=
  match fn with
  | none => true
  | some n => n < 16 && (s.part (partIx n)).on

/-- The key of a byte of BAR0; the offsets that R362 does not list have none. -/
def barKey (fn o : Nat) : Option Nat :=
  if o < 0x1000 then some (mailKey fn o) else if o < 0x1200 then some (msixKey fn (o - 0x1000))
  else if 0x2000 ≤ o && o < 0x2008 then some (pendingKey fn (o - 0x2000)) else none

/-- The key that a host name reaches, through a function's BAR2 or through the HDM range (R363). -/
def State.hostName (s : State) (fn : Option Nat) (addr : Nat) : Option Nat :=
  if 2 ^ 44 ≤ addr then none
  else
    match s.ownerOf (addr / 2 ^ 40) with
    | none => none
    | some p =>
      if addr % 2 ^ 40 / 2 ^ 21 < (s.part p).chunks && fn.all (· == p.val) then
        some (generalKey (addr / 2 ^ 40) (addr % 2 ^ 40))
      else none

/-- The module answers accesses to device memory: not in HOLD, RET or OFF, its rails on (R364). -/
def State.memoryUp (s : State) : Bool :=
  (match s.mgmt.power with
   | .op _ => true
   | _ => false) && !s.mgmt.railsOff

/-- Anything of the module answers the host at all. -/
def State.answers (s : State) : Bool := s.mgmt.power != .off && !s.mgmt.railsOff

/-- An ordinary write of an agent outside the core to general memory (R113, R364). -/
def State.outsidePut (s : State) (key : Nat) (bytes : List Byte) : State :=
  s.agentPut { cls := .general, key := key, granule := none } bytes.length (leValue bytes)

/-- The key of a byte that the host reaches now through BAR2 or the HDM range (R362 to R364). -/
def State.hostByte (s : State) (fn : Option Nat) (addr : Nat) : Option Nat :=
  if s.memoryUp && s.fnExists fn then s.hostName fn addr else none

/-- The host reaches every byte of an access. -/
def State.hostReach (s : State) (fn : Option Nat) (addr n : Nat) : Bool :=
  (List.range n).all fun i => (s.hostByte fn (addr + i)).isSome

/-- An access to a name that is no host name is recorded as a link error of the port of the function (R363, R364). -/
def State.badName (s : State) (fn : Option Nat) (addr : Nat) : State :=
  s.logEvent (LogFields.mk 0x33 3 s.mgmt.pf0Port (fn.getD 0xFF) addr 0 0 0)

/-- The lines of device memory that an access reaches through the HDM range. -/
def State.hdmSpan (s : State) (fn : Option Nat) (addr n : Nat) : List Nat :=
  if fn.isSome then []
  else (span (addr / 64) ((addr + n + 63) / 64 - addr / 64)).filter fun l => (s.hostByte fn (64 * l)).isSome

/-- HOST_READ: bar 0 is BAR0, 2 is BAR2 or, without a function, the HDM range, whose lines the host then holds; 1 and 3 read
the host's and a peer's own memory, which is not the module's (R361 to R364). -/
def execHostRead (fn : Option Nat) (bar addr size : Nat) (s : State) : Host.Outcome State Fault Refusal :=
  if !s.answers then .next s
  else if bar = 0 then
    .next (s.send (.hostData ((List.range size).map fun i =>
      if s.fnExists fn then ((barKey (fnIx fn) (addr + i)).map s.byte).getD 0 else 0xFF)))
  else if bar = 2 then
    let data := (List.range size).map fun i => ((s.hostByte fn (addr + i)).map s.byte).getD 0xFF
    let t := { s with hdmLines := (s.hdmSpan fn addr size).foldl (fun l x => setAdd x l) s.hdmLines }
    .next (if s.hostReach fn addr size then (t.countAccess addr).send (.hostData data)
      else (t.send (.hostData data)).badName fn addr)
  else .next s

/-- The host may write a byte of its own memory: the module holds no copy of the line (R401). -/
def State.hostFree (s : State) (addr n : Nat) : Bool :=
  (span (addr / 64) ((addr + n - 1) / 64 + 1 - addr / 64)).all fun l => (s.line? l).isNone

/-- Bytes of BAR0 written by the host; the pending bits are the device's. -/
def State.writeBar (s : State) (fn o : Nat) : List Byte → State
  | [] => s
  | b :: t =>
    (match (if o < 0x2000 then barKey fn o else none) with
     | some k => s.setByte k b
     | none => s).writeBar fn (o + 1) t

/-- A write by the host to device memory: it gives up the lines that it holds through HDM and writes; the bytes of names that
are none are discarded and recorded (R363, R364). -/
def State.hostPut (s : State) (fn : Option Nat) (addr : Nat) (data : List Byte) : State :=
  let t := { s with hdmLines := s.hdmLines.filter fun l => !(s.hdmSpan fn addr data.length).contains l }
  if s.hostReach fn addr data.length then t.outsidePut addr data
  else
    ((List.range data.length).foldl (fun t i =>
      match s.hostByte fn (addr + i) with
      | some k => t.outsidePut k ((data.drop i).take 1)
      | none => t) t).badName fn addr

/-- HOST_WRITE: as HOST_READ; with bar 1 the host writes its own memory, with bar 3 a peer its own (R362 to R364,
R370). -/
def execHostWrite (fn : Option Nat) (bar addr : Nat) (data : List Byte) (s : State) :
    Host.Outcome State Fault Refusal :=
  let write (k : Nat) : State := (s.clearTags k data.length).writeBytes k data
  if bar = 1 then
    .next (if s.hostFree addr data.length
      then (write (hostKey addr)).noteFar s 6 else s)
  else if bar = 3 then .next ((write (peerKey (addr / 2 ^ 46) addr)).noteFar s 5)
  else if !s.answers then .next s
  else if bar = 0 then .next (if s.fnExists fn then (s.writeBar (fnIx fn) addr data).msixPending fn else s)
  else if bar = 2 then .next ((s.hostPut fn addr data).noteFar s 6)
  else .next s

/-! ### Snoops (R401) -/

/-- The module answers a snoop: its data where the line is M, then the line's next state (R401). -/
def State.snoop (s : State) (line : Nat) (next : LineState → Option LineState) : State :=
  match s.line? line with
  | none => s
  | some st =>
    let s := if st = .modified then s.send (.hostData (s.readBytes (2 ^ 52 + line * 64) 64)) else s
    s.setLine line (next st)

/-- SNPINV (R401). -/
def execSnpinv (line : Nat) (s : State) : Host.Outcome State Fault Refusal := .next (s.snoop line fun _ => none)

/-- SNPDATA (R401). -/
def execSnpdata (line : Nat) (s : State) : Host.Outcome State Fault Refusal :=
  .next (s.snoop line fun _ => some .shared)

/-- SNPCUR (R401). -/
def execSnpcur (line : Nat) (s : State) : Host.Outcome State Fault Refusal := .next (s.snoop line some)

/-! ### Failures of accesses (R364, R372) -/

/-- The access that a context makes to this address in its next move fails (R364, R372): its instruction traps there. -/
def State.failAccess (s : State) (c : Fin 12) (poisoned : Bool) (port : Nat) (addr : Word) : State :=
  if s.movable c && s.active then
    { s with failing := FailArm.mk c.val addr.toNat poisoned port :: s.failing.filter fun f => f.ctx != c.val }
  else s

/-- POISONED_COMPLETION: the access of a context to host memory fails (R364). -/
def execPoisonedCompletion (c : Nat) (addr : LinkAccess) (s : State) : Host.Outcome State Fault Refusal :=
  .next (s.failAccess (ctxIx c) true addr.port addr.addr)

/-- The first store to peer memory without completion that a test names is discarded: no agent has seen it, and it never
becomes visible. The failure is logged (R372). -/
def State.dropStore (s : State) (hit : PendStore → Bool) (port : Nat) : State :=
  match (s.pending.findIdx? fun e => e.peer && hit e).bind fun i => s.pending[i]?.map fun e => (i, e) with
  | none => s
  | some (i, e) =>
    { s with pending := s.pending.take i ++ s.pending.drop (i + 1) }.linkCheck port (s.partNumber e.ctx) e.addr

/-- PEER_TIMEOUT: a peer access gets no completion within 1 ms: a store is discarded, a load or an atomic raises 0x04
(R372). -/
def execPeerTimeout (c : Nat) (addr : LinkAccess) (store : Bool) (s : State) : Host.Outcome State Fault Refusal :=
  let k := ctxIx c
  .next (if store then s.dropStore (fun p => (p.ctx == k.val || 12 ≤ p.ctx) && p.addr == addr.addr.toNat) addr.port
    else s.failAccess k false addr.port addr.addr)

/-- PEER_REJECTION: the peer discards the access: a store is gone, a load gets no completion; either is logged (R372). -/
def execPeerRejection (addr : LinkAccess) (s : State) : Host.Outcome State Fault Refusal :=
  let t := s.dropStore (fun p => p.addr == addr.addr.toNat) addr.port
  .next (if t = s then s.linkCheck addr.port 0xFF addr.addr.toNat else t)

/-- PEER_WAKE: the word of a registered watch was written; the context reads it again (R370). -/
def execPeerWake (c : Nat) (s : State) : Host.Outcome State Fault Refusal :=
  let k := ctxIx c
  let x := s.ctxs.get k
  let far (a : Nat) : Bool :=
    match s.xlate (s.partOf k) (s.privOf k) .load a with
    | .ok ph => ph.cls == .peer
    | .error _ => false
  let watches := match x.wait with
    | some (.signal a _) => far a.toNat
    | some (.words _ _ ps) => ps.any fun p => far p.2.1
    | _ => false
  if watches && x.run == .waiting && !x.saved && s.active then .next (s.wakeCtx k) else .next s

/-! ### Peers and the domain (R369 to R372) -/

/-- A peer access performed at its key: the state and what goes back (R370). -/
def State.peerDo (s : State) (r : PeerReq) (key : Nat) : State × List Byte :=
  let n := r.size
  let v := r.value % 2 ^ (8 * n)
  let old := s.readN key n
  let write (w : Nat) : State := s.outsidePut key (leBytes n w)
  match r.op with
  | .read => (s.countAccess key, leBytes n old)
  | .write => (write v, [])
  | .atomic op => (write (applyAtom op n old v), leBytes n old)
  | .cas expected => (if old = expected % 2 ^ (8 * n) then write v else s.countAccess key, leBytes n old)
  | .reduce op fmt =>
    let tag : RedTag := { op := op, fmt := fmt, width := 8 * n }
    if s.tagAgrees key n tag && (reduceWith op fmt.toNat n).isSome then
      (s.reduceAt { cls := .general, key := key, granule := none } n v tag, [])
    else (s, [0x0F])
  | .watch => ({ s with watches := s.watches.erase (r.module % 64, key) ++ [(r.module % 64, key)] }, [])

/-- PEER_REQUEST: a peer access is performed in the paired partition, or discarded with a completion that says so where its
name is outside it; a module that is no member of a domain has no such traffic (R363, R370, R372, R396). -/
def execPeerRequest (req : PeerReq) (s : State) : Host.Outcome State Fault Refusal :=
  let p := partIx req.part
  let inside := s.ownsGeneral p req.stack req.name && (s.part p).on && req.name < 2 ^ 40 && req.stack < 16 &&
    1 ≤ req.size && req.size ≤ 64 && req.name % req.size == 0
  if !s.memoryUp || !s.mgmt.accepted.getLsbD 1 then .next s
  else if inside then
    let r := s.peerDo req (generalKey req.stack req.name)
    .next ((r.1.noteFar s 5).send (.peerData r.2))
  else .next (s.send .peerRefused)

/-- dominfo of a partition: the module's place, zero outside a domain (R365, R369, R396). -/
def State.domInfo (s : State) : Word :=
  if s.mgmt.accepted.getLsbD 1 then
    BitVec.ofNat 64 (2 ^ 22 + s.mgmt.moduleNumber * 2 ^ 16 + s.mgmt.topModule)
  else 0

/-- FABRIC_MANAGER_ASSIGNMENT: M of a member of the domain stores the module's number, the highest, its PBR identifier and a
partition's pairings (R369, R396). -/
def execFabricManagerAssignment (part : Nat) (number : ModuleName) (top : Nat) (paired : List (Nat × Nat)) (s : State) :
    Host.Outcome State Fault Refusal :=
  if !s.mgmt.accepted.getLsbD 1 then .next s
  else
  let s := { s with mgmt := { s.mgmt with moduleNumber := number.number % 64, topModule := top % 64, pbrId := number.pbr } }
  let s := s.updPart (partIx part) fun p => { p with paired := paired }
  .next { s with parts := s.parts.map fun p => { p with dominfo := if p.on then s.domInfo else p.dominfo } }

end Sys2Proof.Machine
end

