-- ==== Sys2Proof/Machine/Saves.lean ====
section
/-!
DEFINITION. Context records, saving and restoring a tile, CTXSV and CTXLD (R45, R222, R244, R309, R310, R316,
R337 to R344). What a record does not hold stays beside it in State (log 21).
-/
namespace Sys2Proof.Machine

/-! ### Records (R341, R342) -/

/-- Bytes of a bit vector. -/
def bytesOf (n : Nat) (v : BitVec w) : List Byte := leBytes n v.toNat

/-- The tag fields of an image in a tag word (R342). -/
def tagFields (fmt : BitVec 4) (width : BitVec 2) (hwm : Nat) : Nat := fmt.toNat + 16 * width.toNat + 64 * hwm

/-- The tag word of a register (R342). -/
def VReg.tagWord (r : VReg) : Nat :=
  tagFields r.fmt r.width r.hwm + 2 ^ 16 * natOf r.link + 2 ^ 17 * natOf r.landed.isSome +
    2 ^ 32 * ((r.landed.map fun l => tagFields l.img.fmt l.img.width l.img.hwm).getD 0)

/-- The 64 bytes of a stream slot (R342). -/
def streamBytes : Option Stream → List Byte
  | none => leBytes 64 0
  | some q =>
    let lv (j : Nat) : Nat × Int := (q.levels[j]?).getD (0, 0)
    leBytes 8 q.base ++ leBytes 1 (q.esz.toNat + 4 * q.levels.length) ++ leBytes 7 0 ++
      (List.range 4).flatMap (fun j => leBytes 4 (lv j).1 ++ leBytes 4 (wrapTo 32 (lv j).2)) ++
      leBytes 8 q.pos ++ leBytes 1 (1 + 2 * natOf q.store + 4 * q.reg.toNat) ++ leBytes 7 0

/-- The 48 bytes of a ticket slot (R341). -/
def Ticket.bytes (t : Ticket) : List Byte :=
  let r := t.reply
  let fault := (r.bind (·.gcause)).isSome
  let word (j : Nat) : Nat := ((r.bind fun x => x.vals[j]?).map (·.toNat)).getD 0
  leBytes 8 (if t.used then t.seq.toNat else 0) ++
    leBytes 8 (natOf t.used + 2 * natOf r.isSome + 1024 * natOf fault) ++
    (match r with
     | some x =>
       match x.gcause with
       | some c => leBytes 8 ((c.toNat * 2 ^ 56) + x.info.toNat % 2 ^ 55) ++ leBytes 24 0
       | none => (List.range 4).flatMap fun j => leBytes 8 (word j)
     | none => leBytes 32 0)

/-- The 16 CSR words of a record (R341). -/
def Ctx.csrWords (c : Ctx) : List Nat :=
  [c.fflags.toNat, c.frm.toNat, c.srseed.toNat, c.vl.toNat, c.vtype.toNat, c.vstart.toNat, c.pvl.toNat,
    c.ldst.toNat, c.throwtmo.toNat, c.ctxstat.toNat, c.sys.uevec.toNat, c.sys.uepc.toNat, c.sys.ucause.toNat,
    c.sys.uinfo.toNat, c.sys.ustat.toNat, 0]

/-- A record up to its images: 0x15C0 bytes (R341). -/
def State.recordHead (s : State) (k : Fin 12) : List Byte :=
  let c := s.ctxs.get k
  let needle := kindOf k == .needle
  leBytes 2 1 ++ leBytes 1 (natOf (!needle)) ++ leBytes 1 (if needle then c.priv.toNat else c.run.code) ++
    bytesOf 2 (s.ident k) ++ leBytes 10 0 ++ bytesOf 8 c.pc ++
    leBytes 8 (((s.tileOf k).map (·.descAddr)).getD 0) ++ bytesOf 8 c.instret ++ bytesOf 8 c.throwSeq ++
    leBytes 16 0 ++ (List.range 32).flatMap (fun n => bytesOf 8 (c.rx (BitVec.ofNat 5 n))) ++
    c.csrWords.flatMap (leBytes 8) ++
    c.levels.toList.flatMap (fun l => leBytes 4 (natOf l.active) ++ leBytes 4 l.iter ++ bytesOf 8 l.li) ++
    c.pd.toList.flatMap (bytesOf 16) ++ (c.k.toList.drop 1).flatMap (bytesOf 512) ++
    c.v.toList.flatMap (fun r => leBytes 8 r.tagWord) ++ c.sq.toList.flatMap streamBytes ++
    c.tickets.toList.flatMap Ticket.bytes ++ leBytes 32 0

/-- Bytes from a key on, replaced as a block: the entries of the range go, the bytes that are not zero come. -/
def State.putBlock (s : State) (key : Nat) (bytes : List Byte) : State :=
  let kept := s.mem.filter fun c => c.1 < key || key + bytes.length ≤ c.1
  let new := bytes.zipIdx.filter fun p => p.1 != 0
  { s with mem := new.foldl (fun m p => cellPut 0 m (key + p.2) p.1) kept }

/-- The record's place of one of this core's contexts (R340). -/
def State.recordOf (s : State) (k : Fin 12) : Nat :=
  s.recordKey s.corePart s.coreId (recordIndex (s.ident k).toNat)

/-- A context's record is written: its fields, the images of dirty registers up to hwm, landed images; a
zero trailer (R341, R343). Its registers are clean after it (R45). -/
def State.writeRecord (s : State) (k : Fin 12) : State :=
  let at_ := s.recordOf k
  let c := s.ctxs.get k
  let s := (s.putBlock at_ (s.recordHead k)).putBlock (at_ + 0x95C0) (leBytes 64 0)
  let s := c.v.toList.zipIdx.foldl (fun s p =>
    let s := if p.1.dirty then s.putBlock (at_ + 0x15C0 + 512 * p.2) (leBytes p.1.hwm p.1.data.toNat) else s
    match p.1.landed with
    | some l => s.putBlock (at_ + 0x55C0 + 512 * p.2) (leBytes l.img.hwm l.img.data.toNat)
    | none => s) s
  s.updAt k fun x => { x with v := x.v.map fun r => { r with dirty := false } }

/-- `n` bytes of a record at an offset. -/
def recField (r off n : Nat) : Nat := bitsAt r (8 * off) (8 * n)

/-- The reserved bits of a plane descriptor (R49). -/
def pdReserved : Nat := 0xFFFFFFFF * 2 ^ 32 + 0xFFFE

/-- The checks of a record of a context: version, kind, state or privilege, ident, the zero fields (R310,
R341, log 22). -/
def recordOk (r : Nat) (needle : Bool) (id : Nat) : Bool :=
  recField r 0 2 == 1 && recField r 2 1 == natOf (!needle) && recField r 3 1 ≤ (if needle then 2 else 3) &&
    recField r 4 2 == id && recField r 6 10 == 0 && recField r 0x30 16 == 0 && recField r 0x40 8 == 0 &&
    recField r 0x1B8 8 == 0 && recField r 0x15A0 32 == 0 &&
    ((List.range 6).all fun n => recField r (0x1C0 + 16 * n) 4 ≤ 1) &&
    ((List.range 16).all fun n => Nat.land (recField r (0x220 + 16 * n) 16) pdReserved == 0) &&
    (List.range 32).all fun n => bitsAt (recField r (0x1120 + 8 * n) 8) 18 14 == 0

/-- A register as a record holds it, clean (R45, R342, R344). -/
def recordReg (r n : Nat) (old : VReg) : VReg :=
  let t := recField r (0x1120 + 8 * n) 8
  let hwm := min 512 (bitsAt t 6 10)
  let land := bitsAt t 32 32
  let lhwm := min 512 (bitsAt land 6 10)
  let place : Nat × Nat := (old.landed.map fun l => (l.first, l.count)).getD (n, 1)
  { data := BitVec.ofNat 4096 (recField r (0x15C0 + 512 * n) hwm), fmt := fld t 0 4, width := fld t 4 2, hwm := hwm,
    dirty := false, link := bitsAt t 16 1 == 1,
    landed := if bitsAt t 17 1 = 0 then none
      else some { img := { data := BitVec.ofNat 4096 (recField r (0x55C0 + 512 * n) lhwm), fmt := fld land 0 4,
                           width := fld land 4 2, hwm := lhwm },
                  first := place.1, count := place.2 } }

/-- A stream slot as a record holds it: it fetches again from P (R267, R342, R344). -/
def recordStream (r n : Nat) : Option Stream :=
  let o := 0x1220 + 64 * n
  let b := recField r (o + 56) 1
  if b % 2 = 0 then none
  else
    let h := recField r (o + 8) 1
    some { store := bitsAt b 1 1 == 1, reg := fld b 2 5, esz := fld h 0 2, base := recField r o 8,
           levels := (List.range (min 4 (bitsAt h 2 3))).map fun j =>
             (recField r (o + 16 + 8 * j) 4, sintOf 32 (recField r (o + 20 + 8 * j) 4)),
           pos := recField r (o + 48) 8, fetched := [], deliveries := [], blocked := none }

/-- A ticket slot as a record holds it; the times stay those of the old slot, and a reply that came while the context was
saved waits in it (R283, R341). -/
def recordTicket (r n : Nat) (old : Ticket) : Ticket :=
  let o := 0x1420 + 48 * n
  let f := recField r (o + 8) 8
  if f % 2 = 0 then Ticket.free
  else
    let w (j : Nat) : Word := BitVec.ofNat 64 (recField r (o + 16 + 8 * j) 8)
    { old with
      used := true, seq := BitVec.ofNat 60 (recField r o 8),
      reply := if bitsAt f 1 1 = 0 then (if old.used && old.seq.toNat == recField r o 8 then old.reply else none)
        else if bitsAt f 10 1 = 1 then
          some { gcause := some (fld (w 0).toNat 56 8), info := BitVec.ofNat 64 ((w 0).toNat % 2 ^ 55), vals := [] }
        else some { gcause := none, info := 0, vals := (List.range 4).map w } }

/-- A context as its record holds it, with the rest of what stands beside the record (R344). Reserved bits of a register
read zero (R5, R303). A context whose pc CTXLD has changed is not inside an instruction or a block. -/
def Ctx.fromRecord (c : Ctx) (needle : Bool) (r : Nat) : Ctx :=
  let w (j : Nat) : Nat := recField r (0x140 + 8 * j) 8
  let st := recField r 3 1
  let same := recField r 0x10 8 == c.pc.toNat
  { c with
    run := if needle then (if c.run = .stopped then .stopped else .running)
      else if st = 0 then .stopped else if st = 3 then .faulted else .running,
    wait := none, held := false, met := 0, reserve := none, begun := c.begun && same,
    pushed := [], castEnd := if same then c.castEnd else none, priv := if needle then BitVec.ofNat 2 st else c.priv,
    pc := BitVec.ofNat 64 (recField r 0x10 8), instret := BitVec.ofNat 64 (recField r 0x20 8),
    throwSeq := BitVec.ofNat 60 (recField r 0x28 8),
    x := Vector.ofFn fun n => BitVec.ofNat 64 (recField r (0x40 + 8 * n.val) 8),
    fflags := BitVec.ofNat 5 (w 0), frm := BitVec.ofNat 3 (w 1), srseed := BitVec.ofNat 32 (w 2),
    vl := BitVec.ofNat 13 (w 3), vtype := BitVec.ofNat 11 (w 4), vstart := BitVec.ofNat 12 (w 5),
    pvl := BitVec.ofNat 32 (w 6), ldst := BitVec.ofNat 8 (w 7), throwtmo := BitVec.ofNat 16 (w 8),
    ctxstat := BitVec.ofNat 2 (w 9),
    sys := { c.sys with uevec := BitVec.ofNat 64 (w 10) &&& addressBits, uepc := BitVec.ofNat 64 (w 11) &&& addressBits,
                        ucause := BitVec.ofNat 64 (w 12) &&& 0xFFFF, uinfo := BitVec.ofNat 64 (w 13),
                        ustat := BitVec.ofNat 64 (w 14) &&& 0xFF01 },
    levels := Vector.ofFn fun n =>
      { active := recField r (0x1C0 + 16 * n.val) 1 == 1, iter := recField r (0x1C4 + 16 * n.val) 4,
        li := BitVec.ofNat 64 (recField r (0x1C8 + 16 * n.val) 8) },
    pd := Vector.ofFn fun n => BitVec.ofNat 128 (recField r (0x220 + 16 * n.val) 16) &&& ~~~(BitVec.ofNat 128 pdReserved),
    k := Vector.ofFn fun n => if n.val = 0 then 0 else BitVec.ofNat 4096 (recField r (0x320 + 512 * (n.val - 1)) 512),
    v := Vector.ofFn fun n => recordReg r n.val (c.v.get n),
    sq := Vector.ofFn fun n => recordStream r n.val,
    tickets := Vector.ofFn fun n => recordTicket r n.val (c.tickets.get n) }

/-! ### Shared state (R340, R342, R344) -/

/-- The bits of a held stationary descriptor (R50). -/
def Region.descriptor (r : Region) : Nat :=
  1 + 2 ^ 32 * r.wfmt + 2 ^ 36 * r.nmac + 2 ^ 42 * r.kmac + 2 ^ 48 * r.macro0 + 2 ^ 56 * r.owner + 2 ^ 64 * r.base

/-- The 64 bytes of a watermark binding (R342). -/
def State.wmBytes (s : State) : Option Watermark → List Byte
  | none => leBytes 64 0
  | some w =>
    let role := match w.role with
      | .consumer => 0
      | .producer => 1
      | .channel => 2
    let chan := w.role == .channel
    leBytes 8 w.base ++ leBytes 4 w.count ++ leBytes 1 (Nat.log2 w.esz + 4 * role + 16 * natOf w.strip) ++
      bytesOf 1 w.scope ++ leBytes 1 (1 + 2 * w.slot) ++ leBytes 1 0 ++ leBytes 8 w.shown ++
      leBytes 8 (if chan then w.base else w.word) ++ leBytes 4 (if chan then w.count else 0) ++
      leBytes 4 w.stripLen ++ leBytes 4 w.offset ++ leBytes 4 w.ended ++ leBytes 8 w.filled ++
      bytesOf 2 (if w.kicked then s.ident (ctxIx w.owner) else 0) ++ leBytes 6 0

/-- Granules as a bitmap of 0x7E00 bytes (R340). -/
def bitmapBytes (gs : List Nat) : List Byte := leBytes 0x7E00 (gs.foldl (fun n g => Nat.lor n (2 ^ g)) 0)

/-- The save block of this core (R340). -/
def State.blockKey (s : State) : Nat := s.recordKey s.corePart s.coreId 0 - 0x4A0000

/-- The images of held regions, packed by ascending descriptor: where each starts (R232, R340). -/
def imagePlaces (rs : List (Option Region)) : List (Nat × Region) :=
  (rs.filterMap id).foldl (fun l r =>
    l ++ [((l.getLast?.map fun p => p.1 + 16384 * (p.2.kmac * p.2.nmac)).getD 0x420000, r)]) []

/-- Entries of memory in a range, moved to another key. -/
def movedCells (m : Memory) (from_ len target : Nat) : Memory :=
  (m.filter fun c => from_ ≤ c.1 && c.1 < from_ + len).map fun c => (c.1 - from_ + target, c.2)

/-- Of two of what a core's shared state holds the one that is there. -/
def orElse (a b : Vector (Option α) n) : Vector (Option α) n := Vector.ofFn fun i => if (a.get i).isSome then a.get i else b.get i

/-- The accumulator tiles of the core and of the tiles that have left it. -/
def State.allAcc (s : State) : Vector (Option Acc) 2 := s.savedTiles.foldl (fun v e => orElse v e.shared.acc) s.acc

/-- The bindings of the core and of the tiles that have left it. -/
def State.allWm (s : State) : Vector (Option Watermark) 16 := s.savedTiles.foldl (fun v e => orElse v e.shared.wm) s.wm

/-- Accumulator tiles and bindings, which an L tile has too, go to the save block of the core (R244, R340). -/
def State.writeHeld (s : State) : State :=
  let b := s.blockKey
  let cells := s.allAcc.toList.zipIdx.flatMap fun (p : Option Acc × Nat) =>
    match p.1 with
    | none => []
    | some t => t.cells.flatMap fun (c : Nat × BitVec 32) => (leBytes 4 c.2.toNat).zipIdx.map fun x =>
        (b + 0x400000 + 0x10000 * p.2 + 4 * c.1 + x.2, x.1)
  let mem := s.mem.filter fun c => c.1 < b + 0x400000 || b + 0x420000 ≤ c.1
  let s := { s with mem := cells.foldl (fun (m : Memory) (c : Host.Cell) => cellPut 0 m c.1 c.2) mem }
  let s := s.putBlock (b + 0x3F7E80) (s.allAcc.toList.flatMap fun (t : Option Acc) =>
    leBytes 16 ((t.map fun (t : Acc) => 1 + 2 * natOf t.fp32 + 4 * t.owner).getD 0))
  s.putBlock (b + 0x3F7F00) (s.allWm.toList.flatMap s.wmBytes)

/-- The stash and the regions of the core, which no L tile has, go to its save block (R244, R334, R340). -/
def State.writeStash (s : State) : State :=
  let b := s.blockKey
  let stash := (movedCells s.mem (stashKey 0) 0x3F0000 b).filter fun c => !s.macroHeld ((c.1 - b) / 16384)
  let images := (imagePlaces s.sd.toList).flatMap fun p => p.2.image.map fun c => (b + p.1 + c.1, c.2)
  let mem := s.mem.filter fun c => c.1 < b || b + 0x4A0000 ≤ c.1
  let s := { s with mem := (stash ++ images).foldl (fun (m : Memory) (c : Host.Cell) => cellPut 0 m c.1 c.2) mem }
  let s := s.putBlock (b + 0x3F0000) (bitmapBytes s.full)
  s.putBlock (b + 0x3F7E00) (s.sd.toList.flatMap fun (r : Option Region) => leBytes 16 ((r.map Region.descriptor).getD 0))

/-- The shared state that a tile has is written to the save block of the core (R244, R340). -/
def State.writeShared (s : State) (second : Bool) : State := (if second then s else s.writeStash).writeHeld

/-! ### Saving (R222, R309, R316, R337, R338) -/

/-- The context stands at a pre-emption point: its store streams are performed, and its started spans may be
abandoned, under the power-fail clamp every one (R222, R338). -/
def State.atPoint (s : State) (k : Fin 12) : Bool :=
  let c := s.ctxs.get k
  c.streamsDrained 255 && !c.planes.any PlaneOp.midRound && (s.mgmt.clamp || !c.planes.any PlaneOp.keepsRunning)

/-- A key of a byte of the stash. -/
def inStash (k : Nat) : Bool := 2 ^ 57 ≤ k && k < 2 ^ 58

/-- A context is saved: its stores to the stash, which is saved with it, are performed (R87), its started spans are
abandoned (R222), its MSTAT, its VWAIT and its push start afresh (R197, R234, R261), its record is written (R343). Its other
stores and what it has read ahead of other memory stay as they are (R124). -/
def State.saveCtx (s : State) (k : Fin 12) : State :=
  let s := ((s.settleStores fun e => e.ctx == k.val && e.granule.isSome).recallPush k).updAt k Ctx.abandonSpans
  (s.writeRecord k).updAt k fun x =>
    { x with saved := true, met := 0, reserve := none, early := x.early.filter fun e => !inStash e.key }

/-- Every context of a tile is saved. -/
def State.allSaved (s : State) (slot : Nat) (t : Tile) : Bool :=
  (tileCtxs slot t).all fun c => (s.ctxs.get c).saved

/-- Mapped granules are filled again at their next touch, to their saved full-empty bits (R88, R344). DESIGN CHOICE
(log 77): one that was never filled has no bit to save; it is filled to full. -/
def State.forgetMapped (s : State) : State :=
  let mapped := s.present.filter fun g => (s.mapOf (g * 16)).isSome
  let was := mapped.map (fun g => (g, s.full.contains g)) ++ s.emptied.map fun g => (g, false)
  { s with restoreFull := was ++ s.restoreFull.filter fun x => !was.any fun y => y.1 == x.1,
           emptied := [], present := s.present.filter fun g => !mapped.contains g }

/-- What a tile has of the core's shared state, with its records in the save area. -/
def State.sharedOf (s : State) (slot : Nat) (t : Tile) : SavedShared :=
  let f := s.forgetMapped
  let records := (tileCtxs slot t).flatMap fun c => movedCells s.mem (s.recordOf c) 0x9600 (s.recordOf c)
  let sd := s.sd.map fun (r : Option Region) => if r.any (fun (r : Region) => t.holds r.owner) then r else none
  let acc := s.acc.map fun (a : Option Acc) => if a.any (fun (a : Acc) => t.holds a.owner) then a else none
  let wm := s.wm.map fun (w : Option Watermark) => if w.any (fun (b : Watermark) => b.slot == slot) then w else none
  if t.desc.second then SavedShared.mk sd acc wm [] [] [] [] [] records
  else SavedShared.mk sd acc wm (movedCells s.mem (stashKey 0) 0x3F0000 0) s.full f.present f.restoreFull s.outside records

/-- A tile leaves the core with what stands beside its records; of the needle's registers the system ones belong to the
core and stay. The lanes that its stitches had lent are theirs no more. -/
def State.takeOff (s : State) (slot : Nat) (t : Tile) : State :=
  let cs := tileCtxs slot t
  let h := s.sharedOf slot t
  let entry : SavedTile := SavedTile.mk slot t (cs.map fun c => (c.val, s.ctxs.get c)) h
  let s := cs.foldl (fun s c => s.updAt c fun x => { Ctx.reset with sys := x.sys, throwSeq := x.throwSeq }) s
  let s := { (s.forgiveLoans cs).relabel (cs.map fun c => (c.val, savedOwner t c.val)) with
    savedTiles := s.savedTiles ++ [entry],
    sd := s.sd.map fun (r : Option Region) => if r.any (fun (r : Region) => t.holds r.owner) then none else r,
    acc := s.acc.map fun (a : Option Acc) => if a.any (fun (a : Acc) => t.holds a.owner) then none else a,
    wm := s.wm.map fun (w : Option Watermark) => if w.any (fun (b : Watermark) => b.slot == slot) then none else w }
  let s := if t.desc.second then s
    else { s with full := [], present := [], restoreFull := [], emptied := [], outside := [],
                  mem := s.mem.filter fun c => c.1 < stashKey 0 || stashKey 0x3F0000 ≤ c.1 }
  s.setTile slot none

/-- The last context of a tile is saved: the shared state follows, the tile is frozen, or leaves the core. A 0x12 that is
pending is discarded (R316, R337, R340). One that FREEZE or the watchdog freezes stands frozen on the core first
(DESIGN CHOICE, log 77). -/
def State.tileSaved (s : State) (slot : Nat) : State :=
  match s.tileAt slot with
  | none => s
  | some t =>
    if !s.allSaved slot t then s
    else
      let s := s.writeShared t.desc.second
      let s := s.updAt (ctxIx slot) fun x => { x with events := x.events.filter fun e => e.code != 0x12 }
      let t := { t with frozen := true, resetBy := none }
      if t.leaving && !t.kept then s.takeOff slot t else s.setTile slot (some { t with leaving := false })

/-- CONTEXT_SAVE: a context of a tile that is asked to stop is saved at its pre-emption point (R337, R343). From number 12 on
it is the last context of a tile of another core, 12 + 2 × core + slot, which is then frozen (R309). -/
def execContextSave (c : Nat) (s : State) : Host.Outcome State Fault Refusal :=
  if 12 ≤ c then
    .next { s with remote := s.remote.map fun r =>
      if r.asked && r.core == (c - 12) / 2 && r.slot == (c - 12) % 2 then { r with frozen := true } else r }
  else
  let k := ctxIx c
  match s.tileOf k with
  | none => .next s
  | some t =>
    let mine := (tileCtxs (s.slotOf k) t).contains k
    if mine && t.stopping && !t.frozen && !(s.ctxs.get k).saved && s.atPoint k then
      .next ((s.saveCtx k).tileSaved (s.slotOf k))
    else .next s

/-! ### Restoring (R314, R344) -/

/-- Contexts of a tile take the state of their records; the watchdog starts afresh, and a bit of ctxstat tells: 2
pre-empted, 1 resumed from retention (R314, R344, R387). -/
def State.readRecords (s : State) (bit : BitVec 2) (cs : List (Fin 12)) : State :=
  cs.foldl (fun s k =>
    let r := s.readN (s.recordOf k) 0x9600
    s.updAt k fun x =>
      let y := x.fromRecord (kindOf k == .needle) r
      { y with saved := false, ctxstat := y.ctxstat ||| bit, timer := 0, warned := 0,
               window := (s.part s.corePart).wdctl }) s

/-- A channel's strip that was part-way through is fetched again from element F: F is in the binding. A saved
tile whose slot and context slots are free (R344). -/
def State.canReturn (s : State) (e : SavedTile) : Bool :=
  (s.tileAt e.slot).isNone &&
    !((s.tileAt (1 - e.slot)).any fun o => (List.range e.tile.count).any fun n => o.holds (e.tile.base + n))

/-- A saved tile comes back to its slot with what stands beside its records; one that FREEZE or the watchdog froze is
still frozen (R309, R316). DESIGN CHOICE (log 86): where the core's other tile has come to hold the same accumulator tile or
binding number, the returning tile's stays. -/
def State.bringBack (s : State) (e : SavedTile) : State :=
  let h := e.shared
  let cs := tileCtxs e.slot e.tile
  let s := { s with savedTiles := s.savedTiles.filter fun x => x != e }
  let s := s.setTile e.slot (some { e.tile with stopping := e.tile.kept, frozen := e.tile.kept, leaving := false })
  let kept := s.mem.filter fun c => !cs.any fun k => s.recordOf k ≤ c.1 && c.1 < s.recordOf k + 0x9600
  let mem := h.records.foldl (fun (m : Memory) (c : Host.Cell) => cellPut 0 m c.1 c.2) kept
  let cleared := if e.tile.desc.second then mem else mem.filter fun c => !inStash c.1
  let mem := h.stash.foldl (fun (m : Memory) (c : Host.Cell) => cellPut 0 m (stashKey c.1) c.2) cleared
  let s := { s.relabel (cs.map fun c => (savedOwner e.tile c.val, c.val)) with mem := mem, sd := orElse h.sd s.sd, acc := orElse h.acc s.acc, wm := orElse h.wm s.wm }
  let s := if e.tile.desc.second then s
    else { s with full := h.full, present := h.present, restoreFull := h.restoreFull, outside := h.outside }
  e.ctxs.foldl (fun s p => s.updAt (ctxIx p.1) fun x => { p.2 with sys := { x.sys with
    uevec := p.2.sys.uevec, uepc := p.2.sys.uepc, ucause := p.2.sys.ucause, uinfo := p.2.sys.uinfo,
    ustat := p.2.sys.ustat } }) s

/-! ### Which tile comes next (R37, R330, R344) -/

/-- Launch `a` goes before `b`: higher priority, then earlier enqueued (R37, R330). -/
def Launch.before (a b : Launch) : Bool :=
  b.prio < a.prio || (a.prio == b.prio && (a.enqueued < b.enqueued || (a.enqueued == b.enqueued && a.id < b.id)))

/-- A launch has an unclaimed tile in a stack: its number. -/
def Launch.nextTile (l : Launch) (stack : Nat) : Option Nat :=
  (l.shares.find? fun x => x.stack == stack && x.next < x.limit).map (·.next)

/-- The launch whose tile a stack starts first (R330). -/
def State.bestLaunch (s : State) (stack : Nat) : Option Launch :=
  let ready := s.launches.filter fun l => l.ready && (l.nextTile stack).isSome
  ready.find? fun l => ready.all fun o => o.id == l.id || l.before o

/-- The saved tile of a slot that comes back next: of those that may, and that FREEZE does not keep out, the highest priority,
the oldest first (R37, R309). -/
def State.nextBack (s : State) (slot : Nat) : Option SavedTile :=
  let l := s.savedTiles.filter fun e => e.slot == slot && !e.tile.kept && s.canReturn e
  l.find? fun e => l.all fun o => o == e || s.tileBefore e.tile o.tile

/-- The tile of a slot goes on from its records (R344). -/
def State.resume (s : State) (slot : Nat) (t : Tile) (bit : BitVec 2) : State :=
  (if t.desc.second then s else s.forgetMapped).readRecords bit (tileCtxs slot t)

/-- TILE_RESTORE: a thawed tile goes on, or a pre-empted tile whose slots are free again, where no launch of higher priority
has a tile to start on this stack (R309, R330, R344). -/
def execTileRestore (slot : Nat) (s : State) : Host.Outcome State Fault Refusal :=
  let slot := slot % 2
  match s.tileAt slot with
  | some t =>
    if t.frozen && !t.stopping && !t.leaving && s.accepting then
      .next ((s.setTile slot (some { t with frozen := false })).resume slot t 2)
    else .next s
  | none =>
    match s.nextBack slot with
    | none => .next s
    | some e =>
      if ((s.bestLaunch s.stack.toNat).any fun l => e.tile.prio < l.prio) || !s.accepting then .next s
      else
      let s := s.bringBack e
      let s := if e.tile.kept then s else s.resume slot e.tile 2
      .next (match s.tileAt slot with
        | some t =>
          let g := match s.tileAt (1 - slot) with
            | some o => s.secondGroups o t.prio (s.nominal o)
            | none => s.laneGroups t.prio
          (s.setTile slot (some { t with share := g })).shareLanes { t with share := g } g
        | none => s)

/-! ### CTXSV and CTXLD (R310) -/

/-- Where the record of a frozen context stands: in the save area, here or with a tile that is off the core, or with another
core. -/
inductive RecordHome where
  | here
  | off (e : SavedTile)
  | far (t : RemoteTile)
deriving DecidableEq, Repr

/-- The record of a frozen context, by its ident: its place, whether it is a needle's, and whose it is. Another context is
cause 0x02 with the ident. -/
def frozenRecord (id : Word) : M (Nat × Bool × RecordHome) := do
  contextOperand id
  let s ← get
  let n := id.toNat % 65536
  let place := s.recordKey s.corePart (identCore n) (recordIndex n)
  match (s.slotNamed n).filter fun slot => (s.tileAt slot).any (·.frozen), s.savedNamed n with
  | some _, _ => pure (place, identKind n == 0, .here)
  | none, some e => pure (place, identKind n == 0, .off e)
  | none, none =>
    match (s.remoteNamed n).filter (·.frozen) with
    | some t => pure (place, identKind n == 0, .far t)
    | none => trap 0x02 id

/-- The bytes of a frozen context's record are replaced. -/
def State.putRecord (s : State) (place index : Nat) (home : RecordHome) (bytes : List Byte) : State :=
  match home with
  | .here => s.putBlock place bytes
  | .off e =>
    let kept := e.shared.records.filter fun c => c.1 < place || place + bytes.length ≤ c.1
    let cells := bytes.zipIdx.foldl (fun (m : Memory) x => cellPut 0 m (place + x.2) x.1) kept
    { s with savedTiles := s.savedTiles.map fun x =>
        if x == e then { e with shared := { e.shared with records := cells } } else x }
  | .far t =>
    { s.putBlock place bytes with
      remote := s.remote.map fun r => if r == t then { t with records := setAdd index t.records } else r }

/-- The bytes of a frozen context's record. What another core has saved is not known here: its bytes are free (log 4) until
they have been read or written, and then stay. -/
def recordBytes (place index : Nat) (home : RecordHome) : M (List Byte) := do
  let s ← get
  match home with
  | .here => pure (s.readBytes place 0x9600)
  | .off e => pure ((List.range 0x9600).map fun i => cellGet 0 e.shared.records (place + i))
  | .far t =>
    if t.records.contains index then pure (s.readBytes place 0x9600)
    else do
      let d ← draw
      let bytes := (List.range 0x9600).map fun i => Config.freeByte d i
      modS fun s => s.putRecord place index home bytes
      pure bytes

/-- The record that an ident names within its core's save block. -/
def recordOfIdent (id : Word) : Nat := recordIndex (id.toNat % 65536)

/-- CTXSV (R310). -/
def execCtxsv (d a : BitVec 5) (s : State) : Host.Outcome State Fault Refusal :=
  settle (do
    needLevel 1
    let c ← getC
    let (place, _, home) ← frozenRecord (c.rx a)
    checkLines .store (c.rx d) 600
    let bytes ← recordBytes place (recordOfIdent (c.rx a)) home
    storeBlock (c.rx d) bytes 2400
    retire 4) s

/-- CTXLD (R310). -/
def execCtxld (d a : BitVec 5) (s : State) : Host.Outcome State Fault Refusal :=
  settle (orNothing do
    needLevel 1
    let c ← getC
    let (place, needle, home) ← frozenRecord (c.rx a)
    checkLines .load (c.rx d) 600
    let bytes ← loadBlock (c.rx d) 2400
    demand (recordOk (leValue bytes) needle ((c.rx a).toNat % 65536)) 0x02 (c.rx d)
    modS fun s => s.putRecord place (recordOfIdent (c.rx a)) home bytes
    retire 4) s

end Sys2Proof.Machine
end

