-- ==== Sys2Proof/Machine/Traps.lean ====
section
/-!
DEFINITION. The T-level sequencer, taking pending traps, the timer interrupt and the watchdog (R17, R18, R299 to
R304, R314 to R319).
-/
namespace Sys2Proof.Machine

/-! ### T levels (R17, R18) -/

/-- The level table of a tile slot: number and level, outermost first. -/
def State.tLevels (s : State) (slot : Nat) : List (Nat × Level) :=
  (((s.tileAt slot).map (·.desc.levels)).getD []).zipIdx.filterMap fun p =>
    if p.1.kind = 2 then some (p.2, p.1) else none

/-- The needle of a slot fetches with its sequencer on. -/
def State.sequencing (s : State) (slot : Nat) : Bool :=
  let c := s.ctxs.get (ctxIx (slot % 2))
  c.seqOn && s.movable (ctxIx (slot % 2)) && s.active

/-- The innermost active level that ends where the needle fetches (R17, R18). -/
def State.endingLevel (s : State) (slot : Nat) : Option (Nat × Level) :=
  let c := s.ctxs.get (ctxIx (slot % 2))
  if s.sequencing slot then
    (s.tLevels slot).reverse.find? fun p => (c.levels.get (Fin.ofNat 6 p.1)).active && p.2.stop == c.pc.toNat
  else none

/-- The outermost inactive level that starts where the needle fetches, no active level ending there (R17). -/
def State.startingLevel (s : State) (slot : Nat) : Option (Nat × Level) :=
  let c := s.ctxs.get (ctxIx (slot % 2))
  if s.sequencing slot && (s.endingLevel slot).isNone then
    (s.tLevels slot).find? fun p => !(c.levels.get (Fin.ofNat 6 p.1)).active && p.2.start == c.pc.toNat
  else none

/-- A level register changed. -/
def Ctx.setLevel (c : Ctx) (n : Nat) (l : LoopLevel) : Ctx :=
  { c with levels := c.levels.set (Fin.ofNat 6 n).val l (Fin.ofNat 6 n).isLt }

/-- Fetch at the end of an active level: the next iteration, or the level is left (R17). -/
def Ctx.endLevel (c : Ctx) (n : Nat) (l : Level) : Ctx :=
  let v := c.levels.get (Fin.ofNat 6 n)
  if v.iter + 1 < l.count then
    { c.setLevel n { active := true, iter := v.iter + 1, li := v.li + BitVec.ofInt 64 l.stride } with
      pc := BitVec.ofNat 64 l.start }
  else c.setLevel n LoopLevel.idle

/-- Fetch at the start of an inactive level; a count of 0 goes directly to its end (R17). -/
def Ctx.startLevel (c : Ctx) (n : Nat) (l : Level) : Ctx :=
  if l.count = 0 then { c with pc := BitVec.ofNat 64 l.stop }
  else c.setLevel n { active := true, iter := 0, li := 0 }

/-- T_LEVEL_ACTIVATE (R17). -/
def execTLevelActivate (slot : Nat) (s : State) : Host.Outcome State Fault Refusal :=
  match s.startingLevel slot with
  | some p => .next (s.updAt (ctxIx (slot % 2)) fun c => c.startLevel p.1 p.2)
  | none => .next s

/-- T_LEVEL_REDIRECT (R17, R18). -/
def execTLevelRedirect (slot : Nat) (s : State) : Host.Outcome State Fault Refusal :=
  match s.endingLevel slot with
  | some p => .next (s.updAt (ctxIx (slot % 2)) fun c => c.endLevel p.1 p.2)
  | none => .next s

/-! ### Pending traps (R299 to R304) -/

/-- The needle of a slot stands where it takes pending traps: between instructions, its sequencer at rest, or in
a stall of CAST, STOP, SKILL or an architectural wait (R301). -/
def State.atBoundary (s : State) (slot : Nat) : Bool :=
  let c := s.ctxs.get (ctxIx (slot % 2))
  s.accepting && !c.saved && ((s.tileAt slot).any fun t => !t.frozen && !t.stopping && !t.ended) &&
    (s.endingLevel slot).isNone && (s.startingLevel slot).isNone &&
    ((c.run == .running && !c.held) || c.run == .waiting)

/-- The machine check that comes next for a needle: the lowest code. A 0x37 without an M handler stays pending
(R300, R301, log 9). -/
def State.nextCheck (s : State) (slot : Nat) : Option MachineCheck :=
  let mine := s.checks.filter fun m =>
    m.slot == slot && !(m.code == 0x37 && (s.ctxs.get (ctxIx slot)).sys.mvec == 0)
  mine.find? fun m => mine.all fun o => m.code.toNat ≤ o.code.toNat

/-- The needle may take interrupt 0x20 + n: at U, its bit of sie set (R300, R302). -/
def State.mayTake (s : State) (slot n : Nat) : Bool :=
  let c := s.ctxs.get (ctxIx slot)
  c.priv == 0 && bitsAt c.sys.sie.toNat n 1 == 1 && ((s.tileAt slot).any fun t => !t.frozen)

/-- The lowest interrupt that the needle takes: 0x22 to 0x24 go to the lowest ident that may (R300). -/
def State.nextInterrupt (s : State) (slot : Nat) : Option Nat :=
  (List.range 5).find? fun n =>
    bitsAt (s.sipOf (ctxIx slot)) n 1 == 1 && s.mayTake slot n && !(2 ≤ n && slot == 1 && s.mayTake 0 n)

/-- The info of interrupt 0x20 + n (R299). -/
def State.interruptInfo (s : State) (slot n : Nat) : Word :=
  let p := s.part s.corePart
  match n with
  | 0 => (s.ctxs.get (ctxIx slot)).sys.ipiFrom
  | 1 => BitVec.ofNat 64 s.now
  | 2 => p.rejections.head?.getD 0
  | 3 => BitVec.ofNat 64 ((s.postedMail s.corePart).head?.getD 0)
  | _ => 0

/-- Taking event 0x11 of a stitch orders what the stitch did before its fault, at core scope (R252). -/
def State.afterFault (s : State) (slot : Nat) (e : PendEvent) : State :=
  if e.code = 0x11#8 then
    (s.releasesBy (ctxIx (2 + ((s.tileAt slot).map (·.base)).getD 0 + e.src.toNat)) 1).acquiresBy (ctxIx slot) 1
  else s

/-- The needle takes an event: the U handler, or S where there is none (R300). -/
def State.takeEvent (s : State) (slot : Nat) (e : PendEvent) : State :=
  let k := ctxIx slot
  let x := s.ctxs.get k
  let s := (s.afterFault slot e).updAt k fun x => { x with events := x.events.drop 1 }
  s.enter k (if x.sys.uevec = 0 then 1 else 0) e.code e.src x.pc e.info

/-- The needle's first event may be taken: it runs at U and is not in its handler (R300). -/
def State.eventTakable (s : State) (slot : Nat) : Bool :=
  let x := s.ctxs.get (ctxIx slot)
  !x.events.isEmpty && x.priv == 0 && !x.sys.ustat.getLsbD 0

/-- The word is a CAST (R247). -/
def isCast (w : Nat) : Bool := w % 2 ^ 17 == 0x61

/-- CAST_DELIVERY: a needle that stalls at a CAST delivers the block once every named stitch has stopped
(R21, R247). An event whose condition does not hold changes nothing (log 3): not where the needle has something else to do
at its boundary first (R17, R301), nor where the CAST traps. -/
def castDelivery (slot : Nat) (s : State) : State :=
  let c := ctxIx (slot % 2)
  let t := { s with cur := c }
  if !(s.movable c && s.active) then s
  else
    match fetchBits t with
    | .ok w u =>
      if !isCast w then s
      else
        match (do castLengthOk (BitVec.ofNat 7 (w / 2 ^ 17)); castBlock (BitVec.ofNat 8 (w / 2 ^ 24)) (bitsAt w 17 7)) u with
        | .ok _ r => r
        | .error _ _ => s
    | .error _ _ => s

/-- A needle that comes to an instruction boundary takes a pending trap there first (R301). -/
def State.trapPending (s : State) (slot : Nat) : Bool :=
  s.atBoundary slot &&
    (((s.ctxs.get (ctxIx slot)).priv.toNat < 2 && (s.nextCheck slot).isSome) || (s.nextInterrupt slot).isSome ||
      s.eventTakable slot)

/-- PENDING_TRAP_TAKE: one pending machine check, interrupt or event, in the order of R301. -/
def execPendingTrapTake (slot : Nat) (s : State) : Host.Outcome State Fault Refusal :=
  let slot := slot % 2
  let k := ctxIx slot
  let x := s.ctxs.get k
  if !s.atBoundary slot then .next s
  else
    match (if x.priv.toNat < 2 then s.nextCheck slot else none) with
    | some m => .next ({ s with checks := s.checks.erase m }.enter k 2 m.code 0xFF x.pc m.info)
    | none =>
      match s.nextInterrupt slot with
      | some n =>
        let info := s.interruptInfo slot n
        let s := if n = 2 then s.updPart s.corePart fun p => { p with rejections := p.rejections.drop 1 } else s
        .next (s.enter k 1 (BitVec.ofNat 8 (0x20 + n)) 0xFF x.pc info)
      | none =>
        match x.events with
        | e :: _ => if s.eventTakable slot then .next (s.takeEvent slot e) else .next s
        | [] => .next s

/-- CAST_DELIVERY (R21, R247). -/
def execCastDelivery (slot : Nat) (s : State) : Host.Outcome State Fault Refusal :=
  let n := slot % 2
  if (s.endingLevel n).isSome || (s.startingLevel n).isSome || s.trapPending n || (s.ctxs.get (ctxIx n)).planeErr != []
  then .next s
  else .next (castDelivery slot s)

/-- TIMER_INTERRUPT: cycle has reached stimecmp (R299, R303). -/
def execTimerInterrupt (slot : Nat) (s : State) : Host.Outcome State Fault Refusal :=
  let k := ctxIx (slot % 2)
  if (s.ctxs.get k).sys.stimecmp.toNat ≤ s.now then
    .next (s.updAt k fun c => { c with sys := { c.sys with timer := true } })
  else .next s

/-! ### The watchdog (R314 to R319) -/

/-- A context's timer has passed `n` of its windows. -/
def Ctx.passed (c : Ctx) (n : Nat) : Bool := n * c.window * cyclesPerMs ≤ c.timer

/-- The watchdog may act on a context: it belongs to a tile that is not frozen. -/
def State.guarded (s : State) (k : Fin 12) : Bool :=
  kindOf k != .guest && s.active && ((s.tileOf k).any fun t => !t.frozen && (tileCtxs (s.slotOf k) t).contains k)

/-- WATCHDOG_WARNING: event 0x12 at the needle after one window (R315). -/
def execWatchdogWarning (c : Nat) (s : State) : Host.Outcome State Fault Refusal :=
  let k := ctxIx c
  let x := s.ctxs.get k
  if s.guarded k && x.passed 1 && x.warned = 0 then
    let e : PendEvent := { code := 0x12, src := s.warnSource k, info := zx (s.ident k) }
    .next ((s.updAt k fun x => { x with warned := 1 }).updAt (ctxIx (s.slotOf k)) fun n =>
      { n with events := n.events ++ [e] })
  else .next s

/-- A report is queued, or lost where 64 are queued (R317). -/
def Part.queueReport (p : Part) (w : Word) : Part :=
  if 64 ≤ p.wdrep.length then { p with overflow := true } else { p with wdrep := p.wdrep ++ [w] }

/-- A report of a context: V, out and ident (R303). -/
def reportOf (out : Nat) (id : BitVec 16) : Word := BitVec.ofNat 64 (2 ^ 63 + out * 2 ^ 61 + id.toNat)

/-- WATCHDOG_FREEZE: after two windows the tile is frozen, a report queued, interrupt 0x24 pending (R315). -/
def execWatchdogFreeze (c : Nat) (s : State) : Host.Outcome State Fault Refusal :=
  let k := ctxIx c
  let x := s.ctxs.get k
  let slot := s.slotOf k
  if s.guarded k && x.passed 2 && x.warned = 1 then
    let s := (s.freezeTile slot).updAt k fun x => { x with warned := 2 }
    let s := s.setTile slot ((s.tileAt slot).map fun t =>
      { t with watchdog := true, resetBy := some (t.resetBy.getD (s.now + 100 * cyclesPerUs)) })
    .next (s.updPart s.corePart fun p => p.queueReport (reportOf 0 (s.ident k)))
  else .next s

/-- The report of this core that a reset turns into one of out 0b01; a new one where S has removed it. -/
def Part.reportReset (p : Part) (id : BitVec 16) : Part :=
  let w := reportOf 0 id
  if p.wdrep.contains w then { p with wdrep := p.wdrep.map fun r => if r == w then reportOf 1 id else r }
  else p.queueReport (reportOf 1 id)

/-- WATCHDOG_CORE_RESET: a freeze that is not complete within 100 microseconds resets the core and raises 0x35
(R315); `c` is the context that hung. -/
def execWatchdogCoreReset (c : Nat) (s : State) : Host.Outcome State Fault Refusal :=
  let k := ctxIx c
  match (s.tileOf k).bind (·.resetBy) with
  | none => .next s
  | some due =>
    if due ≤ s.now && (s.ctxs.get k).warned = 2 then
      let id := s.ident k
      let s := s.resetCore.updPart s.corePart fun p => p.reportReset id
      .next (s.checkAt (resetCheckCore s.coreId) 0 0x35 (zx (mkIdent s.coreId 0 0)))
    else .next s

/-- GUEST_WATCHDOG_EXPIRY: a guest ends after one window (R315, R319). The spec names no info (log 4). -/
def execGuestWatchdogExpiry (c : Nat) (s : State) : Host.Outcome State Fault Refusal :=
  let k := ctxIx c
  let x := s.ctxs.get k
  if x.guest.isSome && s.active && x.passed 1 then
    .next ({ s with draws := s.draws + 1 }.endGuest k
      { gcause := some 0x0E, info := Config.expiredInfo s.draws, vals := [] })
  else .next s

end Sys2Proof.Machine
end

