-- ==== Sys2Proof/Machine/Sched.lean ====
section
/-!
DEFINITION. The scheduler: queue entries and descriptors, dependences, tiles, completion, the stage arbiter
(R12 to R16, R24, R29, R30, R86, R92, R93, R122, R320 to R337).
-/
namespace Sys2Proof.Machine

/-! ### Reading descriptors (R321, R324, R325) -/

/-- `n` lines of 128 bytes that the scheduler reads, each in a general page; none where one cannot be read. -/
def State.generalLines (s : State) (p : Fin 16) (va : Nat) : Nat → Option Nat
  | 0 => some 0
  | n + 1 =>
    if !s.generalAt p 1 .load va then none
    else
      match s.engineRead p 1 va 128 with
      | .error _ => none
      | .ok v => (s.generalLines p (va + 128) n).map fun t => v + 2 ^ 1024 * t

/-- Entry `i` of a table of a descriptor image: `size` bytes from `base` on. -/
def tableEntry (b base size i : Nat) : Nat := recField b (base + size * i) size

/-- The level that an entry gives (R12, R325). -/
def levelOf (e : Nat) : Level :=
  Level.mk (recField e 0 1) (recField e 4 4) (sintOf 32 (recField e 8 4)) (recField e 16 8) (recField e 24 8)

/-- The descriptor in an image of 1,152 bytes (R324, R325). -/
def descOf (b : Nat) : Desc :=
  let table (count limit base size : Nat) : List Nat :=
    (List.range (min (recField b count 1) limit)).map fun i => tableEntry b base size i
  { levels := (table 2 6 0x40 32).map levelOf, stitches := recField b 3 1,
    unchecked := bitsAt (recField b 4 1) 0 1 == 1, serial := bitsAt (recField b 4 1) 1 1 == 1,
    second := bitsAt (recField b 4 1) 2 1 == 1, scope := BitVec.ofNat 3 (recField b 0xB 1),
    entry := recField b 0x10 8, signal := recField b 0x18 8, increment := recField b 0x20 8,
    record := recField b 0x28 8, stages := (List.range 4).map fun k => recField b (0x30 + k) 1,
    squeues := (table 9 4 0x100 16).map fun e =>
      StageQueue.mk (recField e 0 4) (recField e 4 4) (recField e 8 1) (recField e 9 1),
    deps := (table 8 4 0x140 32).map fun e => Dependence.mk (recField e 8 8) (recField e 16 8) false,
    maps := (table 5 8 0x1C0 24).map fun e => StashMap.mk (recField e 0 4) (recField e 8 8) (recField e 16 8),
    prefetch := (table 6 16 0x280 16).map fun e => (recField e 0 8, recField e 8 8),
    discard := (table 7 16 0x380 16).map fun e => (recField e 0 8, recField e 8 8) }

/-- The tables of a descriptor: where the count stands, its limit, where the table stands, the size of an entry,
and the bytes of an entry that are zero, each as offset and length (R324, R325). -/
def descTables : List (Nat × Nat × Nat × Nat × List (Nat × Nat)) :=
  [(2, 6, 0x40, 32, [(1, 3), (12, 4)]), (9, 4, 0x100, 16, [(10, 6)]), (8, 4, 0x140, 32, [(1, 7), (24, 8)]),
    (5, 8, 0x1C0, 24, [(4, 4)]), (6, 16, 0x280, 16, []), (7, 16, 0x380, 16, [])]

/-- A table's count is within its limit, entries beyond it and zero bytes are zero (R324, R325). -/
def tableClean (b : Nat) (t : Nat × Nat × Nat × Nat × List (Nat × Nat)) : Bool :=
  let n := recField b t.1 1
  n ≤ t.2.1 &&
    (List.range t.2.1).all fun i =>
      let e := tableEntry b t.2.2.1 t.2.2.2.1 i
      if n ≤ i then e == 0 else t.2.2.2.2.all fun z => recField e z.1 z.2 == 0

/-- Reason 1: version, zero fields, counts, and the limits of R324 that no other reason names (R326). -/
def headClean (b : Nat) : Bool :=
  recField b 0 2 == 1 && recField b 0xA 1 == 0 && recField b 0xC 4 == 0 && recField b 0x34 12 == 0 &&
    recField b 4 1 < 8 && recField b 0xB 1 ≤ 6 && recField b 0x18 8 % 8 == 0 && recField b 0x28 8 % 64 == 0 &&
    descTables.all (tableClean b)

/-- The product of the counts of the levels of a kind. -/
def countOf (kind : Nat) (ls : List Level) : Nat := ((ls.filter fun l => l.kind == kind).map (·.count)).foldl (· * ·) 1

/-- Kinds in the order S, C, T. -/
def kindsRise : List Level → Bool
  | a :: b :: t => a.kind ≤ b.kind && kindsRise (b :: t)
  | _ => true

/-- Reason 2: kinds, their order and their limits (R12). -/
def levelsOk (ls : List Level) : Bool :=
  ls.all (fun l => l.kind ≤ 2 && (if l.kind = 2 then l.start % 4 == 0 && l.start < l.stop else l.start == 0 && l.stop == 0)) &&
    kindsRise ls && countOf 0 ls * countOf 1 ls ≤ 2 ^ 40

/-- Reason 3: each T level lies in the one before (R18). -/
def nestOk : List Level → Bool
  | a :: b :: t => a.start ≤ b.start && b.stop ≤ a.stop && nestOk (b :: t)
  | _ => true

/-- No two ranges of a list share a byte. -/
def apartAll : List (Nat × Nat) → Bool
  | [] => true
  | a :: t => t.all (fun b => !rangesMeet a.1 a.2 b.1 b.2) && apartAll t

/-- The address lies in a general page of the partition. -/
def State.inGeneral (s : State) (p : Fin 16) (va : Nat) : Bool :=
  va < 2 ^ 54 &&
    (match s.walk p va with
     | .error _ => false
     | .ok e => leafClass e == .general && (match s.leafKey p e va with | .ok _ => true | .error _ => false))

/-- Reason 5: stash maps (R86, R326). -/
def State.mapsOk (s : State) (p : Fin 16) (d : Desc) : Bool :=
  !(d.second && !d.maps.isEmpty) &&
    d.maps.all (fun m => m.window % 16 == 0 && m.base % 16 == 0 && m.length % 16 == 0 && 16 ≤ m.length &&
      m.length ≤ 4128768 && m.window + m.length ≤ 0x3F0000 && s.inGeneral p m.base) &&
    apartAll (d.maps.map fun m => (m.window, m.length)) && apartAll (d.maps.map fun m => (m.base, m.length))

/-- The mask of a stage; 0 when it is undeclared (R29). -/
def Desc.mask (d : Desc) (k : Nat) : Nat := d.stages.getD k 0

/-- Reason 6: stages and stage queues (R29, R258, R324, R326). -/
def stagesOk (d : Desc) : Bool :=
  !(d.second && !d.squeues.isEmpty) && d.stages.all (fun m => m < 2 ^ d.stitches) &&
    (List.range 4).all (fun i => (List.range i).all fun j => Nat.land (d.mask i) (d.mask j) == 0) &&
    d.squeues.all (fun q => q.offset % 16 == 0 && 2 ≤ q.granules && q.granules ≤ 65536 &&
      q.offset + 16 * q.granules ≤ 0x3F0000 && q.producer ≤ 2 && q.producer < q.consumer && q.consumer ≤ 3 &&
      d.mask q.producer != 0 && d.mask q.consumer != 0 &&
      d.maps.all fun m => !rangesMeet q.offset (16 * q.granules) m.window m.length) &&
    apartAll (d.squeues.map fun q => (q.offset, 16 * q.granules))

/-- The entry address may start a needle (R324, R326). -/
def State.entryOk (s : State) (p : Fin 16) (a : Nat) : Bool :=
  a % 2 == 0 &&
    (match s.xlate p 0 .fetch a with
     | .ok _ => true
     | .error _ => false)

/-- The lowest reason for which a descriptor image is rejected (R326). -/
def State.rejectReason (s : State) (p : Fin 16) (b : Nat) : Option Nat :=
  let d := descOf b
  let checks : List (Nat × Bool) :=
    [(1, headClean b), (2, levelsOk d.levels), (3, nestOk (d.levels.filter fun l => l.kind == 2)),
      (4, [1, 2, 4, 8].contains d.stitches && s.entryOk p d.entry), (5, s.mapsOk p d), (6, stagesOk d),
      (7, d.discard.all fun r => r.1 % 128 == 0 && r.2 % 128 == 0),
      (8, d.deps.all (fun x => x.addr % 8 == 0) &&
        (List.range (min (recField b 8 1) 4)).all fun i => recField b (0x140 + 32 * i) 1 ≤ 1)]
  (checks.find? fun c => !c.2).map (·.1)

/-- The image of the descriptor that an inline entry stands for (R321). -/
def inlineImage (e : Nat) : Nat :=
  1 + 2 ^ 16 * 1 + 2 ^ 24 * 2 ^ bitsAt e 1 2 + 2 ^ (8 * 0xB) * 4 + 2 ^ (8 * 0x10) * bitsAt e 64 64 +
    2 ^ (8 * 0x18) * bitsAt e 128 64 + 2 ^ (8 * 0x20) * 1 + 2 ^ (8 * 0x40) * 1 + 2 ^ (8 * 0x44) * bitsAt e 8 32 +
    2 ^ (8 * 0x48) * 1

/-- The zero bits of a queue entry (R321). -/
def queueEntryOk (e : Nat) : Bool :=
  if e % 2 = 1 then bitsAt e 3 5 == 0 && bitsAt e 40 24 == 0 && bitsAt e 192 64 == 0
  else bitsAt e 0 7 == 0 && bitsAt e 64 192 == 0

/-- The lowest reason for an entry, and the image it names where that can be read (R321, R326). -/
def State.entryImage (s : State) (p : Fin 16) (e : Nat) : Option Nat × Option Nat :=
  let image := if e % 2 = 1 then some (inlineImage e) else s.generalLines p (bitsAt e 0 64) 9
  if !queueEntryOk e then (some 1, if e % 128 = 0 then image else none)
  else
    match image with
    | none => (some 8, none)
    | some b => (s.rejectReason p b, some b)

/-! ### Completion records (R332) -/

/-- The 64 bytes of a completion record (R332). -/
def recordImage (status reason flags run early t0 t1 t2 : Nat) : Nat :=
  leValue (leBytes 4 status ++ leBytes 1 reason ++ leBytes 1 flags ++ leBytes 2 0 ++ leBytes 8 run ++ leBytes 8 early ++
    leBytes 8 t0 ++ leBytes 8 t1 ++ leBytes 8 t2)

/-- A completion record is written; one that cannot be is left (R326, R332). -/
def State.writeCompletion (s : State) (p : Fin 16) (addr image : Nat) : State :=
  if addr = 0 then s
  else
    match s.engineWrite p 1 addr 64 image with
    | .ok t => t
    | .error _ => s

/-! ### Acceptance (R13, R322, R328) -/

/-- The shares of an accepted launch: its S iterations over the partition's stacks, or all its tiles in the
home stack (R13, R15, R328). -/
def sharesOf (ownStacks : List Nat) (home : Nat) (ls : List Level) : List Share :=
  let n := countOf 0 ls
  let m := countOf 1 ls
  let p := ownStacks.length
  if n * m = 0 then []
  else if ls.any fun l => l.kind == 0 then
    ownStacks.zipIdx.map fun x => Share.mk x.1 (x.2 * n / p * m) ((x.2 + 1) * n / p * m)
  else [Share.mk home 0 m]

/-- The previous launch of a queue, if it has not completed (R328). -/
def State.previousLaunch (s : State) (p : Fin 16) (q : Nat) : Option Launch :=
  (((s.part p).lastLaunch.find? fun x => x.1 == q).map (·.2)).bind fun id => s.launches.find? fun l => l.id == id

/-- Every tile of a launch has been claimed. -/
def Launch.claimed (l : Launch) : Bool := l.shares.all fun x => x.limit ≤ x.next

/-- A queue stops: its interrupt carries the entry's address (R322). -/
def State.stopQueue (s : State) (p : Fin 16) (q : Nat) (addr : Nat) : State :=
  s.updPart p fun x => { x with stopped := x.stopped ||| (1#64 <<< q), rejections := x.rejections ++ [BitVec.ofNat 64 addr] }

/-- When an entry of a queue was enqueued: as it was noted, else now (log 6). -/
def State.enqueuedAt (s : State) (p : Fin 16) (q n : Nat) : Nat :=
  (((s.part p).queued.find? fun x => x.1 == q && x.2.1 == n).map (·.2.2)).getD s.now

/-- An entry is accepted as a launch (R322, R324, R328). -/
def State.acceptLaunch (s : State) (p : Fin 16) (q : Nat) (h : QueueHead) (addr b : Nat) : State :=
  let d := descOf b
  let l : Launch :=
    { id := s.nextLaunch, part := p.val, queue := q, prio := h.prio, desc := d, descAddr := addr,
      enqueued := s.enqueuedAt p q h.head,
      first := 0, shares := sharesOf (s.part p).ownStacks ((s.part p).ownStacks.getD h.home 0) d.levels, running := 0, ended := 0,
      early := 0, ready := d.deps.isEmpty, planeErr := false, phase := 0, split := [] }
  { s with launches := s.launches ++ [l] }

/-- The entry of a queue enqueued at a cycle is rejected: record with status 1, interrupt 0x22, no signal (R326, R332). -/
def State.rejectEntry (s : State) (p : Fin 16) (info reason enqueued : Nat) (image : Option Nat) : State :=
  let rec_ := (image.map fun b => recField b 0x28 8).getD 0
  let s := s.writeCompletion p (if rec_ % 64 = 0 then rec_ else 0) (recordImage 1 reason 0 0 0 enqueued 0 s.now)
  s.updPart p fun x => { x with rejections := x.rejections ++ [BitVec.ofNat 64 info] }

/-- The reads of the descriptor that a queue entry names (R328, R359). -/
def State.noteImage (s : State) (p : Fin 16) (e : Nat) : State :=
  if e % 2 = 1 then s else (List.range 9).foldl (fun s i => s.noteEngine p 1 (bitsAt e 0 64 + 128 * i)) s

/-- The entry at head is taken: head + 1, then accepted or rejected (R322, R326). -/
def State.takeEntry (s : State) (p : Fin 16) (q : Nat) (h : QueueHead) (e : Nat) : State :=
  match s.engineWrite p 1 (s.headAddr p q + 16) 8 (h.head + 1) with
  | .error _ => s.stopQueue p q (h.entryAddr h.head)
  | .ok t =>
    let inline := e % 2 == 1
    let info := if inline then h.entryAddr h.head else bitsAt e 0 64
    let x := t.entryImage p e
    let t := (t.noteEngine p 1 (h.entryAddr h.head)).noteImage p e
    let t := match x.1, x.2 with
      | none, some b => t.acceptLaunch p q h (if inline then 0 else info) b
      | r, image => t.rejectEntry p info (r.getD 8) (s.enqueuedAt p q h.head) (if inline then none else image)
    { t.updPart p fun y => { y with
        lastLaunch := (q, t.nextLaunch) :: y.lastLaunch.filter fun x => x.1 != q,
        queued := y.queued.filter fun x => !(x.1 == q && x.2.1 == h.head) } with
      nextLaunch := t.nextLaunch + 1 }

/-- The entry at head is serial: it is accepted only once the previous launch of its queue has completed (R328). -/
def State.headSerial (s : State) (p : Fin 16) (h : QueueHead) : Bool :=
  match s.engineRead p 1 (h.entryAddr h.head) 32 with
  | .error _ => false
  | .ok e =>
    let x := s.entryImage p e
    x.1.isNone && e % 2 = 0 && (x.2.map fun b => (descOf b).serial) = some true

/-- The entry at the head of a queue may be taken, as far as its queue goes: there is one, every tile of the previous launch is
claimed, and where the entry is serial that launch has completed (R322, R328). -/
def State.headWaits (s : State) (p : Fin 16) (q : Nat) (h : QueueHead) : Bool :=
  h.head < h.tail && (s.previousLaunch p q).all fun l => l.claimed && !s.headSerial p h

/-- No queue of the same priority has an older entry at its head that may be taken (R37). -/
def State.queueFirst (s : State) (p : Fin 16) (q : Nat) (h : QueueHead) : Bool :=
  let mine := s.enqueuedAt p q h.head
  (s.part p).queued.all fun x =>
    x.1 == q || mine ≤ x.2.2 ||
      (match s.queueOpen p x.1 with
       | none => true
       | some o => o.prio != h.prio || o.head != x.2.1 || !s.headWaits p x.1 o)

/-- QUEUE_ENTRY_ACCEPT: the scheduler takes the entry at head of queue q mod 64 of partition q / 64 once the
previous launch of the queue lets it (R322, R328); of queues of equal priority the one with the oldest entry (R37). -/
def execQueueEntryAccept (q : Nat) (s : State) : Host.Outcome State Fault Refusal :=
  let p := partIx (q / 64)
  let n := q % 64
  match (if (s.part p).on && s.accepting then s.queueOpen p n else none) with
  | none => .next s
  | some h =>
    if !s.headWaits p n h || !s.queueFirst p n h then .next s
    else
      match s.engineRead p 1 (h.entryAddr h.head) 32 with
      | .error _ => .next (s.stopQueue p n (h.entryAddr h.head))
      | .ok e => .next (s.takeEntry p n h e)

/-- A stopped queue runs again once S has cleared enable (R322): its header is read as it stands. -/
def State.queueCleared (s : State) (p : Fin 16) (q : Nat) : Bool :=
  match s.engineRead p 1 (s.headAddr p q) 128 with
  | .ok r => bitsAt r 104 1 == 0
  | .error _ => false

/-- The scheduler holds the header lines of stopped queues through coherence (R322). -/
def State.noteQueues (s : State) : State :=
  (List.range 16).foldl (fun s n =>
    let p := partIx n
    if (s.part p).stopped = 0 then s
    else
      (List.range 64).foldl (fun s q =>
        if (s.part p).stopped.getLsbD q && s.queueCleared p q then
          s.updPart p fun x => { x with stopped := x.stopped &&& ~~~(1#64 <<< q) }
        else s) s) s

/-- PREFETCH changes timing only (R92). -/
def execPrefetch (launch : Nat) (s : State) : Host.Outcome State Fault Refusal :=
  let _ := launch
  .next s

/-- A dependence after a read of its word, which lies in a page of a class that such words have (R273, R277, R329). A host line
is brought in, to be watched (R402). -/
def State.testDep (s : State) (p : Fin 16) (d : Dependence) : State × Dependence :=
  match s.xlate p 1 .load d.addr with
  | .error _ => (s, d)
  | .ok ph =>
    if d.met || ph.cls == .plane || ph.key / 2 ^ 58 == 1 then (s, d)
    else
      let met := d.value ≤ s.readN ph.key 8
      (if met || ph.cls == .host then s.noteRead ph else s, { d with met := met })

/-- LAUNCH_READY: reads of the dependence words satisfy the launch's dependences (R329). -/
def execLaunchReady (launch : Nat) (s : State) : Host.Outcome State Fault Refusal :=
  match s.launches.find? fun l => l.id == launch with
  | none => .next s
  | some l =>
    let r := l.desc.deps.foldl (fun (r : State × List Dependence) d =>
      let x := r.1.testDep (partIx l.part) d
      (x.1, r.2 ++ [x.2])) (s, [])
    .next (r.1.updLaunch launch fun l => { l with desc := { l.desc with deps := r.2 }, ready := r.2.all (·.met) })

/-! ### Placement (R330, R333, R335, R337) -/

/-- The tiles of another core. -/
def State.remoteOn (s : State) (core : Nat) : List RemoteTile := s.remote.filter fun t => t.core == core

/-- A core of a stack runs no tile. -/
def State.idleCore (s : State) (core : Nat) : Bool :=
  if core = s.coreId then s.tiles.toList.all (·.isNone) else (s.remoteOn core).isEmpty

/-- Some core of a stack is idle. -/
def State.someIdle (s : State) (stack : Nat) : Bool := (List.range 128).any fun n => s.idleCore (stack * 128 + n)

/-- The first context slot of a second tile of `n` stitches beside a tile: the number of contexts that tile holds (R333).
DESIGN CHOICE (log 81): where the tile itself stands in those slots, the lowest free run. -/
def secondBase (o : Tile) (n : Nat) : Option Nat :=
  [o.count, 0, o.base + o.count].find? fun b => b + n ≤ 8 && (b + n ≤ o.base || o.base + o.count ≤ b)

/-- The core after it has lent lane groups, if the launch may join it as a second tile (R333, R335). -/
def State.joinable (s : State) (o : Tile) (l : Launch) : Option State :=
  let n := l.desc.stitches
  let t := s.lend o
  if !l.desc.second || (secondBase o n).isNone then none
  else if n ≤ s.secondGroups o l.prio (s.nominal o) then some s
  else if o.prio < l.prio && n ≤ s.nominal o - t.nominal o then some t
  else none

/-- A context at tile start; S and M registers, the throw number and collectives are not the tile's (R39). -/
def Ctx.atStart (c : Ctx) (window : Nat) : Ctx :=
  { Ctx.reset with
    throwSeq := c.throwSeq, colls := c.colls, collCounts := c.collCounts, window := window,
    sys := { c.sys with uevec := 0, uepc := 0, ucause := 0, uinfo := 0, ustat := 0 } }

/-- The iterations of the S and C levels in a tile, outermost first (R13, R14). -/
def tileIters : List Level → Nat → List Nat × Nat
  | [], t => ([], t)
  | l :: ls, t =>
    let r := tileIters ls t
    if l.kind = 2 then (0 :: r.1, r.2) else ((r.2 % l.count) :: r.1, r.2 / l.count)

/-- The loop index registers of a tile (R14). -/
def startLevels (ls : List Level) (tile : Nat) : Vector LoopLevel 6 :=
  let its := (tileIters ls tile).1
  Vector.ofFn fun n =>
    match ls[n.val]?, its[n.val]? with
    | some l, some i => if l.kind = 2 then LoopLevel.idle else { LoopLevel.idle with li := BitVec.ofInt 64 ((i : Int) * l.stride) }
    | _, _ => LoopLevel.idle

/-- The shared state of an idle core at tile start (R39, R87, R88). -/
def State.clearShared (s : State) : State :=
  { s with sd := Vector.replicate 8 none, acc := Vector.replicate 2 none, wm := Vector.replicate 16 none, full := [],
           present := [], restoreFull := [], emptied := [], outside := [],
           mem := s.mem.filter fun c => c.1 < stashKey 0 || stashKey 0x400000 ≤ c.1 }

/-- The launch claims its next tile in a stack (R13). -/
def Launch.claim (l : Launch) (stack : Nat) : Launch :=
  { l with shares := l.shares.map fun x => if x.stack == stack then { x with next := x.next + 1 } else x,
           running := l.running + 1 }

/-- The lane split of the launch's phase-table entry applies to a tile that starts with `g` groups, where it is one of them
(R389). -/
def State.applySplit (s : State) (l : Launch) (t : Tile) (g : Nat) : State :=
  match s.phaseRow l with
  | none => s
  | some r =>
    if r.split.length = t.count && r.split.foldl (· + ·) 0 = g && s.lanesHeld ≤ 4 * s.coreGroups then
      r.split.zipIdx.foldl (fun s x => s.updAt (ctxIx (2 + t.base + x.2)) fun c => { c with alc := BitVec.ofNat 6 (4 * x.1) }) s
    else s

/-- A tile starts in a slot of this core with `g` lane groups (R16, R24, R39, R81). -/
def State.startTile (s : State) (l : Launch) (number slot base g : Nat) : State :=
  let t : Tile :=
    { launch := l.id, number := number, part := l.part, prio := l.prio, base := base, count := l.desc.stitches,
      desc := l.desc, descAddr := l.descAddr, order := s.now, stopping := false, frozen := false, leaving := false,
      watchdog := false, kept := false, resetBy := none, ended := false, share := g }
  let window := (s.part (partIx l.part)).wdctl
  let s := { s with codeNew := if s.codeLaunch = l.id then s.codeNew else 0, codeLaunch := l.id }
  let s := (tileCtxs slot t).foldl (fun s c => s.updAt c fun x => x.atStart window) s
  let s := s.updAt (ctxIx slot) fun x =>
    { x with run := .running, pc := BitVec.ofNat 64 l.desc.entry, levels := startLevels l.desc.levels number }
  ((((s.setTile slot (some t)).shareLanes t g).applySplit l t g).updLaunch l.id fun x => x.claim s.stack.toNat)

/-- The highest priority of the tiles of a core. -/
def State.corePrio (s : State) (core : Nat) : Nat :=
  if core = s.coreId then (s.tiles.toList.filterMap fun t => t.map (·.prio)).foldl max 0
  else ((s.remoteOn core).filterMap fun t => (s.launches.find? fun l => l.id == t.launch).map (·.prio)).foldl max 0

/-- When the launch of the youngest tile of a core was enqueued (R37, R337). -/
def State.coreYoungest (s : State) (core : Nat) : Nat :=
  if core = s.coreId then (s.tiles.toList.filterMap fun t => t.map s.tileAge).foldl max 0
  else ((s.remoteOn core).map fun t =>
    ((s.launches.find? fun l => l.id == t.launch).map (·.enqueued)).getD t.order).foldl max 0

/-- A tile of the launch may join another core as its second tile (R333). The lane groups of that core are not known here:
with the loan of R335 it has them (log 48). -/
def State.remoteJoinable (s : State) (core : Nat) (l : Launch) : Bool :=
  match s.remoteOn core with
  | [t] => l.desc.second && t.count + l.desc.stitches ≤ 8 && s.corePrio core < l.prio
  | _ => false

/-- A tile of the launch may join some busy core of this stack as its second tile (R330, R333). -/
def State.someJoinable (s : State) (l : Launch) : Bool :=
  [0, 1].any (fun slot => (s.tileAt slot).isNone && (s.tileAt (1 - slot)).any fun o => (s.joinable o l).isSome) ||
    (List.range 128).any fun n => s.remoteJoinable (s.stack.toNat * 128 + n) l

/-- This core is the one that a launch pre-empts: no tile may be placed otherwise (R330), no core of the stack has a lower
highest priority, and of those with the same none has a younger tile (R337). -/
def State.preempted (s : State) (l : Launch) : Bool :=
  let mine := s.corePrio s.coreId
  mine < l.prio && !s.someJoinable l &&
    (List.range 128).all fun n =>
      let c := s.stack.toNat * 128 + n
      mine < s.corePrio c || (mine == s.corePrio c && s.coreYoungest c ≤ s.coreYoungest s.coreId)

/-- The tile of a slot is asked to leave the core; one that is frozen has been saved and leaves at once (R337). -/
def State.askTile (s : State) (slot : Nat) : State :=
  match s.tileAt slot with
  | none => s
  | some t => if t.frozen then s.takeOff slot t else s.setTile slot (some { t with stopping := true, leaving := true })

/-- The tiles of the core are asked to leave it (R337). -/
def State.askLeave (s : State) : State := (s.askTile 0).askTile 1

/-- The launch that TILE_START names is the one its stack starts next: with the tile's number (R330). -/
def State.startable (s : State) (launch stack : Nat) : Option (Launch × Nat) :=
  match s.bestLaunch stack with
  | some l => if l.id = launch then (l.nextTile stack).map fun n => (l, n) else none
  | none => none

/-- A tile starts on another core (R330, R333), and with it its first instruction (R332, log 6). -/
def State.startRemote (s : State) (launch core slot : Nat) : State :=
  match s.startable launch (core / 128) with
  | none => s
  | some x =>
    let on := s.remoteOn core
    let base := match on.find? fun t => t.slot != slot with
      | none => if slot = 0 then some 0 else none
      | some o => if x.1.desc.second && o.count + x.1.desc.stitches ≤ 8 && !s.someIdle (core / 128)
          then some o.count else none
    match (if core = s.coreId || on.any (fun t => t.slot == slot) then none else base) with
    | none => s
    | some b =>
      { s.updLaunch launch fun l => { l.claim (core / 128) with first := if l.first = 0 then s.now else l.first } with
        remote := RemoteTile.mk core slot launch b x.1.desc.stitches x.1.part false s.now false [] :: s.remote }

/-- TILE_START: a tile of the launch starts on this core (slots 0 and 1) or on another (slot 2 + 2 × core + its
slot): an idle core, a second tile, or pre-emption (R330, R333, R337). -/
def execTileStart (launch slot : Nat) (s : State) : Host.Outcome State Fault Refusal :=
  if !s.accepting then .next s
  else if 2 ≤ slot then .next (s.startRemote launch ((slot - 2) / 2) ((slot - 2) % 2))
  else
    match s.startable launch s.stack.toNat with
    | none => .next s
    | some (l, n) =>
      if s.idleCore s.coreId then
        .next (if slot = 0 then s.clearShared.startTile l n 0 0 (s.laneGroups l.prio) else s)
      else if s.someIdle s.stack.toNat then .next s
      else
        match (if (s.tileAt slot).isNone then s.tileAt (1 - slot) else none) with
        | none => .next (if s.preempted l then s.askLeave else s)
        | some o =>
          match s.joinable o l, secondBase o l.desc.stitches with
          | some t, some b => .next (t.startTile l n slot b (t.secondGroups o l.prio (t.nominal o)))
          | _, _ => .next (if s.preempted l then s.askLeave else s)

/-- TILE_END: a tile whose needle's STOP is complete ends; so does a tile of another core (R16). -/
def execTileEnd (slot launch : Nat) (s : State) : Host.Outcome State Fault Refusal :=
  if slot < 2 then
    match s.tileAt slot with
    | some t => if t.ended && t.launch = launch then .next (s.endTile slot false) else .next s
    | none => .next s
  else
    match s.remote.find? fun t => t.core == (slot - 2) / 2 && t.slot == (slot - 2) % 2 && t.launch == launch with
    | none => .next s
    | some t =>
      .next ({ s with remote := s.remote.erase t }.updLaunch launch fun l =>
        { l with running := l.running - 1, ended := l.ended + 1 })

/-! ### Completion (R93, R331, R332) -/

/-- What a byte of a discarded line reads as where the line does not read zero: a value it has held (R93, log 4). -/
def State.discardByte (s : State) (k : Nat) : Byte :=
  let olds := (s.oldHalves s.history.length k).map fun h => BitVec.ofNat 8 (h / 2 ^ (8 * (k % 2)))
  (olds[Config.discardPicks s.draws k % (olds.length + 1)]?).getD (s.byte k)

/-- One line of a discard range: where it is general and writable it reads zero, or each byte of it a value that it has
held (R93). DESIGN CHOICE (log 74): its words lose their reduction tags. -/
def State.discardLine (s : State) (p : Fin 16) (va : Nat) : State :=
  match s.xlate p 1 .store va with
  | .error _ => s
  | .ok ph =>
    if ph.cls != .general then s
    else
      let keep := Config.discardKeeps s.draws va
      let v := if keep then leValue ((List.range 128).map fun i => s.discardByte (ph.key + i)) else 0
      let s := { s with draws := s.draws + 1 }
      let s := ((s.clearTags ph.key 128).keepOld ph.key 128).writeN ph.key v 128
      s.dropPresent ph.key 128

/-- The lines of a discard range from an address on. -/
def State.discardLines (s : State) (p : Fin 16) (va : Nat) : Nat → State
  | 0 => s
  | n + 1 => (s.discardLine p va).discardLines p (va + 128) n

/-- The launch may complete: every tile has ended; a null launch waits for its dependences and for every earlier
launch of its queue (R15, R122, R331). What a reset core still writes back comes before (R87, R313). -/
def State.mayComplete (s : State) (l : Launch) : Bool :=
  l.ready && l.claimed && l.running == 0 && !s.pending.any (·.ctx == 14) &&
    (!l.shares.isEmpty ||
      !s.launches.any fun o => o.part == l.part && o.queue == l.queue && o.id < l.id)

/-- The phase table keeps the b and the lane split of the run that took least, by entry address and marker (R389). -/
def State.notePhase (s : State) (l : Launch) : State :=
  let r : PhaseRow := { entry := l.desc.entry, marker := l.phase, b := s.budget, split := l.split, time := s.now - l.first }
  if !s.mgmt.accepted.getLsbD 0 || (s.phaseRow l).any fun o => o.time ≤ r.time then s
  else
    { s with mgmt := { s.mgmt with
        phases := (r :: s.mgmt.phases.filter fun x => !(x.entry == r.entry && x.marker == r.marker)).take 4096 } }

/-- The stores of tiles that have ended are performed (R122); then the discards, the record, the signal, in this order
(R331). -/
def State.completeLaunch (s : State) (l : Launch) : State :=
  let p := partIx l.part
  let s := s.settleStores fun e => e.ctx == 12
  let s := l.desc.discard.foldl (fun s r => s.discardLines p r.1 (r.2 / 128)) s
  let flags := natOf l.desc.unchecked + 2 * natOf l.planeErr
  let s := s.writeCompletion p l.desc.record
    (recordImage (if l.early = 0 then 0 else 2) 0 flags l.ended l.early l.enqueued l.first s.now)
  let s := if l.desc.signal = 0 then s
    else
      match s.engineAdd p 1 l.desc.signal l.desc.increment with
      | .ok t => t
      | .error _ => s
  { (s.notePhase l) with launches := s.launches.filter fun o => o.id != l.id }

/-- LAUNCH_COMPLETE (R331). -/
def execLaunchComplete (launch : Nat) (s : State) : Host.Outcome State Fault Refusal :=
  match s.launches.find? fun l => l.id == launch with
  | none => .next s
  | some l => .next (if s.mayComplete l && s.active then s.completeLaunch l else s)

/-! ### The stage arbiter (R29, R30) -/

/-- The stitches of a stage of a tile. -/
def Tile.stageOf (t : Tile) (k : Nat) : List Nat := (List.range t.count).filter fun i => bitsAt (t.desc.mask k) i 1 == 1

/-- The lane groups that a stage holds (R29). -/
def State.stageGroups (s : State) (t : Tile) (k : Nat) : Nat :=
  ((t.stageOf k).map fun i => (s.ctxs.get (ctxIx (2 + t.base + i))).alc.toNat / 4).foldl (· + ·) 0

/-- A stage's groups are given to its stitches equally, the remainder to the lowest (R29). -/
def State.giveStage (s : State) (t : Tile) (k g : Nat) : State :=
  let is := t.stageOf k
  is.zipIdx.foldl (fun s p => s.updAt (ctxIx (2 + t.base + p.1)) fun c => { c with alc := laneShare g is.length p.2 }) s

/-- One lane group goes from a stage to another, if no stitch of the giver is left without (R30). -/
def State.moveGroup (s : State) (t : Tile) (giver taker : Nat) : State :=
  let g := s.stageGroups t giver
  if giver ≠ taker && (t.stageOf giver).length < g && !(t.stageOf taker).isEmpty then
    let h := s.stageGroups t taker
    (s.giveStage t giver (g - 1)).giveStage t taker (h + 1)
  else s

/-- Of the queues with the highest mean occupancy the one whose consumer is the lowest stage (R30). -/
def fullestQueue (qs : List StageQueue) (occ : Nat → Nat) : Option (StageQueue × Nat) :=
  let l := qs.zipIdx.map fun q => (q.1, occ q.2)
  l.find? fun q => l.all fun o => o.2 < q.2 || (o.2 == q.2 && q.1.consumer ≤ o.1.consumer)

/-- The place of the first largest number of a list. -/
def firstMax (l : List Nat) : Nat := (l.findIdx? fun x => l.all fun y => y ≤ x).getD 0

/-- STAGE_ARBITER_PERIOD: what the period measured is given: for each queue the cycles its producers stalled on
it full and its mean occupancy in percent, for each stage the cycles it stalled on an empty input (R30). DESIGN CHOICE
(log 86): of several full queues that a producer is blocked on the first of the table gives the consumer. -/
def execStageArbiterPeriod (slot : Nat) (blocked occupancy starved : List Nat) (s : State) :
    Host.Outcome State Fault Refusal :=
  match s.tileAt (slot % 2) with
  | none => .next s
  | some t =>
    let qs := t.desc.squeues
    let stages := (List.range 4).filter fun k => t.desc.mask k != 0
    if stages.length < 2 then .next s
    else
      let stuck := (List.range 4).findSome? fun k =>
        (qs.zipIdx.find? fun q => q.1.producer == k && 525 ≤ blocked.getD q.2 0).map (·.1)
      match stuck with
      | some q => .next (s.moveGroup t q.producer q.consumer)
      | none =>
        let waits := (List.range 4).map fun k => if stages.contains k then starved.getD k 0 else 0
        match fullestQueue qs (occupancy.getD · 0) with
        | some q =>
          if q.2 < 50 || waits.all (· == 0) then .next s
          else .next (s.moveGroup t (firstMax waits) q.1.consumer)
        | none => .next s

end Sys2Proof.Machine
end

