-- ==== Sys2Proof/Machine/Power.lean ====
section
/-!
DEFINITION. Errors, sensors, protective limits, the power-fail clamp, emergency saves, retention, module reset
(R216, R377 to R388, R391 to R394, R398).
-/
namespace Sys2Proof.Machine

/-! ### Detected errors (R379, R380) -/

/-- The core of a place field (R381). -/
def placeCore (place : Nat) : Nat := place / 32 % 2048

/-- The cores that a check of a unit goes to: the core of the place, core 0 of vault 0 of its stack for a vault unit, a
carriage or a mesh link, one core of each partition that an I/O-die unit serves (R300, R393). -/
def State.checkCores (s : State) (source : ErrorSource) (place : Nat) : List Nat :=
  match source with
  | .core => [placeCore place]
  | .vault => [stackCore (placeCore place / 128)]
  | .io serves => s.ioCores serves

/-- A corrected error: its record is the first of its unit within a second, with machine check 0x30, or it is counted in
that record (R379, R381). -/
def State.corrected (s : State) (f : LogFields) (source : ErrorSource) : State :=
  let key := (2 * f.unit + natOf (source == .core)) * 65536 + f.place
  match s.mgmt.folded.find? fun x => x.1 == key && s.now < x.2.1 + 1000 * cyclesPerMs with
  | some x =>
    let bump (r : LogRecord) : LogRecord :=
      if r.seq = x.2.2 then
        { r with bytes := r.bytes.take 21 ++ [BitVec.ofNat 8 (min 255 (((r.bytes[21]?).getD 0).toNat + 1))] ++
            r.bytes.drop 22 }
      else r
    { s with mgmt := { s.mgmt with log := s.mgmt.log.map bump } }
  | none =>
    let seq := s.mgmt.nextSeq
    let s := s.logCheck f (s.checkCores source f.place)
    { s with mgmt := { s.mgmt with folded := (key, s.now, seq) :: s.mgmt.folded.filter fun x => x.1 != key } }

/-- The tile of a context is frozen as FREEZE freezes it (R309, R379). A guest, which no tile holds, goes no further (log 82). -/
def State.freezeOf (s : State) (c : Nat) : State :=
  let k := ctxIx c
  match s.tileOf k with
  | some t => if t.frozen then s else s.freezeTile (s.slotOf k)
  | none => if (s.ctxs.get k).guest.isSome then s.updAt k fun x => { x with saved := true } else s

/-- A vault unit is reset as CRESET resets a core (R313, R379). DESIGN CHOICE (log 82): what it has queued is lost, the throws
that wait at it and the watches of its words; a plane instruction that computes in it fails as by a detected plane error. -/
def State.resetVault (s : State) (stack vault : Nat) : State :=
  let s := { s with
    throws := if stack = s.stack.toNat && vault = s.vault.toNat then [] else s.throws,
    watches := s.watches.filter fun w => s.home .general w.2 != some (stack, vault) }
  (List.range 12).foldl (fun s n =>
    match s.headOp (ctxIx n) stack with
    | some o =>
      if (s.physical o o.batch).any fun k => k / 1536 == stack * 32 + vault then s.planeFail (ctxIx n) o else s
    | none => s) s

/-- The contexts of this core whose saved state holds a byte of the save area: a record's own, for the shared state the
needle of tile slot 0 (R340). -/
def State.recordAt (s : State) (addr : Nat) : Option Nat :=
  let k := saveKey addr
  let b := s.blockKey
  if k < b || b + 0x4A0000 + 10 * 0x9600 ≤ k then none
  else if k < b + 0x4A0000 then some 0 else some ((k - b - 0x4A0000) / 0x9600)

/-- A storage error in the save area: a tile whose saved state it touches, and that is being saved or is saved, ends early
(R331, R340). -/
def State.saveError (s : State) (addr : Nat) : State :=
  match s.recordAt addr with
  | none => s
  | some n =>
    let s := (s.savedTiles.filter fun e => e.ctxs.any fun p => p.1 == n).foldl State.endSaved s
    [0, 1].foldl (fun s slot =>
      match s.tileAt slot with
      | some t => if (t.stopping || t.frozen) && (tileCtxs slot t).contains (ctxIx n) then s.endTile slot true else s
      | none => s) s

/-- ERROR_DETECTED: a corrected error is logged; data consumed by a context, or a datapath residue, freezes its tile;
a control error resets the core or the vault unit (R379); an error met in the save area ends its tile (R340). The record names
the victim's partition and launch (R381). -/
def execErrorDetected (cls unit : Nat) (place : ErrorPlace) (addr syndrome : Word) (victim : Option Nat) (s : State) :
    Host.Outcome State Fault Refusal :=
  let source := place.source
  let place := place.number
  let tile := victim.bind fun c => s.tileOf (ctxIx c)
  let f := LogFields.mk cls unit (place % 65536) ((tile.map (·.part)).getD 0xFF) addr.toNat syndrome.toNat 0
    ((tile.map (·.descAddr)).getD 0)
  if cls = 0x30 then .next (if s.answers then s.corrected f source else s)
  else if !s.active then .next s
  else if cls = 0x32 && unit = 5 && source = .core then
    let core := placeCore place
    let s := if core = s.coreId then s.resetCore else s.resetRemote core
    .next (s.logCheck f [resetCheckCore core])
  else if cls = 0x32 && unit = 5 && source = .vault then
    .next ((s.resetVault (placeCore place / 128) (placeCore place / 4 % 32)).logCheck f (s.checkCores source place))
  else if cls = 0x31 || cls = 0x32 || cls = 0x34 then
    let s := s.logCheck f (s.checkCores source place)
    .next ((victim.map s.freezeOf).getD (s.saveError addr.toNat))
  else .next s

/-- PATROL_SCRUB: a word is read and corrected, or found uncorrectable: machine check 0x31, the word as it is
(R379, R380). -/
def execPatrolScrub (unit : Nat) (place : ErrorPlace) (addr : Word) (uncorrectable : Bool) (s : State) :
    Host.Outcome State Fault Refusal :=
  if uncorrectable && s.answers then
    .next (s.logCheck (LogFields.mk 0x31 unit (place.number % 65536) 0xFF addr.toNat 0 0 0)
      (s.checkCores place.source place.number))
  else .next s

/-- LINK_REPLAY_FAILURE: machine check 0x33; a store that waits on the link is discarded, and a load or an atomic that a context
makes through it in its next move fails (R372, R379). -/
def execLinkReplayFailure (port : Nat) (addr : Word) (s : State) : Host.Outcome State Fault Refusal :=
  if !s.answers then .next s
  else
    let t := s.dropStore (fun p => p.addr == addr.toNat) port
    if t = s then
      .next ((List.range 12).foldl (fun s n => s.failAccess (ctxIx n) false port addr) (s.linkCheck port 0xFF addr.toNat))
    else .next t

/-! ### Sensors and limit 1 (R216, R384, R391, R392) -/

/-- The reading of a sensor in a sample, in m°C, mV or mA (R391). -/
def readingOf (l : List Word) (i : Nat) : Option Int := l[i]?.map (·.toInt)

/-- The highest reading of the DRAM sensors of a stack in millidegrees (R216, R391). -/
def stackHeat (l : List Word) (stack : Nat) : Option Int :=
  ((span (128 + 24 * stack) 24).filterMap (readingOf l)).foldl (fun m x => some (match m with
    | none => x
    | some y => if y < x then x else y)) none

/-- The stack's refresh uses the short interval after this sample (R216). -/
def hotAfter (was : Bool) (heat : Option Int) : Bool :=
  match heat with
  | none => was
  | some t => if 85000 < t then true else if t ≤ 83000 then false else was

/-- A switch of a stack's refresh interval moves the due times of its vaults (R216). -/
def State.switchRefresh (s : State) (stack : Nat) (hot : Bool) : State :=
  let was := s.mgmt.hot.contains stack
  if was = hot then s
  else
    let new := (span (stack * 32) 32).map fun v =>
      let r := s.refreshAt v
      { r with due := if hot then min r.due (r.last + 2048) else r.last + 4095 }
    { s with refresh := new ++ s.refresh.filter fun r => r.vault / 32 != stack,
             mgmt := { s.mgmt with hot := if hot then setAdd stack s.mgmt.hot else setDrop s.mgmt.hot stack } }

/-- A sample puts limit 1 in force: a base die above 95 degrees, a DRAM die above 90, a rail current above its limit
(R384). -/
def limitTripped (l : List Word) : Bool :=
  (l.take 128).any (fun w => decide (95000 < w.toInt)) || ((l.take 512).drop 128).any (fun w => decide (90000 < w.toInt)) ||
    (span 512 64).any fun i => (l[i]?).any fun w => Config.overCurrent i w

/-- A sample reaches a trip point (R384). -/
def tripPoint (l : List Word) : Bool :=
  (l.take 128).any (fun w => decide (110000 ≤ w.toInt)) || ((l.take 512).drop 128).any fun w => decide (100000 ≤ w.toInt)

/-- Limit 1 leaves the core some lane groups, which its tiles share (R26, R384, log 4); without it they share as
at their start. -/
def State.applyLimit (s : State) : State :=
  if s.mgmt.limit1 then
    let g := 1 + (Config.limitedGroups s.draws).toNat
    { s with draws := s.draws + 1, mgmt := { s.mgmt with limitGroups := g } }.reshare
  else s.reshare

/-- A quantity outside an operating limit: a record of its unit, and the guarantee is void (R392). -/
def State.checkLimit (s : State) (unit : Nat) (value : Int) (within : Bool) : State :=
  if within then s
  else { s with mgmt := { s.mgmt with voided := true } }.logEvent (LogFields.mk 0x38 unit 0 0xFF 0 (wrapTo 64 value) 0 0)

/-- The operating limits: the 54 V input, the coolant's inlet temperature in m°C and the least flow of a cold plate in ml/min
(R392; the units of the last two and which of the two record units each has, log 83). -/
def State.checkLimits (s : State) (l : List Word) (inlet flow : Int) : State :=
  let v := (readingOf l (512 + Config.supplyRail.toNat)).getD 54000
  ((s.checkLimit 8 v (48000 ≤ v && v ≤ 58000)).checkLimit 7 inlet (15000 ≤ inlet && inlet ≤ 40000)).checkLimit 7 flow
    (6000 ≤ flow)

/-- SENSOR_SAMPLE: every one of the 576 sensors is sampled; refresh intervals, limit 1 and the operating limits act on it
(R216, R384, R391, R392). The coolant's state comes with it. -/
def execSensorSample (readings : SensorSamples) (s : State) : Host.Outcome State Fault Refusal :=
  let taken := readings
  let readings := taken.readings
  if !s.answers || readings.length ≠ 576 then .next s
  else
    let s := (List.range 16).foldl (fun s k =>
      s.switchRefresh k (hotAfter (s.mgmt.hot.contains k) (stackHeat readings k))) s
    let was := s.mgmt.limit1
    let limit := limitTripped readings
    let s := { s with mgmt := { s.mgmt with samples := readings, sampledAt := s.now, limit1 := limit } }
    let s := if was = limit then s else s.applyLimit
    .next (s.checkLimits readings taken.inlet taken.flow)

/-- The stitches of the core from the one after `c` on, in turn, the oldest first (R35, R37). -/
def State.inTurn (s : State) (c : Fin 12) : List (Fin 12) :=
  let l := (span 2 8).map ctxIx
  let younger := l.filter fun o => s.olderThan c o
  let older := l.filter fun o => s.olderThan o c
  let sorted (l : List (Fin 12)) : List (Fin 12) := l.foldl (fun r c =>
    r.takeWhile (fun o => s.olderThan o c) ++ c :: r.dropWhile fun o => s.olderThan o c) []
  sorted younger ++ sorted older

/-- The lane groups that the tiles of priority 0 to 6 hold together (R311). -/
def State.cappedGroups (s : State) : Nat :=
  ((s.tilesByStart.filter fun t => t.prio != 7).map s.nominal).foldl (· + ·) 0

/-- LANE_SHARING_TURN: a lane group passes from a stitch that holds one to the runnable stitch at alc 0 that is next in
turn (R35, R37, R384), within the lane cap (R311). -/
def execLaneSharingTurn (giver taker : Nat) (s : State) : Host.Outcome State Fault Refusal :=
  let g := ctxIx (2 + giver % 8)
  let t := ctxIx (2 + taker % 8)
  let held (c : Fin 12) : Bool := kindOf c == .stitch && (s.ctxs.get c).alc == 0 && (s.ctxs.get c).runnable &&
    (s.tileOf c).any fun x => x.holds (numOf c)
  let first := (s.inTurn g).find? held == some t
  let room := s.prioOf t == 7 || s.prioOf g != 7 || s.cappedGroups < s.laneCap.toNat
  if first && room && 4 ≤ (s.ctxs.get g).alc.toNat then
    .next ((s.updAt g fun c => { c with alc := c.alc - 4 }).updAt t fun c => { c with alc := 4 })
  else .next s

/-! ### What a loss of logic state takes (R283, R286, R386) -/

/-- The outstanding collectives of a context complete aborted (R286). -/
def State.abortAll (s : State) (c : Fin 12) : Nat → State
  | 0 => s
  | n + 1 =>
    match (s.ctxs.get c).colls with
    | [] => s
    | k :: _ => (s.abortColl c 0 k).abortAll c n

/-- The outstanding collectives of the tiles that have left the core complete aborted too (R286). -/
def State.abortSaved (s : State) : State :=
  let s := (s.savedTiles.flatMap (·.ctxs)).foldl (fun s p => p.2.colls.foldl (fun s k => s.spoilColl (ctxIx p.1) k) s) s
  { s with savedTiles := s.savedTiles.map fun t => { t with ctxs := t.ctxs.map fun p => (p.1, { p.2 with colls := [] }) } }

/-- Every store is performed, host lines go back to the host, collectives are aborted, guests end with no reply, queued
throws go (R386, R400). -/
def State.dropRemoteWork (s : State) : State :=
  let s := s.settleStores fun _ => true
  let s := s.hostLines.foldl (fun s x => s.evictLine x.1) s
  let s := ((List.range 12).foldl (fun s n => s.abortAll (ctxIx n) 4) s).abortSaved
  let s := [10, 11].foldl (fun s n => (s.giveBack (ctxIx n)).updAt (ctxIx n) fun _ => Ctx.reset) s
  { s with throws := [], forwards := [] }

/-! ### Emergency saves (R384, R388) -/

/-- A record's trailer: the save sequence with the ident, then the authentication code (R388). -/
def State.writeTrailer (s : State) (k : Fin 12) : State :=
  let at_ := s.recordOf k
  let head := leBytes 8 (s.mgmt.saveSeq * 65536 + (s.ident k).toNat)
  let mac := Config.trailerMac (s.readBytes at_ 0x95C0 ++ head)
  (s.putBlock (at_ + 0x95C0) (head ++ leBytes 56 mac.toNat))

/-- The trailer of a core's shared state, over what its save block holds before the context records; it stands in the block's
zero bytes at 0x3F8300 (R340, R388; the place and what it covers are the model's choice, log 88). -/
def State.sharedTrailer (s : State) : State :=
  let head := leBytes 8 (s.mgmt.saveSeq * 65536)
  let covered := (movedCells s.mem s.blockKey 0x4A0000 0).filter fun c => c.1 < 0x3F8300 || 0x3F8340 ≤ c.1
  s.putBlock (s.blockKey + 0x3F8300) (head ++ leBytes 56 (Config.sharedMac covered head).toNat)

/-- A tile is saved whole if every context stands at a pre-emption point; its records get trailers (R388). -/
def State.emergencyTile (s : State) (slot : Nat) : State :=
  match s.tileAt slot with
  | none => s
  | some t =>
    let cs := tileCtxs slot t
    if !cs.all fun c => (s.ctxs.get c).saved || s.atPoint c then s
    else
      let s := cs.foldl (fun s c => if (s.ctxs.get c).saved then s else s.saveCtx c) s
      ((cs.foldl State.writeTrailer s).writeShared t.desc.second).sharedTrailer

/-- The tile slots, the tile of higher priority first, the older first within one (R388). -/
def State.saveOrder (s : State) : List Nat :=
  match s.tileAt 0, s.tileAt 1 with
  | some a, some b => if s.tileBefore a b then [0, 1] else [1, 0]
  | _, _ => [0, 1]

/-- An emergency save, with machine check 0x36; then the logic rails are cut (R299, R384, R388). -/
def State.emergencySave (s : State) (unit : Nat) : State :=
  let s := s.logCheck (LogFields.mk 0x36 unit 0 0xFF 0 0 0 0) (s.ioCores (List.range 16))
  let s := { s with mgmt := { s.mgmt with saveSeq := s.mgmt.saveSeq + 1, entering := none, fwWriting := none } }
  let s := s.saveOrder.foldl State.emergencyTile s
  let s := s.dropRemoteWork
  { s with mgmt := { s.mgmt with railsOff := true } }

/-- THERMAL_TRIP: a sensor has reached its trip point (R384). -/
def execThermalTrip (s : State) : Host.Outcome State Fault Refusal :=
  if tripPoint s.mgmt.samples && s.answers then
    .next ({ s with mgmt := { s.mgmt with tripped := true } }.emergencySave 7)
  else .next s

/-- POWER_FAIL_WARNING: the clamp engages (R384). -/
def execPowerFailWarning (s : State) : Host.Outcome State Fault Refusal :=
  if s.answers then
    .next { s with mgmt := { s.mgmt with clamp := true, warning := some (s.mgmt.warning.getD s.now), clearing := none } }
  else .next s

/-- POWER_FAIL_CLEAR: the warning clears; the clamp lifts 1 ms later (R384). -/
def execPowerFailClear (s : State) : Host.Outcome State Fault Refusal :=
  if s.mgmt.warning.isSome then
    .next { s with mgmt := { s.mgmt with warning := none, clearing := some s.now } }
  else .next s

/-- CLAMP_LIFT (R384). -/
def execClampLift (s : State) : Host.Outcome State Fault Refusal :=
  if s.mgmt.clearing.any fun t => t + cyclesPerMs ≤ s.now then
    .next { s with mgmt := { s.mgmt with clamp := false, clearing := none } }
  else .next s

/-- POWER_FAIL_TIMEOUT: the warning has lasted 50 ms without a RET command; an entry into RET goes on (R384, R386). -/
def execPowerFailTimeout (s : State) : Host.Outcome State Fault Refusal :=
  if (s.mgmt.warning.any fun t => t + 50 * cyclesPerMs ≤ s.now) && s.mgmt.power != .ret && s.mgmt.entering.isNone &&
      s.answers then
    .next (s.emergencySave 8)
  else .next s

/-- SUPPLY_LOSS: the supply's loss signal starts an emergency save (R384). -/
def execSupplyLoss (s : State) : Host.Outcome State Fault Refusal :=
  if s.answers then .next (s.emergencySave 8) else .next s

/-- The tile of a slot resumes where its records verify, else it ends early (R388). A frozen tile stays frozen. -/
def State.resumeTile (s : State) (ok : Fin 12 → Bool) (slot : Nat) : State :=
  match s.tileAt slot with
  | none => s
  | some t =>
    let cs := tileCtxs slot t
    if cs.all fun c => (s.ctxs.get c).saved && ok c then
      if t.frozen then s
      else if t.kept then s.setTile slot (some { t with frozen := true, leaving := false, resetBy := none })
      else (s.setTile slot (some { t with stopping := false, leaving := false })).resume slot t 2
    else s.endTile slot true

/-- LOGIC_RAILS_RETURN: firmware checks every record: `retained` says that the retention rail held, `intact` names the
trailers that verify: 0 to 11 of the contexts, 12 of the core's shared state, 13 + 2 × core + slot of all that a tile of
another core has (R388). -/
def execLogicRailsReturn (retained : Bool) (intact : List Nat) (s : State) : Host.Outcome State Fault Refusal :=
  if !s.mgmt.railsOff then .next s
  else
    let ok (c : Fin 12) : Bool := retained && intact.contains c.val && intact.contains 12
    let s := { s with mgmt := { s.mgmt with railsOff := false, clamp := false, warning := none, clearing := none } }
    let s := (s.resumeTile ok 0).resumeTile ok 1
    let s := (s.remote.filter fun t => !(retained && intact.contains (13 + 2 * t.core + t.slot))).foldl State.endRemote s
    .next (if retained then s else s.savedTiles.foldl State.endSaved s)

/-! ### Retention (R386, R387) -/

/-- Every context stands at a pre-emption point and every round is over, so that retention may be entered; a started span is
abandoned whatever it is (R222, R337, R386). -/
def State.mayRetain (s : State) : Bool :=
  [0, 1].all fun slot =>
    match s.tileAt slot with
    | none => true
    | some t => (tileCtxs slot t).all fun c => (s.ctxs.get c).saved ||
        ((s.ctxs.get c).streamsDrained 255 && !(s.ctxs.get c).planes.any PlaneOp.midRound)

/-- The contexts of a slot's tile are saved; one that is asked to stop is then frozen, or leaves the core. -/
def State.retainTile (s : State) (slot : Nat) : State :=
  match s.tileAt slot with
  | none => s
  | some t =>
    let cs := tileCtxs slot t
    let s := cs.foldl (fun s c => if (s.ctxs.get c).saved then s else s.saveCtx c) s
    if t.stopping && !t.frozen then s.tileSaved slot else s.writeShared t.desc.second

/-- Entry into RET (R385, R386). The lease keeps what is left of it. -/
def State.enterRet (s : State) : State :=
  let s := ((s.retainTile 0).retainTile 1).dropRemoteWork
  { s with mgmt := { s.mgmt with power := .ret, entering := none, leaseEnd := s.mgmt.leaseEnd.map fun t => t - s.now } }

/-- A tile resumes from RET: its records, with ctxstat.resumed (R387). A frozen tile stays frozen. -/
def State.awaken (s : State) (slot : Nat) : State :=
  match s.tileAt slot with
  | none => s
  | some t =>
    if t.frozen then s else s.resume slot t 1

/-- Exit from RET to an operating state (R387). -/
def State.leaveRet (s : State) (n : Fin 7) : State :=
  let s := { s with mgmt := { s.mgmt with power := .op n, leaseEnd := s.mgmt.leaseEnd.map fun t => t + s.now } }
  (s.awaken 0).awaken 1

/-! ### Rack cap (R385) and module reset (R394, R398) -/

/-- The budget of an operating state in watts (R382). -/
def PowerState.watts : PowerState → Nat
  | .op n => [4000, 3500, 3000, 2400, 1800, 1200, 700].getD n.val 700
  | .hold => 450
  | .ret => 200
  | .off => 0

/-- The effective budget in watts: the least of the state's, the rack cap and the floor, as they are in force (R384, R385). It
changes timing only, and is what a class-0xFE record tells. -/
def State.effectiveBudget (s : State) : Nat :=
  min s.mgmt.power.watts
    (min (s.mgmt.rackCap.getD 4000) (if s.mgmt.onFloor then s.mgmt.floor else 4000))

/-- A rack cap message: one with a higher sequence number replaces the cap and starts its lease; its status (R385). -/
def State.rackMessage (s : State) (seq cap lease : Nat) : State × Nat :=
  if !s.mgmt.acceptDone then (s, 2)
  else if cap < 700 || 4000 < cap || lease < 1 || 60000 < lease then (s, 1)
  else if s.mgmt.rackSeq.any fun n => seq ≤ n then (s, 1)
  else
    let length := lease * cyclesPerMs
    let s := { s with mgmt := { s.mgmt with
      rackSeq := some seq, rackCap := some cap, onFloor := false,
      leaseEnd := some (if s.mgmt.power == PowerState.ret then length else s.now + length) } }
    (s.logEvent (LogFields.mk 0xFE 8 0 0xFF 0 s.effectiveBudget 0 0), 0)

/-- LEASE_EXPIRY: the floor budget takes force (R385). -/
def execLeaseExpiry (s : State) : Host.Outcome State Fault Refusal :=
  if (s.mgmt.leaseEnd.any fun t => t ≤ s.now) && s.mgmt.power != .ret && s.answers then
    let s := { s with mgmt := { s.mgmt with rackCap := none, leaseEnd := none, onFloor := true } }
    .next (s.logEvent (LogFields.mk 0xFE 8 0 0xFF 0 s.effectiveBudget 0 0))
  else .next s

/-- An image passes the boot ROM's test (R394). -/
def Mgmt.passes (m : Mgmt) (a : Bool) : Bool :=
  let i := if a then m.imageA else m.imageB
  i.valid && m.fuse ≤ i.version

/-- The management units after a reset: flash and fuses stay; the active image boots if it passes, else the other, else
the boot ROM halts (R393, R394, R398). -/
def Mgmt.afterReset (m : Mgmt) : Mgmt :=
  { Mgmt.reset with
    log := m.log, nextSeq := m.nextSeq, imageA := m.imageA, imageB := m.imageB, activeA := m.activeA, fuse := m.fuse,
    booted := if m.passes m.activeA == m.activeA then m.imageA else m.imageB,
    pf0Port := m.pf0Port, training := m.passes m.activeA || m.passes (!m.activeA),
    halted := !m.passes m.activeA && !m.passes (!m.activeA) }

/-- Training and the memory test end, with steps 3 and 4 of bring-up: a unit that fails gets a record, of class 0x33 for a link
and 0x31 for the others, and is left out of every partition (R398). -/
def State.trained (s : State) (failed : List (Nat × Nat)) : State :=
  if !s.mgmt.training then s
  else
    let s := failed.foldl (fun s u =>
      s.logEvent (LogFields.mk (if u.1 = 3 then 0x33 else 0x31) u.1 (u.2 % 65536) 0xFF 0 0 0 0)) s
    { s with mgmt := { s.mgmt with training := false, leftOut := failed.map fun u => (u.1, u.2 % 65536) } }

/-- MODULE_RESET: bring-up steps 1 and 2; training and the memory test run on (R398). Host and peer memory, the core's place
and the schedule are not the module's to reset (log 2). -/
def execModuleReset (s : State) : Host.Outcome State Fault Refusal :=
  .next { State.reset with
    stack := s.stack, vault := s.vault, core := s.core,
    mem := s.mem.filter fun c => 2 ^ 52 ≤ c.1 && c.1 < 2 ^ 54, mgmt := s.mgmt.afterReset, outbox := s.outbox,
    sched := s.sched, draws := s.draws }

end Sys2Proof.Machine
end

