-- ==== Sys2Proof/Machine/Mgmt.lean ====
section
/-!
DEFINITION. Mailboxes and the operations of the management processor, SPDM (R366, R367, R383, R385, R390, R394 to
R397). A slot number n names slot n mod 64 of PF0's mailbox for n below 64, of VF k's from 64 × (k + 1) on.
-/
namespace Sys2Proof.Machine

/-! ### Mailboxes (R366) -/

/-- The function whose mailbox a slot number names. -/
def slotFn (n : Nat) : Option Nat := if n < 64 then none else some (n / 64 - 1)

/-- The key of a byte of a slot. -/
def slotKey (n o : Nat) : Nat := mailKey (fnIx (slotFn n)) (64 * (n % 64) + o)

/-- The state byte of a slot. -/
def State.slotState (s : State) (n : Nat) : Nat := (s.byte (slotKey n 0)).toNat

/-- The target byte of a slot. -/
def State.slotTarget (s : State) (n : Nat) : Nat := (s.byte (slotKey n 1)).toNat

/-- The operation of a slot. -/
def State.slotOp (s : State) (n : Nat) : Nat := s.readN (slotKey n 2) 2

/-- `k` payload bytes from byte `o` of a slot. -/
def State.slotField (s : State) (n o k : Nat) : Nat := s.readN (slotKey n o) k

/-- The operations that M accepts (R390). -/
def mailOps : List Nat := [0x0001, 0x0002, 0x0003, 0x0004, 0x0010, 0x0011, 0x0020, 0x0021, 0x0030, 0x0031]

/-- M answers a slot: status in byte 8, further reply bytes, state 2, MSI-X vector 0 (R366, R367, R390). -/
def State.answerSlot (s : State) (n status : Nat) (reply : List (Nat × List Byte)) : State :=
  let s := s.setByte (slotKey n 8) (BitVec.ofNat 8 status)
  let s := reply.foldl (fun s r => s.writeBytes (slotKey n r.1) r.2) s
  let s := match slotFn n with
    | some k => s.updPart (partIx k) fun p => { p with mail := setDrop p.mail (n % 64) }
    | none => s
  (s.setByte (slotKey n 0) 2).msix (slotFn n) 0

/-- A slot in state 1 is M's to answer: all of PF0's mailbox, in another those that S does not have. One whose FWWRITE runs is
being answered (R366, R390, R394). -/
def State.toM (s : State) (n : Nat) : Bool :=
  s.slotState n == 1 && ((slotFn n).isNone || s.slotTarget n != 0) && s.mgmt.fwWriting != some n

/-- It is the turn of a slot at M: the lowest of its mailbox (R390). -/
def State.mFirst (s : State) (n : Nat) : Bool :=
  s.answers && s.fnExists (slotFn n) && s.toM n && (List.range (n % 64)).all fun i => !s.toM (n - n % 64 + i)

/-- It is the turn of a slot posted to M with an operation. -/
def State.mTurn (s : State) (n op : Nat) : Bool := s.mFirst n && s.slotTarget n == 1 && s.slotOp n == op

/-- The payload bytes beyond those that the operation's row lists are zero (R390). -/
def State.payloadOk (s : State) (n : Nat) (used : List (Nat × Nat)) : Bool :=
  (span 8 56).all fun o => used.any (fun u => u.1 ≤ o && o < u.1 + u.2) || s.byte (slotKey n o) == 0

/-- The operations that M answers before training is over (R398). -/
def earlyOps : List Nat := [0x0001, 0x0020, 0x0021, 0x0030, 0x0031]

/-- Status 2 whatever the operation says: from a halted boot ROM, and before training is over except for the operations that
bring-up step 2 answers (R394, R398). -/
def State.notYet (s : State) (op : Nat) : Bool := s.mgmt.halted || (s.mgmt.training && !earlyOps.contains op)

/-- An operation of M: `f` gives the state, the status and the reply. A non-zero zero byte is status 1 (R390). -/
def State.mailOp (s : State) (n op : Nat) (used : List (Nat × Nat)) (f : State × Nat × List (Nat × List Byte)) :
    Host.Outcome State Fault Refusal :=
  if !s.mTurn n op then .next s
  else if s.notYet op then .next (s.answerSlot n 2 [])
  else if !s.payloadOk n used then .next (s.answerSlot n 1 [])
  else .next (f.1.answerSlot n f.2.1 f.2.2)

/-- MAILBOX_POST: the device sees a slot in state 1. One for S becomes pending there; M answers a reserved target or operation
in its turn with status 1 (R366, R390). -/
def execMailboxPost (fn : Option Nat) (slot : Nat) (s : State) : Host.Outcome State Fault Refusal :=
  let n := match fn with
    | none => slot % 64
    | some k => 64 * (k % 16 + 1) + slot % 64
  if s.slotState n ≠ 1 || !s.answers || !s.fnExists (slotFn n) then .next s
  else
    let s : State := match slotFn n with
      | some k =>
        let more := s.mailUp (partIx k) || s.slotTarget n == 0
        s.updPart (partIx k) fun p => { p with mail := setAdd (n % 64) p.mail, posted := more }
      | none => s
    .next (if s.mFirst n && (s.slotTarget n != 1 || !mailOps.contains (s.slotOp n)) then
      s.answerSlot n (if s.mgmt.halted then 2 else 1) [] else s)

/-- MAILBOX_ANSWER: S has written state 2 to a slot of its partition; the device sends MSI-X vector 0 (R366). -/
def execMailboxAnswer (slot : Nat) (s : State) : Host.Outcome State Fault Refusal :=
  let p := s.corePart
  let n := slot % 64
  if (s.part p).mail.contains n && s.byte (mailKey p.val (64 * n)) = 2 then
    .next ((s.updPart p fun x => { x with mail := setDrop x.mail n }).msix (some p.val) 0)
  else .next s

/-! ### Features (R390, R396) -/

/-- FEATURES: the offered bits (R390, R396). -/
def execFeatures (slot : Nat) (s : State) : Host.Outcome State Fault Refusal :=
  s.mailOp slot 0x0001 [] (s, 0, [(16, leBytes 32 (Config.offered s.mgmt.booted.version).toNat)])

/-- ACCEPT: a subset of the offered bits, the floor budget, the port roles; once (R390, R396). -/
def execAccept (slot : Nat) (s : State) : Host.Outcome State Fault Refusal :=
  let bits := s.slotField slot 8 32
  let floor := s.slotField slot 40 2
  let offered := (Config.offered s.mgmt.booted.version).toNat
  s.mailOp slot 0x0002 [(8, 32), (40, 2), (42, 1)]
    (if s.mgmt.acceptDone then (s, 2, [])
     else if Nat.lor bits offered ≠ offered || floor < 700 || 4000 < floor then (s, 1, [])
     else
       ({ s with mgmt := { s.mgmt with
          accepted := BitVec.ofNat 256 bits, acceptDone := true, floor := floor,
          ports := BitVec.ofNat 8 (s.slotField slot 42 1) } }, 0, []))

/-! ### Partitions (R345, R397) -/

/-- What M sums over the partitions that exist. -/
def State.sumParts (s : State) (f : Part → Nat) : Nat :=
  (s.parts.toList.map fun p => if p.on then f p else 0).foldl (· + ·) 0

/-- The resources left suffice: each of the stacks has a vault, what its DRAM does not take of its chunks the partition's share
of LPDDR 6 takes, the shares of LPDDR 6 and of power fit in the module's (R3, R382, R397, R398). -/
def State.sharesFit (s : State) (ownStacks : List Nat) (chunks lp power : Nat) : Bool :=
  ownStacks.all (fun k => (s.stackVaults k).length != 0) &&
    (ownStacks.map fun k => chunks - stackChunks (s.stackVaults k).length).foldl (· + ·) 0 ≤ lp &&
    s.sumParts (·.lpShare) + lp ≤ 1048576 && s.sumParts (·.power) + power ≤ 4000

/-- A new partition: M places the save area, queue headers, mailbox and an empty root (R345, R397, log 4). -/
def State.newPart (s : State) (n : Nat) (ownStacks : List Nat) (chunks lp power : Nat) : Part :=
  let root := Config.rootPlace n % (chunks * 32) * 65536
  let rootWord : Word := BitVec.ofNat 64 (ownStacks.headD 0 * 2 ^ 48 + root)
  { Part.reset with
    on := true, ownStacks := ownStacks, chunks := chunks, lpShare := lp, power := power, ptroot := rootWord,
    liveRoot := rootWord, savebase := BitVec.ofNat 64 (n * 2 ^ 36 + (Config.savePlace n).toNat * 2 ^ 23),
    qbase := BitVec.ofNat 64 ((Config.queuePlace n).toNat * 2 ^ 13),
    mbox := BitVec.ofNat 64 ((Config.mailPlace n).toNat * 2 ^ 12),
    hostWindows := [((Config.hostWindow n).1.toNat, (Config.hostWindow n).2.toNat)],
    gchunks := BitVec.ofNat 64 (lp * 2 ^ 32 + chunks), dominfo := s.domInfo, paired := (s.part (partIx n)).paired }

/-- Memory in a range of keys reads zero. -/
def State.clearKeys (s : State) (key n : Nat) : State :=
  { s with mem := s.mem.filter fun c => c.1 < key || key + n ≤ c.1 }

/-- What the general memory of these stacks has held is forgotten: no later partition reads it (R93). -/
def State.forgetHistory (s : State) (ks : List Nat) : State :=
  let keep (l : List (Nat × Nat)) : List (Nat × Nat) := l.filter fun x => !ks.contains (2 * x.1 / 2 ^ 40)
  { s with history := keep s.history, codeNew := (keep (s.history.take s.codeNew)).length }

/-- MKPART (R390, R397). -/
def execMkpart (slot : Nat) (s : State) : Host.Outcome State Fault Refusal :=
  let n := s.slotField slot 8 1
  let ownStacks := (List.range 16).filter fun k => bitsAt (s.slotField slot 10 2) k 1 == 1
  let chunks := s.slotField slot 12 4
  let lp := s.slotField slot 16 4
  let power := s.slotField slot 20 2
  s.mailOp slot 0x0003 [(8, 1), (10, 2), (12, 4), (16, 4), (20, 2)]
    (if !s.mgmt.acceptDone then (s, 2, [])
     else if 15 < n || ownStacks.isEmpty || chunks = 0 then (s, 1, [])
     else if (s.part (partIx n)).on || ownStacks.any (fun k => (s.ownerOf k).isSome) || !s.sharesFit ownStacks chunks lp power
     then (s, 2, [])
     else
       let p := s.newPart n ownStacks chunks lp power
       (({ s.forgetHistory ownStacks with parts := s.parts.set (partIx n).val p (partIx n).isLt }.clearKeys
          (generalKey (ownStacks.headD 0) (p.ptroot.toNat % 2 ^ 40)) 65536).clearKeys (mailKey n 0) 4096, 0, []))

/-- A partition is idle: no launch of it and every queue disabled (R397). -/
def State.partIdle (s : State) (n : Nat) : Bool :=
  !(s.launches.any fun l => l.part == n) &&
    (List.range 64).all fun q => !((s.queueHead (partIx n) q).any fun h => h.enable)

/-- RMPART: its stacks, grants and regions are freed (R390, R397). -/
def execRmpart (slot : Nat) (s : State) : Host.Outcome State Fault Refusal :=
  let n := s.slotField slot 8 1
  s.mailOp slot 0x0004 [(8, 1)]
    (if 15 < n then (s, 1, [])
     else if !(s.part (partIx n)).on || !s.partIdle n then (s, 2, [])
     else
       let ownStacks := (s.part (partIx n)).ownStacks
       ({ s with parts := s.parts.set (partIx n).val Part.reset (partIx n).isLt,
                 grants := s.grants.filter fun g => g.part != n, regions := s.regions.filter fun r => r.part != n,
                 tlb := s.tlb.filter fun t => t.part != n,
                 chunks := s.chunks.filter fun c => !ownStacks.contains c.stack }, 0, []))

/-! ### Operating states (R382, R383) -/

/-- The code of a state (R382). -/
def PowerState.code : PowerState → Nat
  | .op n => n.val
  | .hold => 8
  | .ret => 9
  | .off => 15

/-- The state of a code (R382). -/
def powerOf (code : Nat) : Option PowerState :=
  if h : code < 7 then some (.op ⟨code, h⟩)
  else if code = 8 then some .hold
  else if code = 9 then some .ret
  else if code = 15 then some .off
  else none

/-- The transitions that R383 allows. -/
def State.mayGo (s : State) (target : PowerState) : Bool :=
  match s.mgmt.power, target with
  | .op _, _ => true
  | .hold, .hold => false
  | .hold, _ => true
  | .ret, .op n => s.mgmt.before == .op n
  | .ret, .off => true
  | .ret, _ => false
  | .off, _ => false

/-- A protective limit in force refuses a rise of the budget (R383, R384, log 27). -/
def State.limitRefuses (s : State) (target : PowerState) : Bool :=
  match s.mgmt.power, target with
  | .op a, .op b => b.val < a.val && (s.mgmt.limit1 || s.mgmt.clamp)
  | _, _ => false

/-- The module in another state, with its class-0x38 record (R381 to R383, R386, R387). -/
def State.goPower (s : State) (target : PowerState) : State :=
  let s := match s.mgmt.power with
    | .op n => { s with mgmt := { s.mgmt with before := .op n } }
    | _ => s
  let s := match s.mgmt.power, target with
    | .ret, .op n => s.leaveRet n
    | _, .ret => s.enterRet
    | _, t => { s with mgmt := { s.mgmt with power := t } }
  s.logEvent (LogFields.mk 0x38 9 0 0xFF 0 target.code 0 0)

/-- STATE_COMMAND: on RET no launch or throw starts and no context goes on, and RET is entered once every context stands at a
pre-emption point (R383, R386). -/
def execStateCommand (slot : Nat) (s : State) : Host.Outcome State Fault Refusal :=
  if s.mgmt.entering = some slot then .next (if s.mayRetain then (s.answerSlot slot 0 []).goPower .ret else s)
  else if !s.mTurn slot 0x0010 then .next s
  else if s.notYet 0x0010 || !s.mgmt.acceptDone then .next (s.answerSlot slot 2 [])
  else
    match powerOf (s.slotField slot 8 1) with
    | none => .next (s.answerSlot slot 1 [])
    | some target =>
      if !s.mayGo target then .next (s.answerSlot slot 2 [])
      else if s.limitRefuses target then .next (s.answerSlot slot 3 [])
      else if target = .ret && !s.mayRetain then .next { s with mgmt := { s.mgmt with entering := some slot } }
      else .next ((s.answerSlot slot 0 []).goPower target)

/-- RACK_CAP: a rack cap message by mailbox (R385): bytes 8 to 15 the number, 16 to 19 the cap, 20 to 23 the lease
(log 26). -/
def execRackCap (slot : Nat) (s : State) : Host.Outcome State Fault Refusal :=
  let r := s.rackMessage (s.slotField slot 8 8) (s.slotField slot 16 4) (s.slotField slot 20 4)
  s.mailOp slot 0x0011 [(8, 16)] (r.1, r.2, [])

/-! ### Log, sensors, firmware (R390, R391, R394) -/

/-- LOGREAD: the first 48 bytes of a record, or status 2 where it is overwritten (R390). -/
def execLogread (slot : Nat) (s : State) : Host.Outcome State Fault Refusal :=
  let seq := s.slotField slot 8 8
  s.mailOp slot 0x0020 [(8, 8)]
    (if seq = 0 || s.mgmt.nextSeq ≤ seq then (s, 1, [])
     else
       match s.mgmt.log.find? fun r => r.seq == seq with
       | some r => (s, 0, [(16, r.bytes.take 48)])
       | none => (s, 2, []))

/-- SENSORS: a reading and the cycle of its sample (R390, R391). The index takes two bytes (log 26). -/
def execSensors (slot : Nat) (s : State) : Host.Outcome State Fault Refusal :=
  let i := s.slotField slot 8 2
  let reading : Nat := ((s.mgmt.samples[i]?).getD (Config.sensorBefore i)).toNat
  s.mailOp slot 0x0021 [(8, 2)]
    (if 575 < i then (s, 1, []) else (s, 0, [(16, leBytes 8 reading), (24, leBytes 8 s.mgmt.sampledAt)]))

/-- The inactive image in flash. -/
def Mgmt.putImage (m : Mgmt) (image : FwImage) : Mgmt :=
  if m.activeA then { m with imageB := image } else { m with imageA := image }

/-- FWWRITE: the writing of the inactive image begins; until it ends another is status 3. Then it is verified: the version it
carries and whether its signature verifies are given. One that passes becomes active for the next reset (R394). -/
def execFwwrite (slot version : Nat) (sigok : Bool) (s : State) : Host.Outcome State Fault Refusal :=
  let m := s.mgmt
  if m.fwWriting = some slot then
    let done : Mgmt := { m.putImage { valid := sigok, version := version } with
      fwWriting := none, activeA := if sigok then !m.activeA else m.activeA }
    .next (if s.answers then { s with mgmt := done }.answerSlot slot (natOf (!sigok)) [] else s)
  else
    let legal := !s.notYet 0x0030 && s.payloadOk slot [(8, 8), (16, 4)] && s.slotField slot 16 4 != 0
    if s.mTurn slot 0x0030 && legal && m.fwWriting.isNone then
      .next { s with mgmt := { m.putImage { valid := false, version := 0 } with fwWriting := some slot } }
    else s.mailOp slot 0x0030 [(8, 8), (16, 4)] (s, if s.slotField slot 16 4 = 0 then 1 else 3, [])

/-- FWCOMMIT: the fuse counter rises to the running image's version (R394). -/
def execFwcommit (slot : Nat) (s : State) : Host.Outcome State Fault Refusal :=
  let fuse := max s.mgmt.fuse (min 64 s.mgmt.booted.version)
  s.mailOp slot 0x0031 [] ({ s with mgmt := { s.mgmt with fuse := fuse } }, 0, [(9, [BitVec.ofNat 8 fuse])])

/-! ### SPDM (R395) -/

/-- The module answers an SPDM request: the version and the answer's code, then the bytes that the rule fixes, then those that
depend on its keys, certificates and digests (R395; where the fixed ones stand is DMTF's, log 87). -/
def State.spdm (s : State) (version request argument : Nat) (fixed : List Byte) : Host.Outcome State Fault Refusal :=
  if s.answers then
    .next (s.send (.spdm ([BitVec.ofNat 8 version, BitVec.ofNat 8 (request - 0x80)] ++ fixed ++
      (List.range (Config.spdmLength request argument)).map fun i => Config.spdmByte request argument i)))
  else .next s

/-- GET_VERSION: one version, 1.3 (R395). -/
def execGetVersion (s : State) : Host.Outcome State Fault Refusal :=
  s.spdm 0x10 0x84 0 [0, 0, 0, 1, 0x00, 0x13]

/-- GET_CAPABILITIES (R395). -/
def execGetCapabilities (s : State) : Host.Outcome State Fault Refusal := s.spdm 0x13 0xE1 0 [0, 0]

/-- NEGOTIATE_ALGORITHMS: SHA-384 for measurements, ECDSA P-384 and SHA-384 (R395). -/
def execNegotiateAlgorithms (s : State) : Host.Outcome State Fault Refusal :=
  s.spdm 0x13 0xE3 0 ([0, 0] ++ leBytes 2 36 ++ [1, 0] ++ leBytes 4 4 ++ leBytes 4 0x80 ++ leBytes 4 2)

/-- GET_DIGESTS (R395). -/
def execGetDigests (s : State) : Host.Outcome State Fault Refusal := s.spdm 0x13 0x81 0 []

/-- GET_CERTIFICATE (R395). -/
def execGetCertificate (slot : Nat) (s : State) : Host.Outcome State Fault Refusal := s.spdm 0x13 0x82 slot []

/-- What a measurement is taken of: the running image's version for 2, the accepted features for 4 (R395). -/
def State.measured (s : State) (index : Nat) : Nat :=
  match index with
  | 2 => s.mgmt.booted.version
  | 4 => s.mgmt.accepted.toNat
  | _ => 0

/-- CHALLENGE: signed over the nonce and every measurement (R395). -/
def execChallenge (nonce : Nat) (s : State) : Host.Outcome State Fault Refusal :=
  s.spdm 0x13 0x83 (nonce * 2 ^ 320 + s.measured 4 * 2 ^ 64 + s.measured 2) []

/-- GET_MEASUREMENTS: index 4 gives the accepted set itself, zeros before ACCEPT (R395). -/
def execGetMeasurements (index : Nat) (s : State) : Host.Outcome State Fault Refusal :=
  s.spdm 0x13 0xE0 (s.measured index * 256 + index)
    (if index = 4 then [0, 0, 1] ++ leBytes 3 39 ++ [4, 1] ++ leBytes 2 35 ++ [0x83] ++ leBytes 2 32 ++ leBytes 32 (s.measured 4)
     else [0, 0])

end Sys2Proof.Machine
end

