-- ==== Sys2Proof/Machine/Trans.lean ====
section
/-!
DEFINITION. The command hardware of translation: grants, plane regions, moves of chunks, pins, access counters
(R94 to R96, R354 to R359).
-/
namespace Sys2Proof.Machine

/-! ### Commands (R354) -/

/-- A field of `n` bytes of a command record. -/
def cmdField (c : TrCmd) (off n : Nat) : Nat := leValue ((c.record.drop off).take n)

/-- The partition whose commands the model holds: the core's own (log 24). -/
def State.cmdPart (s : State) : Fin 16 := s.corePart

/-- The fields that every command has zero, and the limits of its stack and its signal address (R354). -/
def cmdClean (c : TrCmd) : Bool :=
  cmdField c 1 1 ≤ 15 && cmdField c 2 2 == 0 && cmdField c 12 4 == 0 && cmdField c 28 4 == 0 && cmdField c 48 8 % 8 == 0

/-- A command ends: trstat, then its signal word (R354). A signal that cannot be added is left. -/
def State.endCmd (s : State) (c : TrCmd) (status : Nat) : State :=
  let p := s.cmdPart
  let s := s.updPart p fun x =>
    { x with trstat := BitVec.ofNat 64 (256 * cmdField c 0 1 + status), commands := x.commands.drop 1 }
  if cmdField c 48 8 = 0 then s
  else
    match s.engineAdd p 1 (cmdField c 48 8) (cmdField c 56 8) with
    | .ok t => t
    | .error _ => s

/-- The head command runs where it has op `op`: `f` gives the state and its status, or none while it is held. A
reserved op and a broken zero field end with status 1 (R354). -/
def State.runCmd (s : State) (op : Nat) (f : TrCmd → Option (State × Nat)) : State :=
  match (if s.active then (s.part s.cmdPart).commands.head? else none) with
  | none => s
  | some c =>
    let n := cmdField c 0 1
    if n = 0 || 7 < n then s.endCmd c 1
    else if n ≠ op then s
    else if !cmdClean c then s.endCmd c 1
    else
      match f c with
      | none => s
      | some r => r.1.endCmd c r.2

/-- The stack of a command belongs to the partition. -/
def State.cmdStack (s : State) (c : TrCmd) : Bool := (s.part s.cmdPart).ownStacks.contains (cmdField c 1 1)

/-- The vaults of a mask, ascending. -/
def maskVaults (m : Nat) : List Nat := (List.range 32).filter fun v => bitsAt m v 1 == 1

/-! ### Capacity (R3, R355, R359) -/

/-- The chunks of a stack that lie in LPDDR 6: those that a move has taken there, and of the others the ones that its DRAM did
not take at partition creation (R357, R397). -/
def State.tierCount (s : State) (stack : Nat) : Nat :=
  let listed := s.chunks.filter fun c => c.stack == stack
  let beyond := (s.part ((s.ownerOf stack).getD 0)).chunks - s.firstTier stack
  (listed.filter (·.tier)).length + (beyond - (listed.filter fun c => s.firstTier stack ≤ c.chunk).length)

/-- The general chunks of a stack that lie in its DRAM. -/
def State.residentCount (s : State) (stack : Nat) : Nat :=
  let owner := (s.ownerOf stack).getD 0
  (s.part owner).chunks - s.tierCount stack

/-- The chunks of a stack that move to LPDDR 6, or with `tier` to its DRAM. -/
def State.underWay (s : State) (stack : Nat) (tier : Bool) : Nat :=
  (s.chunks.filter fun c => c.stack == stack && c.moving && c.tier == tier).length

/-- The chunks of a partition that LPDDR 6 still takes, besides those on their way there. -/
def State.tierRoom (s : State) (p : Fin 16) : Nat :=
  (s.part p).lpShare - ((s.part p).ownStacks.map fun k => s.tierCount k + s.underWay k false).foldl (· + ·) 0

/-- The move of a stack's blocks between its vaults has not reached a chunk (R355, R358). -/
def State.regrouping (s : State) (stack chunk : Nat) : Bool := s.regroups.any fun g => g.stack == stack && g.next ≤ chunk

/-- The unpinned chunks of a stack in its DRAM that take part in no move. -/
def State.movableChunks (s : State) (stack : Nat) : List Chunk :=
  let owner := (s.ownerOf stack).getD 0
  ((List.range (s.part owner).chunks).map (s.chunk stack)).filter fun c =>
    !c.tier && !c.pinned && !c.moving && !s.regrouping stack c.chunk

/-- The coldest chunk first, ties to the lower number (R359). -/
def colder (a b : Chunk) : Bool := a.counter < b.counter || (a.counter == b.counter && a.chunk ≤ b.chunk)

/-- The coldest of a list. -/
def coldest : List Chunk → Option Chunk
  | [] => none
  | c :: t =>
    match coldest t with
    | none => some c
    | some d => some (if colder c d then c else d)

/-- Chunks that have moved are counted in migstat (R359). -/
def Part.countMoved (p : Part) (n : Nat) : Part := { p with migstat := p.migstat + (BitVec.ofNat 64 n <<< 32) }

/-- A move that was abandoned is counted in migstat[31:0] alone (R358). -/
def Part.countAbandoned (p : Part) : Part :=
  { p with migstat := BitVec.ofNat 64 (slice p.migstat 32 32 * 2 ^ 32 + (slice p.migstat 0 32 + 1) % 2 ^ 32) }

/-- The `n` coldest unpinned chunks of a stack go to LPDDR 6; none where there are not enough (R355). -/
def State.evict (s : State) (stack : Nat) : Nat → Option State
  | 0 => some s
  | n + 1 =>
    match coldest (s.movableChunks stack) with
    | none => none
    | some c => (s.updChunk stack c.chunk fun c => { c with tier := true }).evict stack n

/-! ### Grants (R95, R355) -/

/-- A vault of a stack is granted. -/
def State.granted? (s : State) (p : Fin 16) (stack vault : Nat) : Bool :=
  s.grants.any fun g => g.part == p.val && g.stack == stack && g.vault == vault

/-- The period of granted vaults is set afresh. -/
def State.setPeriod (s : State) (stack : Nat) (vs : List Nat) (ends : Option Nat) : State :=
  { s with grants := s.grants.map fun g =>
      if g.stack == stack && vs.contains g.vault then { g with ends := ends, ending := false } else g }

/-- The next chunk in DRAM that a regrouping moves. -/
def State.nextRegroup (s : State) (g : Regroup) : Option Nat :=
  (span g.next ((s.part (partIx g.part)).chunks - g.next)).find? fun n => !(s.chunk g.stack n).tier

/-- A regrouping goes on with the chunks from `next` on: with none left, the vaults of a grant are set aside, and a command
that waits for it ends (R355). -/
def State.regroup (s : State) (g : Regroup) (next : Nat) : State :=
  let g' := { g with next := next }
  let s := { s with regroups := s.regroups.filter (· != g) }
  if (s.nextRegroup g').isSome then { s with regroups := s.regroups ++ [g'] }
  else
    let p := partIx g.part
    let s : State := match g.aside with
      | some (vs, ends) => { s with grants := s.grants ++ vs.map fun v =>
          { part := p.val, stack := g.stack, vault := v, ends := ends, ending := false } }
      | none => s
    match (if g.commanded && p == s.cmdPart then (s.part p).commands.head? else none) with
    | some c => s.endCmd c 0
    | none => s

/-- The head command's own regrouping is under way. -/
def State.regroupHeld (s : State) : Bool := s.regroups.any fun g => g.commanded && g.part == s.cmdPart.val

/-- GRANT sets vaults aside, if what is left of the stack, with LPDDR 6, holds its chunks: the chunks beyond that go to
LPDDR 6, then the blocks of the others move chunk by chunk (R355). -/
def State.grantVaults (s : State) (c : TrCmd) : Option (State × Nat) :=
  let p := s.cmdPart
  let stack := cmdField c 1 1
  let period := cmdField c 4 4
  let ends := if period = 0 then none else some (s.now + period * 1050000)
  let vs := maskVaults (cmdField c 8 4)
  let new := vs.filter fun v => !s.granted? p stack v
  if !s.cmdStack c || !vs.all (s.stackVaults stack).contains then some (s, 4)
  else if new.isEmpty then some (s.setPeriod stack vs ends, 0)
  else
    let room := stackChunks ((s.interleave stack).length - new.length)
    let need := s.residentCount stack - room
    match (if need ≤ s.tierRoom p then s.evict stack need else none) with
    | none => some (s, 2)
    | some t =>
      let t := (t.updPart p fun x => x.countMoved need).setPeriod stack vs ends
      let g : Regroup := { part := p.val, stack := stack, aside := some (new, ends), next := 0, commanded := false }
      if (t.nextRegroup g).isSome then some ({ t with regroups := t.regroups ++ [{ g with commanded := true }] }, 0)
      else some (t.regroup g 0, 0)

/-- A GRANT or ENDGRANT that has begun to move chunks is held until they have moved (R355). -/
def State.runRegroup (s : State) (op : Nat) (f : TrCmd → Option (State × Nat)) : State :=
  if s.regroupHeld then s
  else
    match (s.part s.cmdPart).commands.head? with
    | some c =>
      match (if s.active && cmdField c 0 1 == op && cmdClean c then f c else none) with
      | some r => if r.1.regroupHeld then r.1 else s.runCmd op f
      | none => s.runCmd op f
    | none => s

/-- GRANT (R355). -/
def execGrantVaults (s : State) : Host.Outcome State Fault Refusal := .next (s.runRegroup 1 s.grantVaults)

/-- No queued plane instruction and no bank lock of this core uses a region, those of saved contexts among them (R117,
R222). -/
def State.regionIdle (s : State) (handle : Nat) : Bool :=
  (s.ctxs.toList ++ s.savedCtxs).all fun x =>
    !(x.planes.any fun o => o.region == handle) && !(x.lock.any fun l => l.region == handle)

/-- An access to a place that a test names is still to be performed: a store that others do not see yet, a delivered
element of a store stream, an element of a started strip (R95). -/
def State.accessLeft (s : State) (hit : Nat → Bool) : Bool :=
  s.pending.any (fun e => hit e.key) ||
    (List.range 12).any (fun n => (s.ctxs.get (ctxIx n)).sq.toList.any fun q => q.any fun q =>
      q.deliveries.any fun d => (s.peekKey (ctxIx n) (q.addr d.element).toNat).any hit) ||
    s.wm.toList.any fun w => w.any fun w =>
      w.role == .channel && !w.settled &&
        (span w.filled (min w.count (min (w.ended + 2) w.strips * w.stripLen) - w.filled)).any fun e =>
          (s.peekKey (ctxIx w.owner) (w.base + e * w.esz)).any hit

/-- A place is a row of these vaults of a stack. -/
def rowsIn (stack : Nat) (vs : List Nat) (k : Nat) : Bool :=
  let b := bankOf ((k - 2 ^ 60) / 1024 / 1040)
  decide (2 ^ 60 ≤ k) && b.1 == stack && vs.contains b.2.1

/-- The regions with a vault of a set. -/
def State.regionsIn (s : State) (stack : Nat) (vs : List Nat) : List PlaneRegion :=
  s.regions.filter fun r => r.stack == stack && r.vaults.any fun v => vs.contains v

/-- A grant ends whole: its regions are freed, its vaults return to the interleave table (R95, R355). -/
def State.endGrants (s : State) (stack : Nat) (vs : List Nat) : State :=
  let rs := s.regionsIn stack vs
  { s with regions := s.regions.filter fun r => !rs.contains r,
           grants := s.grants.filter fun g => !(g.stack == stack && vs.contains g.vault) }

/-- Everything in granted vaults has drained (R95). -/
def State.drained (s : State) (stack : Nat) (vs : List Nat) : Bool :=
  ((s.regionsIn stack vs).all fun r => s.regionIdle r.handle) && !s.accessLeft (rowsIn stack vs)

/-- A grant ends, and the blocks of the stack's chunks move back over its vaults, chunk by chunk (R355). -/
def State.takeBack (s : State) (p stack : Nat) (vs : List Nat) (commanded : Bool) : State :=
  let s := s.endGrants stack vs
  let g : Regroup := { part := p, stack := stack, aside := none, next := 0, commanded := commanded }
  if (s.nextRegroup g).isSome then { s with regroups := s.regroups ++ [g] } else s

/-- ENDGRANT (R355). -/
def execEndGrant (s : State) : Host.Outcome State Fault Refusal :=
  .next (s.runRegroup 2 fun c =>
    let stack := cmdField c 1 1
    let vs := maskVaults (cmdField c 8 4)
    if !s.cmdStack c || !vs.all (s.granted? s.cmdPart stack) then some (s, 4)
    else if s.drained stack vs && !s.regrouping stack (2 ^ 63) then
      some (if vs.isEmpty then s else s.takeBack s.cmdPart.val stack vs true, 0)
    else none)

/-- GRANT_PERIOD_EXPIRY: vaults of a stack whose period has passed with this one end together (R355). -/
def execGrantPeriodExpiry (stack vault : Nat) (s : State) : Host.Outcome State Fault Refusal :=
  let due (g : Grant) : Bool := g.stack == stack && g.ends.any (· ≤ s.now)
  if !(s.grants.any fun g => due g && g.vault == vault) || !s.active then .next s
  else
    let vs := (s.grants.filter due).map (·.vault)
    let p := ((s.ownerOf stack).getD 0).val
    .next (if s.drained stack vs && !s.regrouping stack (2 ^ 63) then s.takeBack p stack vs false
      else { s with grants := s.grants.map fun g => if due g then { g with ending := true } else g })

/-! ### Plane regions (R96, R356) -/

/-- Two regions share a slot. -/
def regionsMeet (a b : PlaneRegion) : Bool :=
  a.stack == b.stack && a.vaults.any (b.vaults.contains ·) && a.banks.any (b.banks.contains ·) &&
    rangesApart a.slot0 a.slots b.slot0 b.slots == false
where
  /-- Two runs of slots share none. -/
  rangesApart (a n b m : Nat) : Bool := a + n ≤ b || b + m ≤ a

/-- A handle that no region has (R356). -/
def State.freeHandle (s : State) : Option Nat :=
  ((List.range 65535).map fun i => (s.nextHandle + i - 1) % 65535 + 1).find? fun h => !s.regions.any (·.handle == h)

/-- MKREGION (R356). A mask without a vault or a bank makes no region: status 1 (log 24). -/
def State.makeRegion (s : State) (c : TrCmd) : Option (State × Nat) :=
  let p := s.cmdPart
  let stack := cmdField c 1 1
  let vs := maskVaults (cmdField c 8 4)
  let bits := cmdField c 16 8
  let bs := (List.range 48).filter fun b => bitsAt bits b 1 == 1
  let first := cmdField c 24 1
  let ns := cmdField c 25 1
  if 2 ^ 48 ≤ bits || ns = 0 || 32 < ns || 31 < first + ns - 1 || vs.isEmpty || bs.isEmpty || cmdField c 40 8 % 8 ≠ 0
  then some (s, 1)
  else if !s.cmdStack c || !vs.all (s.granted? p stack) then some (s, 4)
  else
    match s.freeHandle with
    | none => some (s, 2)
    | some h =>
      let r : PlaneRegion := PlaneRegion.mk h p.val stack vs bs first ns
      if s.regions.any (regionsMeet r) then some (s, 2)
      else
        let t := { s with regions := s.regions ++ [r], nextHandle := h + 1 }
        let a := cmdField c 40 8
        some (if a = 0 then t
          else
            match t.engineWrite p 1 a 8 h with
            | .ok u => u
            | .error _ => t, 0)

/-- MKREGION (R356). -/
def execMkRegion (s : State) : Host.Outcome State Fault Refusal := .next (s.runCmd 3 s.makeRegion)

/-- FREEREGION: held until nothing uses the region (R356). -/
def execFreeRegion (s : State) : Host.Outcome State Fault Refusal :=
  .next (s.runCmd 4 fun c =>
    let h := cmdField c 26 2
    if (s.region? s.cmdPart h).isNone then some (s, 4)
    else if s.regionIdle h then some ({ s with regions := s.regions.filter fun r => r.handle != h }, 0) else none)

/-! ### Moves (R357 to R359) -/

/-- The chunk number of a command; bit 63 is a MOVE's target (R354). -/
def cmdNumber (c : TrCmd) : Nat := if cmdField c 0 1 = 5 then cmdField c 32 8 % 2 ^ 63 else cmdField c 32 8

/-- The chunk of a command lies in the partition. -/
def State.cmdChunk (s : State) (c : TrCmd) : Bool := s.cmdStack c && cmdNumber c < (s.part s.cmdPart).chunks

/-- A stack's DRAM has a free slot for a chunk. -/
def State.stackRoom (s : State) (stack : Nat) : Bool :=
  let aside := ((s.regroups.filter (·.stack == stack)).map fun g => (g.aside.map (·.1.length)).getD 0).foldl (· + ·) 0
  s.residentCount stack + s.underWay stack true < stackChunks ((s.interleave stack).length - aside)

/-- The copy of a chunk begins, by a command or automatically (R357, R359). -/
def State.startMove (s : State) (stack chunk : Nat) (commanded : Bool) : State :=
  s.updChunk stack chunk fun c => { c with moving := true, copies := 1, commanded := commanded, blocks := [] }

/-- The MOVE that a chunk's move belongs to: the head of the queue. -/
def State.movingCmd (s : State) (stack chunk : Nat) : Option TrCmd :=
  if (s.chunk stack chunk).commanded then (s.part s.cmdPart).commands.head? else none

/-- MOVE: the copy of the chunk begins; MIGRATION_SWITCH ends the command (R354, R357). -/
def execMoveChunk (s : State) : Host.Outcome State Fault Refusal :=
  match (if s.active then (s.part s.cmdPart).commands.head? else none) with
  | none => .next s
  | some c =>
    let stack := cmdField c 1 1
    let n := cmdField c 32 8 % 2 ^ 63
    let tier := bitsAt (cmdField c 32 8) 63 1 == 1
    let x := s.chunk stack n
    if cmdField c 0 1 = 5 && cmdClean c && s.cmdChunk c && !x.moving && !x.pinned && !s.regrouping stack n &&
        x.tier != tier &&
        (if tier then 0 < s.tierRoom s.cmdPart else s.stackRoom stack)
    then .next (s.startMove stack n true)
    else
      .next (s.runCmd 5 fun _ =>
        if !s.cmdChunk c then some (s, 4)
        else if x.moving && x.commanded then none
        else if x.moving || x.pinned || s.regrouping stack n || x.tier == tier then some (s, 3)
        else some (s, 2))

/-- MIGRATION_SWITCH: a copy has ended: by the blocks written meanwhile the residence switches, or the engine copies
again, or abandons the move after three copies (R357, R358). A chunk whose blocks a grant moves switches (R355).
`others` counts the blocks that only cores which are not run here have written (log 3). -/
def execMigrationSwitch (stack chunk others : Nat) (s : State) : Host.Outcome State Fault Refusal :=
  let c := s.chunk stack chunk
  let recorded := c.blocks.length + others
  if !s.active then .next s
  else if !c.moving then
    .next (match s.regroups.find? fun g => g.stack == stack && s.nextRegroup g == some chunk with
      | some g => s.regroup g (chunk + 1)
      | none => s)
  else
    let p := (s.ownerOf stack).getD 0
    let cmd := s.movingCmd stack chunk
    let finish (s : State) (status : Nat) : State :=
      match cmd with
      | some k => s.endCmd k status
      | none => s
    if recorded ≤ 256 then
      let s := s.updChunk stack chunk fun c =>
        { c with tier := !c.tier, moving := false, copies := 0, commanded := false, blocks := [] }
      .next (finish (s.updPart p fun x => x.countMoved 1) 0)
    else if c.copies < 3 then .next (s.updChunk stack chunk fun c => { c with copies := c.copies + 1, blocks := [] })
    else
      let s := s.updChunk stack chunk fun c =>
        { c with moving := false, copies := 0, commanded := false, blocks := [] }
      .next (finish (s.updPart p Part.countAbandoned) 5)

/-- PIN (R359). -/
def execPinChunk (s : State) : Host.Outcome State Fault Refusal :=
  .next (s.runCmd 6 fun c =>
    if s.cmdChunk c then
      some (s.updChunk (cmdField c 1 1) (cmdNumber c) fun x => { x with pinned := true }, 0)
    else some (s, 4))

/-- UNPIN (R359). -/
def execUnpinChunk (s : State) : Host.Outcome State Fault Refusal :=
  .next (s.runCmd 7 fun c =>
    if s.cmdChunk c then
      some (s.updChunk (cmdField c 1 1) (cmdNumber c) fun x => { x with pinned := false }, 0)
    else some (s, 4))

/-- ACCESS_COUNTER_HALVING: each time migctl.ep milliseconds have passed the counters of the partition's chunks
halve (R359). -/
def execAccessCounterHalving (s : State) : Host.Outcome State Fault Refusal :=
  let p := s.corePart
  let x := s.part p
  let ep := slice x.migctl 32 10
  if ep = 0 || s.now < x.halvedAt + ep * 1050000 then .next s
  else
    .next ({ s with chunks := s.chunks.map fun (c : Chunk) =>
        if x.ownStacks.contains c.stack then { c with counter := c.counter / 2 } else c }.updPart p fun x =>
      { x with halvedAt := x.halvedAt + ep * 1050000 })

/-- AUTOMATIC_MOVE: a hot chunk of LPDDR 6 moves to stack DRAM, or swaps with the coldest unpinned chunk there
(R359). -/
def execAutomaticMove (stack chunk : Nat) (s : State) : Host.Outcome State Fault Refusal :=
  let m := (s.part ((s.ownerOf stack).getD 0)).migctl
  let c := s.chunk stack chunk
  if slice m 0 2 ≠ 1 || !c.tier || c.pinned || c.moving || s.regrouping stack chunk || c.counter < slice m 16 16 || !s.active then .next s
  else if s.stackRoom stack then .next (s.startMove stack chunk false)
  else
    match coldest (s.movableChunks stack) with
    | some d =>
      if d.counter < 4 * slice m 2 14 then .next ((s.startMove stack chunk false).startMove stack d.chunk false) else .next s
    | none => .next s

end Sys2Proof.Machine
end

