-- ==== Sys2Proof/Machine/Dispatch.lean ====
section
/-!
DEFINITION. One arm per instruction and event: a direct call of its meaning, or a rejection by name.
-/
namespace Sys2Proof.Machine

def exec (i : Instr) (s : State) : Host.Outcome State Fault Refusal :=
  match i with
  | .add d a b => Sys2Proof.Machine.execAdd d a b s
  | .sub d a b => Sys2Proof.Machine.execSub d a b s
  | .and d a b => Sys2Proof.Machine.execAnd d a b s
  | .or d a b => Sys2Proof.Machine.execOr d a b s
  | .xor d a b => Sys2Proof.Machine.execXor d a b s
  | .sll d a b => Sys2Proof.Machine.execSll d a b s
  | .srl d a b => Sys2Proof.Machine.execSrl d a b s
  | .sra d a b => Sys2Proof.Machine.execSra d a b s
  | .slt d a b => Sys2Proof.Machine.execSlt d a b s
  | .sltu d a b => Sys2Proof.Machine.execSltu d a b s
  | .min d a b => Sys2Proof.Machine.execMin d a b s
  | .max d a b => Sys2Proof.Machine.execMax d a b s
  | .minu d a b => Sys2Proof.Machine.execMinu d a b s
  | .maxu d a b => Sys2Proof.Machine.execMaxu d a b s
  | .andn d a b => Sys2Proof.Machine.execAndn d a b s
  | .orn d a b => Sys2Proof.Machine.execOrn d a b s
  | .mul d a b => Sys2Proof.Machine.execMul d a b s
  | .mulh d a b => Sys2Proof.Machine.execMulh d a b s
  | .mulhu d a b => Sys2Proof.Machine.execMulhu d a b s
  | .mulhsu d a b => Sys2Proof.Machine.execMulhsu d a b s
  | .div d a b => Sys2Proof.Machine.execDiv d a b s
  | .divu d a b => Sys2Proof.Machine.execDivu d a b s
  | .rem d a b => Sys2Proof.Machine.execRem d a b s
  | .remu d a b => Sys2Proof.Machine.execRemu d a b s
  | .clz d a => Sys2Proof.Machine.execClz d a s
  | .ctz d a => Sys2Proof.Machine.execCtz d a s
  | .popc d a => Sys2Proof.Machine.execPopc d a s
  | .rol d a b => Sys2Proof.Machine.execRol d a b s
  | .ror d a b => Sys2Proof.Machine.execRor d a b s
  | .addi d a im => Sys2Proof.Machine.execAddi d a im s
  | .andi d a im => Sys2Proof.Machine.execAndi d a im s
  | .ori d a im => Sys2Proof.Machine.execOri d a im s
  | .xori d a im => Sys2Proof.Machine.execXori d a im s
  | .slti d a im => Sys2Proof.Machine.execSlti d a im s
  | .slli d a h => Sys2Proof.Machine.execSlli d a h s
  | .srli d a h => Sys2Proof.Machine.execSrli d a h s
  | .srai d a h => Sys2Proof.Machine.execSrai d a h s
  | .lih d im => Sys2Proof.Machine.execLih d im s
  | .addpc d im => Sys2Proof.Machine.execAddpc d im s
  | .lb d a im => Sys2Proof.Machine.execLb d a im s
  | .lbu d a im => Sys2Proof.Machine.execLbu d a im s
  | .lh d a im => Sys2Proof.Machine.execLh d a im s
  | .lhu d a im => Sys2Proof.Machine.execLhu d a im s
  | .lw d a im => Sys2Proof.Machine.execLw d a im s
  | .lwu d a im => Sys2Proof.Machine.execLwu d a im s
  | .ld d a im => Sys2Proof.Machine.execLd d a im s
  | .lq d a im => Sys2Proof.Machine.execLq d a im s
  | .sb a b im => Sys2Proof.Machine.execSb a b im s
  | .sh a b im => Sys2Proof.Machine.execSh a b im s
  | .sw a b im => Sys2Proof.Machine.execSw a b im s
  | .sd a b im => Sys2Proof.Machine.execSd a b im s
  | .sq a b im => Sys2Proof.Machine.execSq a b im s
  | .beq a b im => Sys2Proof.Machine.execBeq a b im s
  | .bne a b im => Sys2Proof.Machine.execBne a b im s
  | .blt a b im => Sys2Proof.Machine.execBlt a b im s
  | .bge a b im => Sys2Proof.Machine.execBge a b im s
  | .bltu a b im => Sys2Proof.Machine.execBltu a b im s
  | .bgeu a b im => Sys2Proof.Machine.execBgeu a b im s
  | .jal d f => Sys2Proof.Machine.execJal d f s
  | .jalr d a im => Sys2Proof.Machine.execJalr d a im s
  | .vloop d im => Sys2Proof.Machine.execVloop d im s
  | .fadd d a b r t => Sys2Proof.Machine.execFadd d a b r t s
  | .fsub d a b r t => Sys2Proof.Machine.execFsub d a b r t s
  | .fmul d a b r t => Sys2Proof.Machine.execFmul d a b r t s
  | .fdiv d a b r t => Sys2Proof.Machine.execFdiv d a b r t s
  | .fsqrt d a r t => Sys2Proof.Machine.execFsqrt d a r t s
  | .fmin d a b t => Sys2Proof.Machine.execFmin d a b t s
  | .fmax d a b t => Sys2Proof.Machine.execFmax d a b t s
  | .fmac d a b r t => Sys2Proof.Machine.execFmac d a b r t s
  | .fnmac d a b r t => Sys2Proof.Machine.execFnmac d a b r t s
  | .fsgnj d a b t => Sys2Proof.Machine.execFsgnj d a b t s
  | .fsgnjn d a b t => Sys2Proof.Machine.execFsgnjn d a b t s
  | .fsgnjx d a b t => Sys2Proof.Machine.execFsgnjx d a b t s
  | .feq d a b t => Sys2Proof.Machine.execFeq d a b t s
  | .flt d a b t => Sys2Proof.Machine.execFlt d a b t s
  | .fle d a b t => Sys2Proof.Machine.execFle d a b t s
  | .fclass d a t => Sys2Proof.Machine.execFclass d a t s
  | .fcvtfs d a r t => Sys2Proof.Machine.execFcvtfs d a r t s
  | .fcvtfu d a r t => Sys2Proof.Machine.execFcvtfu d a r t s
  | .fcvtsf d a r t => Sys2Proof.Machine.execFcvtsf d a r t s
  | .fcvtuf d a r t => Sys2Proof.Machine.execFcvtuf d a r t s
  | .fcvtff d a sc r t => Sys2Proof.Machine.execFcvtff d a sc r t s
  | .csrrw d a c => Sys2Proof.Machine.execCsrrw d a c s
  | .csrrs d a c => Sys2Proof.Machine.execCsrrs d a c s
  | .csrrc d a c => Sys2Proof.Machine.execCsrrc d a c s
  | .csrrwi d u c => Sys2Proof.Machine.execCsrrwi d u c s
  | .csrrsi d u c => Sys2Proof.Machine.execCsrrsi d u c s
  | .csrrci d u c => Sys2Proof.Machine.execCsrrci d u c s
  | .lda d a sc z => Sys2Proof.Machine.execLda d a sc z s
  | .stl a b sc z => Sys2Proof.Machine.execStl a b sc z s
  | .swap d a b q e sc z => Sys2Proof.Machine.execSwap d a b q e sc z s
  | .cas d a b q e sc z => Sys2Proof.Machine.execCas d a b q e sc z s
  | .aadd d a b q e sc z => Sys2Proof.Machine.execAadd d a b q e sc z s
  | .aand d a b q e sc z => Sys2Proof.Machine.execAand d a b q e sc z s
  | .aor d a b q e sc z => Sys2Proof.Machine.execAor d a b q e sc z s
  | .axor d a b q e sc z => Sys2Proof.Machine.execAxor d a b q e sc z s
  | .amin d a b q e sc z => Sys2Proof.Machine.execAmin d a b q e sc z s
  | .amax d a b q e sc z => Sys2Proof.Machine.execAmax d a b q e sc z s
  | .aminu d a b q e sc z => Sys2Proof.Machine.execAminu d a b q e sc z s
  | .amaxu d a b q e sc z => Sys2Proof.Machine.execAmaxu d a b q e sc z s
  | .fence p sc c => Sys2Proof.Machine.execFence p sc c s
  | .sbar m => Sys2Proof.Machine.execSbar m s
  | .svc c => Sys2Proof.Machine.execSvc c s
  | .brk c => Sys2Proof.Machine.execBrk c s
  | .uret => Sys2Proof.Machine.execUret s
  | .pmark => Sys2Proof.Machine.execPmark s
  | .phase a => Sys2Proof.Machine.execPhase a s
  | .sret => Sys2Proof.Machine.execSret s
  | .wfi => Sys2Proof.Machine.execWfi s
  | .tlbinv a => Sys2Proof.Machine.execTlbinv a s
  | .tlbinva => Sys2Proof.Machine.execTlbinva s
  | .ctxsv d a => Sys2Proof.Machine.execCtxsv d a s
  | .ctxld d a => Sys2Proof.Machine.execCtxld d a s
  | .lnset d a => Sys2Proof.Machine.execLnset d a s
  | .freeze d a => Sys2Proof.Machine.execFreeze d a s
  | .ipi a => Sys2Proof.Machine.execIpi a s
  | .mret => Sys2Proof.Machine.execMret s
  | .creset a => Sys2Proof.Machine.execCreset a s
  | .mcrec d a => Sys2Proof.Machine.execMcrec d a s
  | .vsetl d a t => Sys2Proof.Machine.execVsetl d a t s
  | .vretag d a f w => Sys2Proof.Machine.execVretag d a f w s
  | .vaddVv d a b k => Sys2Proof.Machine.execVaddVv d a b k s
  | .vaddVx d a b k => Sys2Proof.Machine.execVaddVx d a b k s
  | .vaddVi d a im k => Sys2Proof.Machine.execVaddVi d a im k s
  | .vsubVv d a b k => Sys2Proof.Machine.execVsubVv d a b k s
  | .vsubVx d a b k => Sys2Proof.Machine.execVsubVx d a b k s
  | .vrsubVx d a b k => Sys2Proof.Machine.execVrsubVx d a b k s
  | .vrsubVi d a im k => Sys2Proof.Machine.execVrsubVi d a im k s
  | .vmulVv d a b k => Sys2Proof.Machine.execVmulVv d a b k s
  | .vmulVx d a b k => Sys2Proof.Machine.execVmulVx d a b k s
  | .vmulhVv d a b k => Sys2Proof.Machine.execVmulhVv d a b k s
  | .vmulhVx d a b k => Sys2Proof.Machine.execVmulhVx d a b k s
  | .vdivVv d a b k => Sys2Proof.Machine.execVdivVv d a b k s
  | .vdivVx d a b k => Sys2Proof.Machine.execVdivVx d a b k s
  | .vremVv d a b k => Sys2Proof.Machine.execVremVv d a b k s
  | .vremVx d a b k => Sys2Proof.Machine.execVremVx d a b k s
  | .vminVv d a b k => Sys2Proof.Machine.execVminVv d a b k s
  | .vminVx d a b k => Sys2Proof.Machine.execVminVx d a b k s
  | .vmaxVv d a b k => Sys2Proof.Machine.execVmaxVv d a b k s
  | .vmaxVx d a b k => Sys2Proof.Machine.execVmaxVx d a b k s
  | .vandVv d a b k => Sys2Proof.Machine.execVandVv d a b k s
  | .vandVx d a b k => Sys2Proof.Machine.execVandVx d a b k s
  | .vandVi d a im k => Sys2Proof.Machine.execVandVi d a im k s
  | .vorVv d a b k => Sys2Proof.Machine.execVorVv d a b k s
  | .vorVx d a b k => Sys2Proof.Machine.execVorVx d a b k s
  | .vorVi d a im k => Sys2Proof.Machine.execVorVi d a im k s
  | .vxorVv d a b k => Sys2Proof.Machine.execVxorVv d a b k s
  | .vxorVx d a b k => Sys2Proof.Machine.execVxorVx d a b k s
  | .vxorVi d a im k => Sys2Proof.Machine.execVxorVi d a im k s
  | .vsllVv d a b k => Sys2Proof.Machine.execVsllVv d a b k s
  | .vsllVx d a b k => Sys2Proof.Machine.execVsllVx d a b k s
  | .vsllVi d a im k => Sys2Proof.Machine.execVsllVi d a im k s
  | .vsrlVv d a b k => Sys2Proof.Machine.execVsrlVv d a b k s
  | .vsrlVx d a b k => Sys2Proof.Machine.execVsrlVx d a b k s
  | .vsrlVi d a im k => Sys2Proof.Machine.execVsrlVi d a im k s
  | .vsraVv d a b k => Sys2Proof.Machine.execVsraVv d a b k s
  | .vsraVx d a b k => Sys2Proof.Machine.execVsraVx d a b k s
  | .vsraVi d a im k => Sys2Proof.Machine.execVsraVi d a im k s
  | .vsaddVv d a b k => Sys2Proof.Machine.execVsaddVv d a b k s
  | .vsaddVx d a b k => Sys2Proof.Machine.execVsaddVx d a b k s
  | .vsaddVi d a im k => Sys2Proof.Machine.execVsaddVi d a im k s
  | .vssubVv d a b k => Sys2Proof.Machine.execVssubVv d a b k s
  | .vssubVx d a b k => Sys2Proof.Machine.execVssubVx d a b k s
  | .vavgVv d a b k => Sys2Proof.Machine.execVavgVv d a b k s
  | .vavgVx d a b k => Sys2Proof.Machine.execVavgVx d a b k s
  | .vsmulVv d a b k => Sys2Proof.Machine.execVsmulVv d a b k s
  | .vsmulVx d a b k => Sys2Proof.Machine.execVsmulVx d a b k s
  | .vsgnjVv d a b k => Sys2Proof.Machine.execVsgnjVv d a b k s
  | .vsgnjVx d a b k => Sys2Proof.Machine.execVsgnjVx d a b k s
  | .vsgnjnVv d a b k => Sys2Proof.Machine.execVsgnjnVv d a b k s
  | .vsgnjnVx d a b k => Sys2Proof.Machine.execVsgnjnVx d a b k s
  | .vsgnjxVv d a b k => Sys2Proof.Machine.execVsgnjxVv d a b k s
  | .vsgnjxVx d a b k => Sys2Proof.Machine.execVsgnjxVx d a b k s
  | .vmergeVv d a b k => Sys2Proof.Machine.execVmergeVv d a b k s
  | .vmergeVx d a b k => Sys2Proof.Machine.execVmergeVx d a b k s
  | .vmergeVi d a im k => Sys2Proof.Machine.execVmergeVi d a im k s
  | .vmvVv d b k => Sys2Proof.Machine.execVmvVv d b k s
  | .vmvVx d b k => Sys2Proof.Machine.execVmvVx d b k s
  | .vmvVi d im k => Sys2Proof.Machine.execVmvVi d im k s
  | .vsatVi d a im k => Sys2Proof.Machine.execVsatVi d a im k s
  | .vbsclVv d a b k => Sys2Proof.Machine.execVbsclVv d a b k s
  | .vaddPVv d a b => Sys2Proof.Machine.execVaddPVv d a b s
  | .vaddPVx d a b => Sys2Proof.Machine.execVaddPVx d a b s
  | .vsubPVv d a b => Sys2Proof.Machine.execVsubPVv d a b s
  | .vrsubPVi d a im => Sys2Proof.Machine.execVrsubPVi d a im s
  | .vmulPVv d a b => Sys2Proof.Machine.execVmulPVv d a b s
  | .vmulPVx d a b => Sys2Proof.Machine.execVmulPVx d a b s
  | .vminPVv d a b => Sys2Proof.Machine.execVminPVv d a b s
  | .vmaxPVv d a b => Sys2Proof.Machine.execVmaxPVv d a b s
  | .vandPVv d a b => Sys2Proof.Machine.execVandPVv d a b s
  | .vorPVv d a b => Sys2Proof.Machine.execVorPVv d a b s
  | .vxorPVv d a b => Sys2Proof.Machine.execVxorPVv d a b s
  | .vxorPVi d a im => Sys2Proof.Machine.execVxorPVi d a im s
  | .vsllPVi d a im => Sys2Proof.Machine.execVsllPVi d a im s
  | .vsrlPVi d a im => Sys2Proof.Machine.execVsrlPVi d a im s
  | .vsraPVi d a im => Sys2Proof.Machine.execVsraPVi d a im s
  | .vsaddPVv d a b => Sys2Proof.Machine.execVsaddPVv d a b s
  | .vssubPVv d a b => Sys2Proof.Machine.execVssubPVv d a b s
  | .vmergePVv d a b => Sys2Proof.Machine.execVmergePVv d a b s
  | .vsatPVi d a im => Sys2Proof.Machine.execVsatPVi d a im s
  | .vmacc d a b k => Sys2Proof.Machine.execVmacc d a b k s
  | .vnmsac d a b k => Sys2Proof.Machine.execVnmsac d a b k s
  | .vmadd d a b k => Sys2Proof.Machine.execVmadd d a b k s
  | .vnmsub d a b k => Sys2Proof.Machine.execVnmsub d a b k s
  | .vwmacc d a b k => Sys2Proof.Machine.execVwmacc d a b k s
  | .vwmul d a b k => Sys2Proof.Machine.execVwmul d a b k s
  | .vwadd d a b k => Sys2Proof.Machine.execVwadd d a b k s
  | .vwsub d a b k => Sys2Proof.Machine.execVwsub d a b k s
  | .vqmacc d a b k => Sys2Proof.Machine.execVqmacc d a b k s
  | .vsqrt d r b k => Sys2Proof.Machine.execVsqrt d r b k s
  | .vrsqrt d r b k => Sys2Proof.Machine.execVrsqrt d r b k s
  | .vrcp d r b k => Sys2Proof.Machine.execVrcp d r b k s
  | .vexp2 d r b k => Sys2Proof.Machine.execVexp2 d r b k s
  | .vlog2 d r b k => Sys2Proof.Machine.execVlog2 d r b k s
  | .vtanh d r b k => Sys2Proof.Machine.execVtanh d r b k s
  | .vsigm d r b k => Sys2Proof.Machine.execVsigm d r b k s
  | .vclass d b k => Sys2Proof.Machine.execVclass d b k s
  | .vcvt d r b k => Sys2Proof.Machine.execVcvt d r b k s
  | .vwcvt d r b k => Sys2Proof.Machine.execVwcvt d r b k s
  | .vncvt d r b k => Sys2Proof.Machine.execVncvt d r b k s
  | .vsext d b k => Sys2Proof.Machine.execVsext d b k s
  | .vzext d b k => Sys2Proof.Machine.execVzext d b k s
  | .vnclip d b k => Sys2Proof.Machine.execVnclip d b k s
  | .vsextP d b => Sys2Proof.Machine.execVsextP d b s
  | .vzextP d b => Sys2Proof.Machine.execVzextP d b s
  | .vnclipP d b => Sys2Proof.Machine.execVnclipP d b s
  | .vgather d a b k => Sys2Proof.Machine.execVgather d a b k s
  | .vslideup d a b k => Sys2Proof.Machine.execVslideup d a b k s
  | .vslidedn d a b k => Sys2Proof.Machine.execVslidedn d a b k s
  | .vcompress d a k => Sys2Proof.Machine.execVcompress d a k s
  | .vrev d a k => Sys2Proof.Machine.execVrev d a k s
  | .vbcast d a b k => Sys2Proof.Machine.execVbcast d a b k s
  | .vextr d a b => Sys2Proof.Machine.execVextr d a b s
  | .vinsr d a b k => Sys2Proof.Machine.execVinsr d a b k s
  | .vzip d a b k => Sys2Proof.Machine.execVzip d a b k s
  | .vunzip d a b k => Sys2Proof.Machine.execVunzip d a b k s
  | .vcmpeqVv d a b k => Sys2Proof.Machine.execVcmpeqVv d a b k s
  | .vcmpneVv d a b k => Sys2Proof.Machine.execVcmpneVv d a b k s
  | .vcmpltVv d a b k => Sys2Proof.Machine.execVcmpltVv d a b k s
  | .vcmpleVv d a b k => Sys2Proof.Machine.execVcmpleVv d a b k s
  | .vcmpgtVv d a b k => Sys2Proof.Machine.execVcmpgtVv d a b k s
  | .vcmpgeVv d a b k => Sys2Proof.Machine.execVcmpgeVv d a b k s
  | .vcmpeqVx d a b k => Sys2Proof.Machine.execVcmpeqVx d a b k s
  | .vcmpneVx d a b k => Sys2Proof.Machine.execVcmpneVx d a b k s
  | .vcmpltVx d a b k => Sys2Proof.Machine.execVcmpltVx d a b k s
  | .vcmpleVx d a b k => Sys2Proof.Machine.execVcmpleVx d a b k s
  | .vcmpgtVx d a b k => Sys2Proof.Machine.execVcmpgtVx d a b k s
  | .vcmpgeVx d a b k => Sys2Proof.Machine.execVcmpgeVx d a b k s
  | .vcmpeqPVv d a b => Sys2Proof.Machine.execVcmpeqPVv d a b s
  | .vcmpnePVv d a b => Sys2Proof.Machine.execVcmpnePVv d a b s
  | .vcmpltPVv d a b => Sys2Proof.Machine.execVcmpltPVv d a b s
  | .vcmplePVv d a b => Sys2Proof.Machine.execVcmplePVv d a b s
  | .vcmpgtPVv d a b => Sys2Proof.Machine.execVcmpgtPVv d a b s
  | .vcmpgePVv d a b => Sys2Proof.Machine.execVcmpgePVv d a b s
  | .vcmpeqPVx d a b => Sys2Proof.Machine.execVcmpeqPVx d a b s
  | .vcmpnePVx d a b => Sys2Proof.Machine.execVcmpnePVx d a b s
  | .vcmpltPVx d a b => Sys2Proof.Machine.execVcmpltPVx d a b s
  | .vcmplePVx d a b => Sys2Proof.Machine.execVcmplePVx d a b s
  | .vcmpgtPVx d a b => Sys2Proof.Machine.execVcmpgtPVx d a b s
  | .vcmpgePVx d a b => Sys2Proof.Machine.execVcmpgePVx d a b s
  | .kand d a b => Sys2Proof.Machine.execKand d a b s
  | .kor d a b => Sys2Proof.Machine.execKor d a b s
  | .kxor d a b => Sys2Proof.Machine.execKxor d a b s
  | .kandn d a b => Sys2Proof.Machine.execKandn d a b s
  | .knot d a => Sys2Proof.Machine.execKnot d a s
  | .kpopc d a => Sys2Proof.Machine.execKpopc d a s
  | .kfirst d a => Sys2Proof.Machine.execKfirst d a s
  | .vred d a b k => Sys2Proof.Machine.execVred d a b k s
  | .vredmax d a b k => Sys2Proof.Machine.execVredmax d a b k s
  | .vredmin d a b k => Sys2Proof.Machine.execVredmin d a b k s
  | .vredand d a b k => Sys2Proof.Machine.execVredand d a b k s
  | .vredor d a b k => Sys2Proof.Machine.execVredor d a b k s
  | .vredxor d a b k => Sys2Proof.Machine.execVredxor d a b k s
  | .vredo d a b k => Sys2Proof.Machine.execVredo d a b k s
  | .vld d a k y f => Sys2Proof.Machine.execVld d a k y f s
  | .vlds d a b k y f => Sys2Proof.Machine.execVlds d a b k y f s
  | .vldx d a b k y f => Sys2Proof.Machine.execVldx d a b k y f s
  | .vlseg d a k y n => Sys2Proof.Machine.execVlseg d a k y n s
  | .vlsseg d a b k y n => Sys2Proof.Machine.execVlsseg d a b k y n s
  | .vst d a k y => Sys2Proof.Machine.execVst d a k y s
  | .vsts d a b k y => Sys2Proof.Machine.execVsts d a b k y s
  | .vstx d a b k y => Sys2Proof.Machine.execVstx d a b k y s
  | .vsseg d a k y n => Sys2Proof.Machine.execVsseg d a k y n s
  | .vssseg d a b k y n => Sys2Proof.Machine.execVssseg d a b k y n s
  | .vamoSwap d a b k sc => Sys2Proof.Machine.execVamoSwap d a b k sc s
  | .vamoAdd d a b k sc => Sys2Proof.Machine.execVamoAdd d a b k sc s
  | .vamoAnd d a b k sc => Sys2Proof.Machine.execVamoAnd d a b k sc s
  | .vamoOr d a b k sc => Sys2Proof.Machine.execVamoOr d a b k sc s
  | .vamoXor d a b k sc => Sys2Proof.Machine.execVamoXor d a b k sc s
  | .vamoMin d a b k sc => Sys2Proof.Machine.execVamoMin d a b k sc s
  | .vamoMax d a b k sc => Sys2Proof.Machine.execVamoMax d a b k sc s
  | .vrdwAdd d a b k sc => Sys2Proof.Machine.execVrdwAdd d a b k sc s
  | .vrdwMax d a b k sc => Sys2Proof.Machine.execVrdwMax d a b k sc s
  | .vrdwMin d a b k sc => Sys2Proof.Machine.execVrdwMin d a b k sc s
  | .vrdwExpsum d a b k sc => Sys2Proof.Machine.execVrdwExpsum d a b k sc s
  | .vwaitEq d a b k sc => Sys2Proof.Machine.execVwaitEq d a b k sc s
  | .vwaitNe d a b k sc => Sys2Proof.Machine.execVwaitNe d a b k sc s
  | .vwaitGe d a b k sc => Sys2Proof.Machine.execVwaitGe d a b k sc s
  | .vwaitLt d a b k sc => Sys2Proof.Machine.execVwaitLt d a b k sc s
  | .vmatch d a b k => Sys2Proof.Machine.execVmatch d a b k s
  | .pdset a b c => Sys2Proof.Machine.execPdset a b c s
  | .pxin a b => Sys2Proof.Machine.execPxin a b s
  | .pxout a b => Sys2Proof.Machine.execPxout a b s
  | .prun b c => Sys2Proof.Machine.execPrun b c s
  | .pfence => Sys2Proof.Machine.execPfence s
  | .bkacq b sc t => Sys2Proof.Machine.execBkacq b sc t s
  | .bkrel b sc => Sys2Proof.Machine.execBkrel b sc s
  | .nred a b c sc g => Sys2Proof.Machine.execNred a b c sc g s
  | .mmac a b c => Sys2Proof.Machine.execMmac a b c s
  | .mmact a b c => Sys2Proof.Machine.execMmact a b c s
  | .mzero a m => Sys2Proof.Machine.execMzero a m s
  | .mdrain a b c k => Sys2Proof.Machine.execMdrain a b c k s
  | .mdrainx a b c k => Sys2Proof.Machine.execMdrainx a b c k s
  | .mrel a t => Sys2Proof.Machine.execMrel a t s
  | .cast m n => Sys2Proof.Machine.execCast m n s
  | .castDelivery slot => Sys2Proof.Machine.execCastDelivery slot s
  | .sfetch f => Sys2Proof.Machine.execSfetch f s
  | .stop => Sys2Proof.Machine.execStop s
  | .waits m u => Sys2Proof.Machine.execWaits m u s
  | .sstat a sc => Sys2Proof.Machine.execSstat a sc s
  | .voffer b => Sys2Proof.Machine.execVoffer b s
  | .vlink a b sc => Sys2Proof.Machine.execVlink a b sc s
  | .sresume sc => Sys2Proof.Machine.execSresume sc s
  | .skill sc => Sys2Proof.Machine.execSkill sc s
  | .vpush a b c => Sys2Proof.Machine.execVpush a b c s
  | .vpushm a b c => Sys2Proof.Machine.execVpushm a b c s
  | .pushLanding stitch reg imgs => Sys2Proof.Machine.execPushLanding stitch reg imgs s
  | .sbind a b sc g => Sys2Proof.Machine.execSbind a b sc g s
  | .sunbind sc => Sys2Proof.Machine.execSunbind sc s
  | .chkick a => Sys2Proof.Machine.execChkick a s
  | .wmpub a b => Sys2Proof.Machine.execWmpub a b s
  | .wmbind a b sc g => Sys2Proof.Machine.execWmbind a b sc g s
  | .wmwait a b u => Sys2Proof.Machine.execWmwait a b u s
  | .sigp a b sc => Sys2Proof.Machine.execSigp a b sc s
  | .sigw a b sc u => Sys2Proof.Machine.execSigw a b sc u s
  | .throwCall a b c sc => Sys2Proof.Machine.execThrowCall a b c sc s
  | .catchReply a b u => Sys2Proof.Machine.execCatchReply a b u s
  | .launch b c => Sys2Proof.Machine.execLaunch b c s
  | .lix a im => Sys2Proof.Machine.execLix a im s
  | .lixh a im => Sys2Proof.Machine.execLixh a im s
  | .chdecl xs xn off len esz a => Sys2Proof.Machine.execChdecl xs xn off len esz a s
  | .coll esz op kind sc a => Sys2Proof.Machine.execColl esz op kind sc a s
  | .mstat sd sc macro0 kmac nmac wfmt a => Sys2Proof.Machine.execMstat sd sc macro0 kmac nmac wfmt a s
  | .launchInline sreg count scode queue a => Sys2Proof.Machine.execLaunchInline sreg count scode queue a s
  | .cadd d sc => Sys2Proof.Machine.execCadd d sc s
  | .csub d sc => Sys2Proof.Machine.execCsub d sc s
  | .cand d sc => Sys2Proof.Machine.execCand d sc s
  | .cor d sc => Sys2Proof.Machine.execCor d sc s
  | .cxor d sc => Sys2Proof.Machine.execCxor d sc s
  | .csll d sc => Sys2Proof.Machine.execCsll d sc s
  | .csrl d sc => Sys2Proof.Machine.execCsrl d sc s
  | .csra d sc => Sys2Proof.Machine.execCsra d sc s
  | .cmul d sc => Sys2Proof.Machine.execCmul d sc s
  | .caddi d sc => Sys2Proof.Machine.execCaddi d sc s
  | .candi d sc => Sys2Proof.Machine.execCandi d sc s
  | .cslli d sc => Sys2Proof.Machine.execCslli d sc s
  | .csrli d sc => Sys2Proof.Machine.execCsrli d sc s
  | .csrai d sc => Sys2Proof.Machine.execCsrai d sc s
  | .cmv d => Sys2Proof.Machine.execCmv d s
  | .clw d sc => Sys2Proof.Machine.execClw d sc s
  | .cld d sc => Sys2Proof.Machine.execCld d sc s
  | .cvadd d sc => Sys2Proof.Machine.execCvadd d sc s
  | .cvsub d sc => Sys2Proof.Machine.execCvsub d sc s
  | .cvmul d sc => Sys2Proof.Machine.execCvmul d sc s
  | .cvmacc d sc => Sys2Proof.Machine.execCvmacc d sc s
  | .cvmin d sc => Sys2Proof.Machine.execCvmin d sc s
  | .cvmax d sc => Sys2Proof.Machine.execCvmax d sc s
  | .cvand d sc => Sys2Proof.Machine.execCvand d sc s
  | .cvor d sc => Sys2Proof.Machine.execCvor d sc s
  | .cvxor d sc => Sys2Proof.Machine.execCvxor d sc s
  | .cvaddx d sc => Sys2Proof.Machine.execCvaddx d sc s
  | .cvmulx d sc => Sys2Proof.Machine.execCvmulx d sc s
  | .ckand d sc => Sys2Proof.Machine.execCkand d sc s
  | .ckor d sc => Sys2Proof.Machine.execCkor d sc s
  | .ckxor d sc => Sys2Proof.Machine.execCkxor d sc s
  | .carriageRound c stack upset => Sys2Proof.Machine.execCarriageRound c stack upset s
  | .sourceVerify c stack uncorrectable => Sys2Proof.Machine.execSourceVerify c stack uncorrectable s
  | .planeRetire c stack => Sys2Proof.Machine.execPlaneRetire c stack s
  | .detectedPlaneError c => Sys2Proof.Machine.execDetectedPlaneError c s
  | .refresh vault => Sys2Proof.Machine.execRefresh vault s
  | .tLevelActivate slot => Sys2Proof.Machine.execTLevelActivate slot s
  | .tLevelRedirect slot => Sys2Proof.Machine.execTLevelRedirect slot s
  | .stageArbiterPeriod slot blocked occupancy starved => Sys2Proof.Machine.execStageArbiterPeriod slot blocked occupancy starved s
  | .queueEntryAccept q => Sys2Proof.Machine.execQueueEntryAccept q s
  | .prefetch launch => Sys2Proof.Machine.execPrefetch launch s
  | .launchReady launch => Sys2Proof.Machine.execLaunchReady launch s
  | .tileStart launch slot => Sys2Proof.Machine.execTileStart launch slot s
  | .contextSave c => Sys2Proof.Machine.execContextSave c s
  | .tileRestore slot => Sys2Proof.Machine.execTileRestore slot s
  | .tileEnd slot launch => Sys2Proof.Machine.execTileEnd slot launch s
  | .launchComplete launch => Sys2Proof.Machine.execLaunchComplete launch s
  | .pendingTrapTake slot => Sys2Proof.Machine.execPendingTrapTake slot s
  | .architecturalWaitEnd c => Sys2Proof.Machine.execArchitecturalWaitEnd c s
  | .streamFetch c sq => Sys2Proof.Machine.execStreamFetch c sq s
  | .streamWrite c sq => Sys2Proof.Machine.execStreamWrite c sq s
  | .stripWrite wm => Sys2Proof.Machine.execStripWrite wm s
  | .watermarkReread wm => Sys2Proof.Machine.execWatermarkReread wm s
  | .guestStart slot => Sys2Proof.Machine.execGuestStart slot s
  | .replyArrival c ticket gcause info vals => Sys2Proof.Machine.execReplyArrival c ticket gcause info vals s
  | .throwTimeout c slot => Sys2Proof.Machine.execThrowTimeout c slot s
  | .throwMessage msg => Sys2Proof.Machine.execThrowMessage msg s
  | .collExchange mem => Sys2Proof.Machine.execCollExchange mem s
  | .collComplete c k => Sys2Proof.Machine.execCollComplete c k s
  | .migrationSwitch stack chunk others => Sys2Proof.Machine.execMigrationSwitch stack chunk others s
  | .accessCounterHalving => Sys2Proof.Machine.execAccessCounterHalving s
  | .automaticMove stack chunk => Sys2Proof.Machine.execAutomaticMove stack chunk s
  | .grantVaults => Sys2Proof.Machine.execGrantVaults s
  | .endGrant => Sys2Proof.Machine.execEndGrant s
  | .mkRegion => Sys2Proof.Machine.execMkRegion s
  | .freeRegion => Sys2Proof.Machine.execFreeRegion s
  | .moveChunk => Sys2Proof.Machine.execMoveChunk s
  | .pinChunk => Sys2Proof.Machine.execPinChunk s
  | .unpinChunk => Sys2Proof.Machine.execUnpinChunk s
  | .grantPeriodExpiry stack vault => Sys2Proof.Machine.execGrantPeriodExpiry stack vault s
  | .timerInterrupt slot => Sys2Proof.Machine.execTimerInterrupt slot s
  | .watchdogWarning c => Sys2Proof.Machine.execWatchdogWarning c s
  | .watchdogFreeze c => Sys2Proof.Machine.execWatchdogFreeze c s
  | .watchdogCoreReset c => Sys2Proof.Machine.execWatchdogCoreReset c s
  | .guestWatchdogExpiry c => Sys2Proof.Machine.execGuestWatchdogExpiry c s
  | .errorDetected cls unit place addr syndrome victim => Sys2Proof.Machine.execErrorDetected cls unit place addr syndrome victim s
  | .patrolScrub unit place addr uncorrectable => Sys2Proof.Machine.execPatrolScrub unit place addr uncorrectable s
  | .linkReplayFailure port addr => Sys2Proof.Machine.execLinkReplayFailure port addr s
  | .sensorSample readings => Sys2Proof.Machine.execSensorSample readings s
  | .thermalTrip => Sys2Proof.Machine.execThermalTrip s
  | .powerFailWarning => Sys2Proof.Machine.execPowerFailWarning s
  | .powerFailClear => Sys2Proof.Machine.execPowerFailClear s
  | .clampLift => Sys2Proof.Machine.execClampLift s
  | .powerFailTimeout => Sys2Proof.Machine.execPowerFailTimeout s
  | .supplyLoss => Sys2Proof.Machine.execSupplyLoss s
  | .logicRailsReturn retained intact => Sys2Proof.Machine.execLogicRailsReturn retained intact s
  | .leaseExpiry => Sys2Proof.Machine.execLeaseExpiry s
  | .moduleReset => Sys2Proof.Machine.execModuleReset s
  | .mailboxPost fn slot => Sys2Proof.Machine.execMailboxPost fn slot s
  | .mailboxAnswer slot => Sys2Proof.Machine.execMailboxAnswer slot s
  | .features slot => Sys2Proof.Machine.execFeatures slot s
  | .accept slot => Sys2Proof.Machine.execAccept slot s
  | .mkpart slot => Sys2Proof.Machine.execMkpart slot s
  | .rmpart slot => Sys2Proof.Machine.execRmpart slot s
  | .stateCommand slot => Sys2Proof.Machine.execStateCommand slot s
  | .rackCap slot => Sys2Proof.Machine.execRackCap slot s
  | .logread slot => Sys2Proof.Machine.execLogread slot s
  | .sensors slot => Sys2Proof.Machine.execSensors slot s
  | .fwwrite slot version sigok => Sys2Proof.Machine.execFwwrite slot version sigok s
  | .fwcommit slot => Sys2Proof.Machine.execFwcommit slot s
  | .getVersion => Sys2Proof.Machine.execGetVersion s
  | .getCapabilities => Sys2Proof.Machine.execGetCapabilities s
  | .negotiateAlgorithms => Sys2Proof.Machine.execNegotiateAlgorithms s
  | .getDigests => Sys2Proof.Machine.execGetDigests s
  | .getCertificate slot => Sys2Proof.Machine.execGetCertificate slot s
  | .challenge nonce => Sys2Proof.Machine.execChallenge nonce s
  | .getMeasurements index => Sys2Proof.Machine.execGetMeasurements index s
  | .hostRead fn bar addr size => Sys2Proof.Machine.execHostRead fn bar addr size s
  | .hostWrite fn bar addr data => Sys2Proof.Machine.execHostWrite fn bar addr data s
  | .snpinv line => Sys2Proof.Machine.execSnpinv line s
  | .snpdata line => Sys2Proof.Machine.execSnpdata line s
  | .snpcur line => Sys2Proof.Machine.execSnpcur line s
  | .poisonedCompletion c addr => Sys2Proof.Machine.execPoisonedCompletion c addr s
  | .peerRequest req => Sys2Proof.Machine.execPeerRequest req s
  | .peerWake c => Sys2Proof.Machine.execPeerWake c s
  | .peerTimeout c addr store => Sys2Proof.Machine.execPeerTimeout c addr store s
  | .peerRejection addr => Sys2Proof.Machine.execPeerRejection addr s
  | .laneSharingTurn giver taker => Sys2Proof.Machine.execLaneSharingTurn giver taker s
  | .rowSpill stitch => Sys2Proof.Machine.execRowSpill stitch s
  | .subarrayTransfer c stack mismatch => Sys2Proof.Machine.execSubarrayTransfer c stack mismatch s
  | .fabricManagerAssignment part number top paired => Sys2Proof.Machine.execFabricManagerAssignment part number top paired s

end Sys2Proof.Machine
end

