-- ==== Sys2Proof/WellFormed.lean ====
section
/-!
DEFINITION. Which instructions are well formed: those that have an encoding and pass the value checks of
R136 steps 3 and 4. An ill-formed one raises the cause that Instr.staticFault gives.
-/
namespace Sys2Proof

/-- The instruction has an encoding and passes the value checks of R136 steps 3 and 4. -/
def Instr.WellFormed (i : Instr) : Prop := i.encodable = true ∧ i.staticFault = none

/-- `WellFormed` as a test. -/
def Instr.wellFormed (i : Instr) : Bool := i.encodable && i.staticFault.isNone

end Sys2Proof
end

