-- ==== Sys2Proof/Machine/Move.lean ====
section
/-!
DEFINITION. What one step does: a thread executes its next instruction, or the hardware moves by one event (R16, R17,
R35 to R37, R80, R218, R247, R301). The order that the spec leaves open is `State.sched`, then a default order
(log 3).
-/
namespace Sys2Proof.Machine

/-! ### Threads -/

/-- The event that a thread meets at its instruction boundary before its next instruction: a T level, a pending trap,
a detected plane error (R17, R218, R301). -/
noncomputable def threadEvent (c : Fin 12) (s : State) : Option Instr :=
  if kindOf c = .needle && (s.endingLevel c.val).isSome then some (.tLevelRedirect c.val)
  else if kindOf c = .needle && (s.startingLevel c.val).isSome then some (.tLevelActivate c.val)
  else if kindOf c = .needle && s.trapPending c.val then some (.pendingTrapTake c.val)
  else if (s.ctxs.get c).planeErr != [] then some (.detectedPlaneError c.val)
  else none

/-- A stitch comes to the end of its cast block (R22, R247). -/
def castOver (c : Ctx) : Bool := c.castEnd == some c.pc

/-- It stops as by STOP: retired, a release at core scope (R22, R247, R250). -/
def State.castStop (s : State) (c : Fin 12) : State :=
  ({ s with cur := c }.releases 1).updAt c fun x => (x.retire (ldNone x.ldst)).halt

/-- The first instruction of a launch is noted with its cycle (R332). -/
def State.noteFirst (s : State) : State :=
  match s.launchOf s.cur with
  | none => s
  | some id => s.updLaunch id fun l => if l.first = 0 then { l with first := s.now } else l

/-- A fetched instruction executes; a fetch that fails traps. -/
noncomputable def runFetched (s : State) : Host.Outcome State Fault Refusal :=
  match fetchInstr s with
  | .ok i t => exec i t
  | .error e t => settle (fun u => .error e u) t

/-- One move of a thread. A thread that may not move now leaves the state as it is (log 3). -/
noncomputable def threadMove (c : Fin 12) (s : State) : Host.Outcome State Fault Refusal :=
  if !(s.movable c && s.active) then .next s
  else
    match threadEvent c s with
    | some i => exec i s
    | none =>
      if castOver (s.ctxs.get c) then .next (s.castStop c)
      else runFetched { s with cur := c }.noteFirst

/-! ### The hardware's own moves -/

/-- The mailbox event that a posted slot asks for (R366, R390). -/
noncomputable def mailEvent (s : State) (n : Nat) : Instr :=
  match (if s.slotTarget n = 1 then s.slotOp n else 0) with
  | 0x0001 => .features n
  | 0x0002 => .accept n
  | 0x0003 => .mkpart n
  | 0x0004 => .rmpart n
  | 0x0010 => .stateCommand n
  | 0x0011 => .rackCap n
  | 0x0020 => .logread n
  | 0x0021 => .sensors n
  | 0x0031 => .fwcommit n
  | _ => .mailboxPost (slotFn n) (n % 64)

/-- The events of one context: what it waits for, its watchdog, its saves, its streams, tickets and collectives. -/
noncomputable def ctxEvents (s : State) (c : Nat) : List Instr :=
  let x := s.ctxs.get (ctxIx c)
  [.architecturalWaitEnd c, .watchdogWarning c, .watchdogFreeze c, .watchdogCoreReset c, .guestWatchdogExpiry c,
    .contextSave c, .detectedPlaneError c] ++
    (List.range 8).flatMap (fun n => [.streamWrite c n, .streamFetch c n, .throwTimeout c n]) ++
    (List.range x.colls.length).map (.collComplete c ·)

/-- The events of a context's carriage queue in one stack. A vault is refreshed where a batch waits for it. -/
noncomputable def planeEvents (s : State) (c stack : Nat) : List Instr :=
  match s.headOp (ctxIx c) stack with
  | none => []
  | some o =>
    (s.batchVaults (ctxIx c) o).map .refresh ++
      [.planeRetire c stack, .sourceVerify c stack false, .carriageRound c stack false, .subarrayTransfer c stack 0]

/-- The events of a launch on this core. -/
noncomputable def launchEvents (l : Launch) : List Instr :=
  [.tileEnd 0 l.id, .tileEnd 1 l.id, .launchComplete l.id, .launchReady l.id, .tileStart l.id 0, .tileStart l.id 1]

/-- The hardware's own events, in the default order. What another agent brings (the host, a peer, another core, a
sensor, an error) is no default: it comes only from the schedule (log 3). -/
noncomputable def ownEvents (s : State) : List Instr :=
  [.timerInterrupt 0, .timerInterrupt 1, .pendingTrapTake 0, .pendingTrapTake 1, .tileRestore 0, .tileRestore 1,
    .clampLift, .powerFailTimeout, .leaseExpiry, .accessCounterHalving] ++
    (List.range 12).flatMap (ctxEvents s) ++
    (List.range 12).flatMap (fun c => (List.range 16).flatMap (planeEvents s c)) ++
    (List.range 16).flatMap (fun n => [.stripWrite n, .watermarkReread n]) ++
    (s.replies.map fun r => .replyArrival r.1.val r.2.1 r.2.2.gcause r.2.2.info r.2.2.vals) ++
    [.guestStart 0, .guestStart 1] ++
    s.launches.flatMap launchEvents ++
    ((List.range 16).filter fun p => (s.part (partIx p)).on).flatMap
      (fun p => (List.range 64).map fun q => .queueEntryAccept (64 * p + q)) ++
    ((s.remote.filter fun t => t.asked && !t.frozen).map fun t => .contextSave (12 + 2 * t.core + t.slot)) ++
    [.grantVaults, .endGrant, .mkRegion, .freeRegion, .moveChunk, .pinChunk, .unpinChunk] ++
    (s.grants.map fun g => .grantPeriodExpiry g.stack g.vault) ++
    ((s.chunks.filter (·.moving)).map fun c => .migrationSwitch c.stack c.chunk 0) ++
    (s.regroups.filterMap fun g => (s.nextRegroup g).map (.migrationSwitch g.stack · 0)) ++
    ((List.range 1088).filter fun n => s.slotState n == 1).map (mailEvent s) ++
    ((s.part s.corePart).mail.filter fun n => s.slotState (64 * (s.corePart.val + 1) + n) == 2).map .mailboxAnswer ++ (List.range 8).map .rowSpill

/-- The event does something now, besides using up free values. -/
def acts (s : State) (i : Instr) : Bool :=
  match exec i s with
  | .next t => { t with draws := s.draws } != s
  | .fault _ => true
  | .refused _ => true

/-- The context whose turn it is: the next movable one in the order of their numbers. -/
def State.turn (s : State) : Fin 12 :=
  (((List.range 12).map fun n => ctxIx (s.cur.val + 1 + n)).find? s.movable).getD s.cur

/-- The move of a context is over: the access that was to fail in it has been made or not (R364, R372). -/
def disarmed (c : Fin 12) (o : Host.Outcome State Fault Refusal) : Host.Outcome State Fault Refusal :=
  match o with
  | .next t => .next { t with failing := t.failing.filter fun f => f.ctx != c.val }
  | o => o

/-- What moves where the schedule is empty: every store that only its context sees is performed, training ends without a
failure, then the first event that acts, else the thread whose turn it is (log 3). -/
noncomputable def defaultMove (s : State) : Host.Outcome State Fault Refusal :=
  let s := s.settleStores fun _ => true
  if s.mgmt.training then .next (s.trained [])
  else
    match (ownEvents s).find? (acts s) with
    | some i => exec i s
    | none => disarmed s.turn (threadMove s.turn s)

/-- Where the module is off and nothing is scheduled, nothing moves (R382, R384). -/
def State.dead (s : State) : Option Fault :=
  if s.mgmt.power == .off || s.mgmt.railsOff then some .poweredOff else none

/-- The state as a move finds it: one cycle later, stopped queues looked at again (R3, R322, log 6). -/
def State.prepared (s : State) : State := s.noteQueues.elapse 1

/-- The schedule's stop is over. -/
def unstopped (o : Host.Outcome State Fault Refusal) : Host.Outcome State Fault Refusal :=
  match o with
  | .next t => .next { t with stopAt := none }
  | o => o

/-- A stitch moves up to element `n` of its vector or matrix instruction, where that is a pre-emption point inside it
(R338); guests have none (R283). -/
noncomputable def partMove (c : Fin 12) (n : Nat) (s : State) : Host.Outcome State Fault Refusal :=
  unstopped (threadMove c { s with stopAt := if kindOf c = .stitch then some n else none })

/-- A thread moves whose stores others see later (R99). -/
noncomputable def lateMove (c : Fin 12) (s : State) : Host.Outcome State Fault Refusal :=
  match threadMove c { s with late := true } with
  | .next t => .next { t with late := false }
  | o => o

/-- A store becomes visible, after the earlier ones of its context to its bytes (R99, R101). -/
def State.performOne (s : State) (i : Nat) : State :=
  match s.pending[i]? with
  | none => s
  | some e => s.settleStores (· == e)

/-- A SIGW or VWAIT waits on a word of this host line: it is not evicted (R402). -/
def State.lineWatched (s : State) (line : Nat) : Bool := (List.range 12).any fun n => (s.watchedLines (ctxIx n)).contains line

/-- A store of a core that was reset is discarded where it was not written back within 100 microseconds; the machine check's
record names its range (R313, log 78). -/
def State.loseStore (s : State) (i : Nat) : State :=
  match s.pending[i]? with
  | none => s
  | some e =>
    if e.ctx == 14 && s.resetAt.any (· + 100 * cyclesPerUs ≤ s.now) then
      let part := ((s.ownerOf s.stack.toNat).map fun (p : Fin 16) => p.val).getD 0xFF
      { s with pending := s.pending.take i ++ s.pending.drop (i + 1) }.logCheck
        (LogFields.mk 0x31 1 (s.coreId * 32 % 65536) part e.addr 0 e.size 0) [s.coreId]
    else s

/-- What follows every move at once: the stores of guests that have ended are performed with their replies (R120, R281),
guests take and give back lane groups (R34), rows that the pool does not hold are spilled (R47), engines read the send
buffers that nothing holds back (R115). -/
def State.after (s : State) : State := ((s.settleStores (·.ctx == 13)).loans.spillRows 10).captureColls

/-- The queue entries that a move has added, whoever wrote the tails of the header lines, are noted with the cycle (R37, R322,
R332). -/
def State.noteTails (s old : State) : State :=
  if s.mem == old.mem then s
  else
    (List.range 16).foldl (fun s i =>
      let p := partIx i
      match (if (s.part p).on then s.xlate p 1 .load (s.headAddr p 0) else .error 0) with
      | .error _ => s
      | .ok ph =>
        let lines (m : Memory) : Memory := m.filter fun c => ph.key ≤ c.1 && c.1 < ph.key + 8192
        if lines s.mem == lines old.mem then s
        else
          (List.range 64).foldl (fun s q =>
            let was := old.readN (ph.key + 128 * q + 64) 8
            let now := s.readN (ph.key + 128 * q + 64) 8
            (span was (min 65536 (now - was))).foldl (fun s n => s.noteEntry p q n) s) s) s

/-- What follows a move that gives a next state: its failed accesses are logged. -/
def followed (s : State) (o : Host.Outcome State Fault Refusal) : Host.Outcome State Fault Refusal :=
  match o with
  | .next t => .next (t.after.noteTails s).logFailed
  | o => o

/-- One move: the head of the schedule, or the default. An instruction with an encoding is no event: it executes only
by being fetched. -/
noncomputable def nextMove (s : State) : Host.Outcome State Fault Refusal :=
  match s.sched with
  | .thread c :: rest => followed s (disarmed c (threadMove c { s with sched := rest }.prepared))
  | .part c n :: rest => followed s (disarmed c (partMove c n { s with sched := rest }.prepared))
  | .late c :: rest => followed s (disarmed c (lateMove c { s with sched := rest }.prepared))
  | .perform i :: rest => followed s (.next ({ s with sched := rest }.prepared.performOne i))
  | .ahead c addr n :: rest => .next ({ s with sched := rest }.prepared.readAhead c addr n)
  | .evict line :: rest =>
    let t := { s with sched := rest }.prepared
    .next (if t.lineWatched line then t else t.evictLine line)
  | .rack seq cap lease :: rest => .next (({ s with sched := rest }.prepared.rackMessage seq cap lease).1)
  | .train failed :: rest => .next ({ s with sched := rest }.prepared.trained failed)
  | .lose i :: rest => .next ({ s with sched := rest }.prepared.loseStore i)
  | .event i :: rest =>
    if i.encodable then .next { s with sched := rest }.prepared else followed s (exec i { s with sched := rest }.prepared)
  | .piece i n :: rest =>
    if i.encodable then .next { s with sched := rest }.prepared
    else followed s (unstopped (exec i { { s with sched := rest }.prepared with stopAt := some n }))
  | .elapse n :: rest => .next ({ s with sched := rest }.noteQueues.elapse n)
  | [] =>
    match s.dead with
    | some f => .fault f
    | none => followed s (defaultMove s.prepared)

/-! ### A program that stands ready (log 7) -/

/-- The descriptor of a launch of one tile with one stitch (R324). -/
def plainDesc : Desc :=
  { levels := [], stitches := 1, unchecked := false, serial := false, second := false, scope := 4, entry := 4096,
    signal := 0, increment := 0, record := 0, stages := [0, 0, 0, 0], squeues := [], deps := [], maps := [],
    prefetch := [], discard := [] }

/-- The launch and the tile of a placed program (R16, R330). -/
def plainTile : Tile :=
  { launch := 1, number := 0, part := 0, prio := 0, base := 0, count := 1, desc := plainDesc, descAddr := 0, order := 0,
    stopping := false, frozen := false, leaving := false, watchdog := false, kept := false, resetBy := none,
    ended := false, share := 8 }

/-- A word of the system group below its first two functions, or of the needle's own group in major 24: where a
needle at M executes it (R38, R129). -/
def needleWord (w : Nat) : Bool :=
  (w % 1024 == 0x301 && 2 ≤ bitsAt w 10 12) || (w % 128 == 0x61 && [0, 3, 4, 7, 8].contains (bitsAt w 7 5))

/-- The bytes of a value from a key on, kept canonical. -/
def placeBytes (k v : Nat) (m : Memory) : Nat → Memory
  | 0 => m
  | n + 1 => placeBytes (k + 1) (v / 256) (cellPut 0 m k (BitVec.ofNat 8 v)) n

/-- A partition 0 over the core's stack, with a table that maps the first 512 MiB one to one, for every access
(R348, R353). -/
def plainPart (stack : BitVec 4) : Part :=
  let root : Word := BitVec.ofNat 64 (stack.toNat * 2 ^ 48 + 0x10000)
  { Part.reset with on := true, ownStacks := [stack.toNat], chunks := 256, ptroot := root, liveRoot := root,
                    hostWindows := [(0, 2 ^ 52)] }

/-- The instruction stands at address 0x1000 of a running tile, and the context that may execute it moves next. -/
def State.placeWord (s : State) (nbits w : Nat) : State :=
  let c : Fin 12 := if needleWord w then 0 else 2
  let node (n : Nat) : Nat := generalKey s.stack.toNat (n * 0x10000)
  let mem := placeBytes (generalKey s.stack.toNat 0x1000) (w % 2 ^ nbits) s.mem 8
  let mem := placeBytes (node 1) (1 + s.stack.toNat * 2 ^ 48 + 0x20000) mem 8
  let mem := placeBytes (node 2) 0xE5 mem 8
  { s with
    parts := s.parts.set 0 (plainPart s.stack), tiles := s.tiles.set 0 (some plainTile), mem := mem,
    ctxs := s.ctxs.set c.val { s.ctxs.get c with run := .running, pc := 0x1000, priv := 2, alc := 32 } c.isLt,
    mgmt := { s.mgmt with power := .op 6, railsOff := false, halted := false, entering := none },
    sched := [.thread c] }

end Sys2Proof.Machine
end

