-- ==== Sys2Proof/Machine/Step.lean ====
section
/-!
DEFINITION. The step, and the state in which a step executes a given word.
-/
namespace Sys2Proof.Machine

/-- One step of the machine. -/
noncomputable def step : State → Host.Outcome State Fault Refusal := nextMove

/-- `s` with an instruction where the next step fetches it (log 7). -/
def State.withFetchWord (s : State) (nbits w : Nat) : State := s.placeWord nbits w

end Sys2Proof.Machine
end

