-- ==== Sys2Proof/Safety.lean ====
section
/-!
DEFINITION. What the statements call a sound state and the words they are said in: the invariant of the stores, and for the
vector instructions which form an instruction is, when its operands are readable, and what it leaves.
-/
namespace Sys2Proof.Machine

/-- The byte memory and the row store are canonical: keys strictly rising, no entry zero (log 1). -/
def State.Inv (s : State) : Prop := cellsWf 0 s.mem = true ∧ cellsWf 0 s.rows = true

/-! ### Vector instructions -/

/-- The context may execute a vector instruction that names these registers: it is no needle, a stitch has lanes, no clamp
holds, the schedule stops no instruction part-way (log 3), and none of the registers is bound to a stream (R28, R38,
R265, R384). -/
def State.VecReady (s : State) (regs : List Nat) : Prop :=
  s.kind ≠ .needle ∧ (s.kind = .stitch → s.lanes s.cur ≠ 0) ∧ s.mgmt.clamp = false ∧ s.stopAt = none ∧
    ∀ r ∈ regs, s.ctx.slotOf r = none

/-- The moving context with the landed groups that have a named register renamed into place, unless its instruction has
begun before (R260). -/
def State.landed (s : State) (regs : List Nat) : Ctx :=
  if s.ctx.begun then s.ctx else { s.ctx.land (regs.filter (· < 32)) with begun := true }

/-- The state with them. -/
def State.landedState (s : State) (regs : List Nat) : State := s.upd fun _ => s.landed regs

/-- The instruction retires as a vector instruction of `len` bytes: vstart is 0, ldst is `ld`, instret and a guest's
budget count it, registers outside `dest` are as before, and all other state but fflags and srseed. -/
def VecEnds (i : Instr) (s : State) (len : Nat) (regs dest : List Nat) (ld : BitVec 8) (P : Ctx → Prop) : Prop :=
  ∃ (v : Vector VReg 32) (fl : BitVec 5) (sr : BitVec 32),
    let c := { (s.landed regs).next len ld with vstart := 0, v := v, fflags := fl, srseed := sr }
    exec i s = .next (s.upd fun _ => c) ∧
    (∀ n : Fin 32, n.val ∉ dest → v.get n = (s.landed regs).v.get n) ∧
    fl &&& s.ctx.fflags = s.ctx.fflags ∧ P c

/-- The group `g` of `c` after the element loop of R168 that began in `l`: below vstart and below `skip` as before; active
elements hold `val`, masked-off ones follow the mask policy, the tail from `skip` on the tail policy; every register is tagged. -/
def ElementsAre (c l : Ctx) (g : Grp) (fmt : Nat) (k : BitVec 3) (skip : Nat) (val : Nat → Nat) : Prop :=
  (l.vl.toNat ≤ l.vstart.toNat → c.v = l.v) ∧
  (l.vstart.toNat < l.vl.toNat →
    (∀ r ∈ g.regs, (c.vr r).fmt = BitVec.ofNat 4 fmt ∧ (c.vr r).width = widthCode g.eew) ∧
    ∀ j, j < g.length → c.elem g j =
      if j < l.vstart.toNat ∨ j < skip then l.elem g j
      else if l.vl.toNat ≤ j then (if l.tailKeep then l.elem g j else 0)
      else if l.kbit k j then val j % 2 ^ g.eew
      else if l.maskZero then 0 else l.elem g j)

/-- The mask `d` of `c` after the loop of R168 on a mask destination that began in `l`. -/
def MaskBitsAre (c l : Ctx) (d k : BitVec 3) (bit : Nat → Bool) : Prop :=
  (l.vl.toNat ≤ l.vstart.toNat → c.k = l.k) ∧
  (∀ e : Fin 8, e ≠ d.toFin → c.k.get e = l.k.get e) ∧
  (l.vstart.toNat < l.vl.toNat → ∀ j, j < 4096 → (c.k.get d.toFin).getLsbD j =
    if l.vl.toNat ≤ j then (l.tailKeep && (l.k.get d.toFin).getLsbD j)
    else if j < l.vstart.toNat then (l.k.get d.toFin).getLsbD j
    else if l.kbit k j then bit j
    else if l.maskZero then false else (l.k.get d.toFin).getLsbD j)

/-- The instruction retires with a mask destination. -/
def MaskEnds (i : Instr) (s : State) (len : Nat) (regs : List Nat) (d : BitVec 3) (P : Ctx → Prop) : Prop :=
  ∃ (k : Vector MData 8) (fl : BitVec 5),
    let c := { (s.landed regs).next len (ldK d) with vstart := 0, k := k, fflags := fl }
    exec i s = .next (s.upd fun _ => c) ∧ fl &&& s.ctx.fflags = s.ctx.fflags ∧ P c

/-- Element j of a second operand (R166). -/
def VSrc.at (b : VSrc) (c : Ctx) (j : Nat) : Nat :=
  match b with
  | .vec r => c.elem (c.grp r) j
  | .scalar r => (c.rx r).toNat % 2 ^ c.sew
  | .imm v => wrapTo c.sew v

/-- The instructions of majors 12 to 14 and their compact forms: length, function, operands and mask. -/
def vecForm (c : Ctx) : Instr → Option (Nat × VFn × BitVec 5 × BitVec 5 × VSrc × BitVec 3)
  | .vaddVv d a b k => some (4, .add, d, a, (.vec b), k)
  | .vaddVx d a b k => some (4, .add, d, a, (.scalar b), k)
  | .vaddVi d a im k => some (4, .add, d, a, (.imm im.toInt), k)
  | .vsubVv d a b k => some (4, .sub, d, a, (.vec b), k)
  | .vsubVx d a b k => some (4, .sub, d, a, (.scalar b), k)
  | .vrsubVx d a b k => some (4, .rsub, d, a, (.scalar b), k)
  | .vrsubVi d a im k => some (4, .rsub, d, a, (.imm im.toInt), k)
  | .vmulVv d a b k => some (4, .mul, d, a, (.vec b), k)
  | .vmulVx d a b k => some (4, .mul, d, a, (.scalar b), k)
  | .vmulhVv d a b k => some (4, .mulh, d, a, (.vec b), k)
  | .vmulhVx d a b k => some (4, .mulh, d, a, (.scalar b), k)
  | .vdivVv d a b k => some (4, .div, d, a, (.vec b), k)
  | .vdivVx d a b k => some (4, .div, d, a, (.scalar b), k)
  | .vremVv d a b k => some (4, .rem, d, a, (.vec b), k)
  | .vremVx d a b k => some (4, .rem, d, a, (.scalar b), k)
  | .vminVv d a b k => some (4, .min, d, a, (.vec b), k)
  | .vminVx d a b k => some (4, .min, d, a, (.scalar b), k)
  | .vmaxVv d a b k => some (4, .max, d, a, (.vec b), k)
  | .vmaxVx d a b k => some (4, .max, d, a, (.scalar b), k)
  | .vandVv d a b k => some (4, .and, d, a, (.vec b), k)
  | .vandVx d a b k => some (4, .and, d, a, (.scalar b), k)
  | .vandVi d a im k => some (4, .and, d, a, (.imm im.toInt), k)
  | .vorVv d a b k => some (4, .or, d, a, (.vec b), k)
  | .vorVx d a b k => some (4, .or, d, a, (.scalar b), k)
  | .vorVi d a im k => some (4, .or, d, a, (.imm im.toInt), k)
  | .vxorVv d a b k => some (4, .xor, d, a, (.vec b), k)
  | .vxorVx d a b k => some (4, .xor, d, a, (.scalar b), k)
  | .vxorVi d a im k => some (4, .xor, d, a, (.imm im.toInt), k)
  | .vsllVv d a b k => some (4, .sll, d, a, (.vec b), k)
  | .vsllVx d a b k => some (4, .sll, d, a, (.scalar b), k)
  | .vsllVi d a im k => some (4, .sll, d, a, (.imm im.toNat), k)
  | .vsrlVv d a b k => some (4, .srl, d, a, (.vec b), k)
  | .vsrlVx d a b k => some (4, .srl, d, a, (.scalar b), k)
  | .vsrlVi d a im k => some (4, .srl, d, a, (.imm im.toNat), k)
  | .vsraVv d a b k => some (4, .sra, d, a, (.vec b), k)
  | .vsraVx d a b k => some (4, .sra, d, a, (.scalar b), k)
  | .vsraVi d a im k => some (4, .sra, d, a, (.imm im.toNat), k)
  | .vsaddVv d a b k => some (4, .sadd, d, a, (.vec b), k)
  | .vsaddVx d a b k => some (4, .sadd, d, a, (.scalar b), k)
  | .vsaddVi d a im k => some (4, .sadd, d, a, (.imm im.toInt), k)
  | .vssubVv d a b k => some (4, .ssub, d, a, (.vec b), k)
  | .vssubVx d a b k => some (4, .ssub, d, a, (.scalar b), k)
  | .vavgVv d a b k => some (4, .avg, d, a, (.vec b), k)
  | .vavgVx d a b k => some (4, .avg, d, a, (.scalar b), k)
  | .vsmulVv d a b k => some (4, .smul, d, a, (.vec b), k)
  | .vsmulVx d a b k => some (4, .smul, d, a, (.scalar b), k)
  | .vsgnjVv d a b k => some (4, .sgnj, d, a, (.vec b), k)
  | .vsgnjVx d a b k => some (4, .sgnj, d, a, (.scalar b), k)
  | .vsgnjnVv d a b k => some (4, .sgnjn, d, a, (.vec b), k)
  | .vsgnjnVx d a b k => some (4, .sgnjn, d, a, (.scalar b), k)
  | .vsgnjxVv d a b k => some (4, .sgnjx, d, a, (.vec b), k)
  | .vsgnjxVx d a b k => some (4, .sgnjx, d, a, (.scalar b), k)
  | .vmergeVv d a b k => some (4, .merge, d, a, (.vec b), k)
  | .vmergeVx d a b k => some (4, .merge, d, a, (.scalar b), k)
  | .vmergeVi d a im k => some (4, .merge, d, a, (.imm im.toInt), k)
  | .vmvVv d b k => some (4, .mv, d, 0, (.vec b), k)
  | .vmvVx d b k => some (4, .mv, d, 0, (.scalar b), k)
  | .vmvVi d im k => some (4, .mv, d, 0, (.imm im.toInt), k)
  | .vsatVi d a im k => some (4, .sat, d, a, (.imm im.toNat), k)
  | .cvadd d sc => (c.chained 1).map fun a => (2, .add, d, a, (.vec sc), 0)
  | .cvsub d sc => (c.chained 1).map fun a => (2, .sub, d, a, (.vec sc), 0)
  | .cvmul d sc => (c.chained 1).map fun a => (2, .mul, d, a, (.vec sc), 0)
  | .cvmin d sc => (c.chained 1).map fun a => (2, .min, d, a, (.vec sc), 0)
  | .cvmax d sc => (c.chained 1).map fun a => (2, .max, d, a, (.vec sc), 0)
  | .cvand d sc => (c.chained 1).map fun a => (2, .and, d, a, (.vec sc), 0)
  | .cvor d sc => (c.chained 1).map fun a => (2, .or, d, a, (.vec sc), 0)
  | .cvxor d sc => (c.chained 1).map fun a => (2, .xor, d, a, (.vec sc), 0)
  | .cvaddx d sc => (c.chained 1).map fun a => (2, .add, d, a, (.scalar sc), 0)
  | .cvmulx d sc => (c.chained 1).map fun a => (2, .mul, d, a, (.scalar sc), 0)
  | _ => none

/-- What a function of majors 12 to 14 gives on a format (R170) under a mode; none for a dash of its table. -/
def vecValue (f : VFn) (fmt sew : Nat) (m : RMode) : Option (Nat → Nat → Nat) :=
  if isInteger fmt then intFn f (fmt == 2) sew
  else if isPacked fmt then packedFn f
  else (floatOf fmt sew).bind fun t => (floatFn f t).map fun g a b => (g.2 m a b).1

/-- The instructions of major 15 and CVMACC. -/
def macForm (c : Ctx) : Instr → Option (Nat × VMac × BitVec 5 × BitVec 5 × BitVec 5 × BitVec 3)
  | .vmacc d a b k => some (4, .macc, d, a, b, k)
  | .vnmsac d a b k => some (4, .nmsac, d, a, b, k)
  | .vmadd d a b k => some (4, .madd, d, a, b, k)
  | .vnmsub d a b k => some (4, .nmsub, d, a, b, k)
  | .vwmacc d a b k => some (4, .wmacc, d, a, b, k)
  | .vwmul d a b k => some (4, .wmul, d, a, b, k)
  | .vwadd d a b k => some (4, .wadd, d, a, b, k)
  | .vwsub d a b k => some (4, .wsub, d, a, b, k)
  | .vqmacc d a b k => some (4, .qmacc, d, a, b, k)
  | .cvmacc d sc => (c.chained 1).map fun a => (2, .macc, d, a, sc, 0)
  | _ => none

/-- The special functions of major 16: function, vd, rounding field, vs2 and mask. -/
def specialForm : Instr → Option (VSpec × BitVec 5 × BitVec 3 × BitVec 5 × BitVec 3)
  | .vsqrt d r b k => some (.sqrt, d, r, b, k)
  | .vrsqrt d r b k => some (.rsqrt, d, r, b, k)
  | .vrcp d r b k => some (.rcp, d, r, b, k)
  | .vexp2 d r b k => some (.exp2, d, r, b, k)
  | .vlog2 d r b k => some (.log2, d, r, b, k)
  | .vtanh d r b k => some (.tanh, d, r, b, k)
  | .vsigm d r b k => some (.sigm, d, r, b, k)
  | _ => none

/-- The compares: comparison, kd, vs1, second operand, mask. -/
def compareForm : Instr → Option (Nat × BitVec 3 × BitVec 5 × VSrc × BitVec 3)
  | .vcmpeqVv d a b k => some (0, d, a, (.vec b), k)
  | .vcmpeqVx d a b k => some (0, d, a, (.scalar b), k)
  | .vcmpneVv d a b k => some (1, d, a, (.vec b), k)
  | .vcmpneVx d a b k => some (1, d, a, (.scalar b), k)
  | .vcmpltVv d a b k => some (2, d, a, (.vec b), k)
  | .vcmpltVx d a b k => some (2, d, a, (.scalar b), k)
  | .vcmpleVv d a b k => some (3, d, a, (.vec b), k)
  | .vcmpleVx d a b k => some (3, d, a, (.scalar b), k)
  | .vcmpgtVv d a b k => some (4, d, a, (.vec b), k)
  | .vcmpgtVx d a b k => some (4, d, a, (.scalar b), k)
  | .vcmpgeVv d a b k => some (5, d, a, (.vec b), k)
  | .vcmpgeVx d a b k => some (5, d, a, (.scalar b), k)
  | _ => none

/-- The mask operations and their compact forms. -/
def maskForm (c : Ctx) : Instr → Option (Nat × (Bool → Bool → Bool) × BitVec 3 × BitVec 3 × BitVec 3)
  | .kand d a b => some (4, Bool.and, d, a, b)
  | .kor d a b => some (4, Bool.or, d, a, b)
  | .kxor d a b => some (4, Bool.xor, d, a, b)
  | .kandn d a b => some (4, fun x y => x && !y, d, a, b)
  | .knot d a => some (4, fun x _ => !x, d, a, 0)
  | .ckand d b => (c.chained 2).map fun a => (2, Bool.and, d, a.setWidth 3, b)
  | .ckor d b => (c.chained 2).map fun a => (2, Bool.or, d, a.setWidth 3, b)
  | .ckxor d b => (c.chained 2).map fun a => (2, Bool.xor, d, a.setWidth 3, b)
  | _ => none

/-- The reductions: operator, whether in order, vd, vs1, vs2, mask. -/
def reductionForm : Instr → Option (VRedOp × Bool × BitVec 5 × BitVec 5 × BitVec 5 × BitVec 3)
  | .vred d a b k => some (.sum, false, d, a, b, k)
  | .vredmax d a b k => some (.max, false, d, a, b, k)
  | .vredmin d a b k => some (.min, false, d, a, b, k)
  | .vredand d a b k => some (.and, false, d, a, b, k)
  | .vredor d a b k => some (.or, false, d, a, b, k)
  | .vredxor d a b k => some (.xor, false, d, a, b, k)
  | .vredo d a b k => some (.sum, true, d, a, b, k)
  | _ => none

/-- G of R180: an element of a group as a permute reads it. -/
def gatherAt (s : State) (l : Ctx) (g : Grp) (j : Nat) : Nat :=
  if s.vlmax ≤ j ∨ (l.vl.toNat ≤ j ∧ l.tailKeep = false) then 0 else l.elem g j

/-! ### Vector memory -/

/-- The moving context has no store that others do not see and no value read ahead, takes part in no collective, and
stores as it retires (log 3): its accesses are performed in program order. -/
def State.InOrder (s : State) : Prop := s.pending = [] ∧ s.late = false ∧ s.ctx.early = [] ∧ s.ctx.colls = []

/-- The moving context is a stitch whose accesses to the stash window meet no map, stage queue, region, binding or channel
(R85, R86, R243, R258, R269, R334) and are performed in program order. -/
def State.OpenStash (s : State) : Prop :=
  s.kind = .stitch ∧ ((s.tileOf s.cur).map (·.desc.second)).getD false = false ∧ s.coreMaps = [] ∧ s.coreQueues = [] ∧
    (∀ n : Fin 8, s.sd.get n = none) ∧ (∀ n : Fin 16, s.wm.get n = none) ∧ (∀ c ∈ s.ctxs.toList, c.reserve = none) ∧
    s.InOrder

/-- An aligned access of `n` bytes within the open part of the stash window (R85). -/
def InWindow (a : Word) (n : Nat) : Prop :=
  a.toNat % n = 0 ∧ windowBase ≤ a.toNat ∧ a.toNat < windowBase + 0x3F0000

/-- Where it lies. -/
def windowPlace (a : Word) : Phys :=
  { cls := .stash, key := stashKey (a.toNat - windowBase), granule := some ((a.toNat - windowBase) / 16) }

/-- The address of element j, field f (R187). -/
def VMode.at (m : VMode) (l : Ctx) (a : BitVec 5) (nf j f : Nat) : Word :=
  let base := (l.rx a).toInt
  let esz : Int := l.sew / 8
  BitVec.ofInt 64 (match m with
    | .unit => base + j * esz
    | .stride r => base + j * (l.rx r).toInt
    | .index r => base + l.elem (l.grp r) j
    | .segments => base + (j * nf + f) * esz
    | .strideSegments r => base + j * (l.rx r).toInt + f * esz)

/-- The vector loads without a qualifier: mode, vd, rs1, mask, fields, whether a segment load. -/
def loadForm : Instr → Option (VMode × BitVec 5 × BitVec 5 × BitVec 3 × Nat × Bool)
  | .vld d a k _ f => if f = 0 then some (.unit, d, a, k, 1, false) else none
  | .vlds d a b k _ f => if f = 0 then some (.stride b, d, a, k, 1, false) else none
  | .vldx d a b k _ f => if f = 0 then some (.index b, d, a, k, 1, false) else none
  | .vlseg d a k _ n => if n = 0 then none else some (.segments, d, a, k, n.toNat + 1, true)
  | .vlsseg d a b k _ n => if n = 0 then none else some (.strideSegments b, d, a, k, n.toNat + 1, true)
  | _ => none

/-- The full-empty loads: mode, vd, rs1, mask, whether they empty. -/
def fullEmptyForm : Instr → Option (VMode × BitVec 5 × BitVec 5 × BitVec 3 × Bool)
  | .vld d a k _ f => if f = 1 ∨ f = 2 then some (.unit, d, a, k, f == 2) else none
  | .vlds d a b k _ f => if f = 1 ∨ f = 2 then some (.stride b, d, a, k, f == 2) else none
  | .vldx d a b k _ f => if f = 1 ∨ f = 2 then some (.index b, d, a, k, f == 2) else none
  | _ => none

/-- The vector stores: mode, vd, rs1, mask, fields. -/
def storeForm : Instr → Option (VMode × BitVec 5 × BitVec 5 × BitVec 3 × Nat)
  | .vst d a k _ => some (.unit, d, a, k, 1)
  | .vsts d a b k _ => some (.stride b, d, a, k, 1)
  | .vstx d a b k _ => some (.index b, d, a, k, 1)
  | .vsseg d a k _ n => if n = 0 then none else some (.segments, d, a, k, n.toNat + 1)
  | .vssseg d a b k _ n => if n = 0 then none else some (.strideSegments b, d, a, k, n.toNat + 1)
  | _ => none

/-- The vector atomics: operation on signed and on other tags, whether every class is accepted, operands. -/
def amoForm : Instr → Option (AtomOp × AtomOp × Bool × BitVec 5 × BitVec 5 × BitVec 5 × BitVec 3 × BitVec 3)
  | .vamoSwap d a b k sc => some (.swap, .swap, true, d, a, b, k, sc)
  | .vamoAdd d a b k sc => some (.add, .add, false, d, a, b, k, sc)
  | .vamoAnd d a b k sc => some (.and, .and, false, d, a, b, k, sc)
  | .vamoOr d a b k sc => some (.or, .or, false, d, a, b, k, sc)
  | .vamoXor d a b k sc => some (.xor, .xor, false, d, a, b, k, sc)
  | .vamoMin d a b k sc => some (.min, .minu, false, d, a, b, k, sc)
  | .vamoMax d a b k sc => some (.max, .maxu, false, d, a, b, k, sc)
  | _ => none

/-- The reductions on write: operator and operands. -/
def reduceForm : Instr → Option (RedOp × BitVec 5 × BitVec 5 × BitVec 5 × BitVec 3 × BitVec 3)
  | .vrdwAdd d a b k sc => some (.add, d, a, b, k, sc)
  | .vrdwMax d a b k sc => some (.max, d, a, b, k, sc)
  | .vrdwMin d a b k sc => some (.min, d, a, b, k, sc)
  | .vrdwExpsum d a b k sc => some (.expsum, d, a, b, k, sc)
  | _ => none

/-- The waits on words: comparison (0 equal, 1 not, 2 at least, 3 less) and operands. -/
def waitForm : Instr → Option (Nat × BitVec 5 × BitVec 5 × BitVec 5 × BitVec 3 × BitVec 3)
  | .vwaitEq d a b k sc => some (0, d, a, b, k, sc)
  | .vwaitNe d a b k sc => some (1, d, a, b, k, sc)
  | .vwaitGe d a b k sc => some (2, d, a, b, k, sc)
  | .vwaitLt d a b k sc => some (3, d, a, b, k, sc)
  | _ => none

/-- A load of `n` bytes at `a` by the moving context passes every check, waits for nothing and gives `v`: on any page that
permits it, of general, host, peer or plane memory or the stash window. -/
def Reads (s : State) (a : Word) (n v : Nat) (t : State) : Prop :=
  ∃ ph u, checkAccess .load a n s = .ok ph u ∧ stalls .load a n ph u = .ok () u ∧ v = u.loadValue ph n ∧ t = u.afterLoad ph n

/-- A store of the low `n` bytes of `v` at `a` by the moving context passes every check, waits for nothing and has room; its
place is `ph`. -/
def Writes (s : State) (a : Word) (n v : Nat) (ph : Phys) (t : State) : Prop :=
  ∃ u, checkAccess .store a n s = .ok ph u ∧ stalls .store a n ph u = .ok () u ∧ queueRoom ph u = .ok () u ∧
    t = u.store a ph n v

/-- The bypass bit of a vector load or store (R191). -/
def bypassOf : Instr → BitVec 1
  | .vld _ _ _ y _ => y
  | .vlds _ _ _ _ y _ => y
  | .vldx _ _ _ _ y _ => y
  | .vlseg _ _ _ y _ => y
  | .vlsseg _ _ _ _ y _ => y
  | .vst _ _ _ y => y
  | .vsts _ _ _ _ y => y
  | .vstx _ _ _ _ y => y
  | .vsseg _ _ _ y _ => y
  | .vssseg _ _ _ _ y _ => y
  | _ => 0

/-- The fields of element j written. -/
def Ctx.putFields (x c : Ctx) (d : BitVec 5) (nf j : Nat) (v : Nat → Nat) : Ctx :=
  (List.range nf).foldl (fun x f => x.putElem (fieldGrp c d f) j (v f)) x

/-- A byte that no store of the moving context still to be performed covers. -/
def State.settled (s : State) (key : Nat) : Prop :=
  ∀ e ∈ s.pending, e.by s.cur = true → key < e.key ∨ e.key + e.size ≤ key

/-! ### Plane forms -/

/-- The plane forms: function, destination, first source, second source (R202). -/
def planeFormOf : Instr → Option (PFn × BitVec 5 × BitVec 5 × PSrc)
  | .vaddPVv d a b => some (.add, d, a, (.plane b))
  | .vaddPVx d a b => some (.add, d, a, (.scalar b))
  | .vsubPVv d a b => some (.sub, d, a, (.plane b))
  | .vrsubPVi d a im => some (.rsub, d, a, (.imm im.toInt))
  | .vmulPVv d a b => some (.mul, d, a, (.plane b))
  | .vmulPVx d a b => some (.mul, d, a, (.scalar b))
  | .vminPVv d a b => some (.min, d, a, (.plane b))
  | .vmaxPVv d a b => some (.max, d, a, (.plane b))
  | .vandPVv d a b => some (.and, d, a, (.plane b))
  | .vorPVv d a b => some (.or, d, a, (.plane b))
  | .vxorPVv d a b => some (.xor, d, a, (.plane b))
  | .vxorPVi d a im => some (.xor, d, a, (.imm im.toInt))
  | .vsllPVi d a im => some (.sll, d, a, (.imm im.toNat))
  | .vsrlPVi d a im => some (.srl, d, a, (.imm im.toNat))
  | .vsraPVi d a im => some (.sra, d, a, (.imm im.toNat))
  | .vsaddPVv d a b => some (.sadd, d, a, (.plane b))
  | .vssubPVv d a b => some (.ssub, d, a, (.plane b))
  | .vmergePVv d a b => some (.merge, d, a, (.plane b))
  | .vsatPVi d a im => some (.sat, d, a, (.imm im.toNat))
  | .vsextP d b => some (.sext, d, b, .none)
  | .vzextP d b => some (.zext, d, b, .none)
  | .vnclipP d b => some (.nclip, d, b, .none)
  | .vcmpeqPVv d a b => some (.eq, (d.setWidth 5), a, (.plane b))
  | .vcmpnePVv d a b => some (.ne, (d.setWidth 5), a, (.plane b))
  | .vcmpltPVv d a b => some (.lt, (d.setWidth 5), a, (.plane b))
  | .vcmplePVv d a b => some (.le, (d.setWidth 5), a, (.plane b))
  | .vcmpgtPVv d a b => some (.gt, (d.setWidth 5), a, (.plane b))
  | .vcmpgePVv d a b => some (.ge, (d.setWidth 5), a, (.plane b))
  | .vcmpeqPVx d a b => some (.eq, (d.setWidth 5), a, (.scalar b))
  | .vcmpnePVx d a b => some (.ne, (d.setWidth 5), a, (.scalar b))
  | .vcmpltPVx d a b => some (.lt, (d.setWidth 5), a, (.scalar b))
  | .vcmplePVx d a b => some (.le, (d.setWidth 5), a, (.scalar b))
  | .vcmpgtPVx d a b => some (.gt, (d.setWidth 5), a, (.scalar b))
  | .vcmpgePVx d a b => some (.ge, (d.setWidth 5), a, (.scalar b))
  | _ => none

/-- A named descriptor is valid, within its limits and at least pvl long (R49, R204). -/
def State.pdReady (s : State) (n : Nat) : Prop :=
  pdValid (s.ctx.pdAt n) = true ∧ s.pdLimits (s.ctx.pdAt n) = true ∧ s.ctx.pvl.toNat ≤ pdCount (s.ctx.pdAt n)

/-- The carriage queue of the stack takes one more plane instruction of the context, if pvl asks for one (R205). -/
def State.planeRoom (s : State) (stack : Nat) : Prop :=
  s.ctx.pvl = 0 ∨ (s.ctx.planes.filter fun p => p.stack == stack).length < 32

/-- The context with a plane instruction queued, unless pvl is 0 (R204, R205). -/
def Ctx.queued (c : Ctx) (o : PlaneOp) : Ctx := if c.pvl = 0 then c else { c with planes := c.planes ++ [o] }

/-- The index sources hold integers of their width (R166). -/
def IndexesTagged (l : Ctx) (gs : List Grp) : Prop :=
  ∀ g ∈ gs, ∀ r ∈ g.regs, isInteger (l.srcTag g r).1 = true ∧ (l.srcTag g r).2 = g.eew

end Sys2Proof.Machine
end

