-- ==== Sys2Proof/Certificates/Slice0/Obligations.lean ====
section
/-!
DEFINITION. The statements of this model. Each is titled and cited in OBLIGATIONS.json; what a statement takes from the
model and not from the spec is named in its docstring.
-/
open Sys2Proof Sys2Proof.Machine

/-- State.reset: every context stopped, x registers, vl, vtype, vstart, pvl, fflags, frm and instret 0, srseed 1,
throwtmo 100, stimecmp all ones, lane cap 8, module in OP6, no feature accepted, no partition. Model's choice, no rule
of the spec: the privilege U of both needles, pc 0 and the other reset values that no rule states (log 2). (R40, R56,
R302, R311, R398) -/
def Obligations.ResetLeavesEveryContextStopped : Prop :=
  (∀ c : Fin 12,
    let x := State.reset.ctxs.get c
    x.run = .stopped ∧ (∀ r, x.rx r = 0) ∧ x.vl = 0 ∧ x.vtype = 0 ∧ x.vstart = 0 ∧ x.pvl = 0 ∧ x.fflags = 0 ∧
      x.frm = 0 ∧ x.instret = 0 ∧ x.srseed = 1 ∧ x.throwtmo = 100 ∧ x.sys.stimecmp = BitVec.allOnes 64 ∧
      x.sys.sie = 0 ∧ x.sys.svec = 0 ∧ x.sys.mvec = 0 ∧ x.priv = 0) ∧
  State.reset.laneCap = 8 ∧ State.reset.mgmt.power = .op 6 ∧ State.reset.mgmt.accepted = 0 ∧
  (∀ p : Fin 16, (State.reset.part p).on = false)

/-- State.reset meets the invariant of StepKeepsMemoryCanonical. Model's choice, no rule of the spec: that bytes, rows
and latches which nothing has written read 0 (log 1). (R96, R398) -/
def Obligations.ResetKeepsMemoryCanonical : Prop := State.reset.Inv

/-- For every state whose byte memory and row store are canonical (keys strictly rising, no zero entry), if the step
answers a next state, that state is canonical too. (R96, R207) -/
def Obligations.StepKeepsMemoryCanonical : Prop :=
  ∀ s t : State, s.Inv → step s = .next t → t.Inv

/-- Where the schedule names a context that may move, no T level, pending trap, detected plane error or end of a cast
block comes first (threadEvent, castOver), and the bytes fetched at its pc decode to a well-formed instruction i, the
step is exec of i at the state one cycle later with the bits in ir and, for the first instruction of a launch, its
cycle noted (noteFirst), after which an access that was to fail in this move is no longer armed (disarmed), followed
by what the hardware does after every move (followed). A guest whose budget is spent executes nothing. Model's choice,
no rule of the spec: which agent moves next, one move of the schedule at a time (log 3); which pending stores a
release performs and which reads ahead an acquire forgets (log 5); what counts as a cycle and as the enqueue of an
entry (log 6). (R17, R81, R125, R136, R247, R301, R332) -/
def Obligations.ScheduledThreadRunsDecodedInstruction : Prop :=
  ∀ (s u : State) (c : Fin 12) (rest : List Choice) (w n : Nat) (i : Instr),
    let p := { s with sched := rest }.prepared
    s.sched = .thread c :: rest →
    p.movable c = true → p.active = true →
    threadEvent c p = none → castOver (p.ctxs.get c) = false →
    (∀ g, (p.ctxs.get c).guest = some g → g.budget ≠ 0) →
    fetchBits (State.noteFirst { p with cur := c }) = .ok w u →
    decode (leBytes 8 w) = .ok (i, n) → i.staticFault = none →
    step s = followed p (disarmed c (exec i { u with ir := BitVec.ofNat 64 w }))

/-- Where every halfword of the instruction lies on an executable page, checked without a change of state, no memory
has been stored to since the launch started on the core, and the context is in no cast block, the fetched bits are the
little-endian bytes at the pc: 2 of them when bit 0 is 0, 4 when bits 1:0 are 01, 8 when they are 11. (R81, R125) -/
def Obligations.FetchReadsTheBytesAtThePc : Prop :=
  ∀ (s : State) (k : Nat → Nat) (n : Nat),
    s.codeNew = 0 → s.ctx.castEnd = none → n = instrLength (s.readN (k 0) 2) →
    (∀ i, i < n / 2 → ∃ ph, checkAccess .fetch (s.ctx.pc + BitVec.ofNat 64 (2 * i)) 2 s = .ok ph s ∧ ph.key = k i) →
    fetchBits s = .ok ((List.range (n / 2)).foldr (fun i v => s.readN (k i) 2 + 65536 * v) 0) s

/-- Where the fetched bits decode to an instruction whose static check gives a cause, or decode to nothing, the fetch
ends in a trap of that cause with the bits as info. (R136, R204) -/
def Obligations.IllFormedInstructionTraps : Prop :=
  ∀ (s u : State) (w : Nat), (∀ g, s.ctx.guest = some g → g.budget ≠ 0) → fetchBits s = .ok w u →
    (∀ e, decode (leBytes 8 w) = .error e →
      fetchInstr s = .error (.trap e.cause (BitVec.ofNat 64 w)) { u with ir := BitVec.ofNat 64 w }) ∧
    (∀ i n cause, decode (leBytes 8 w) = .ok (i, n) → i.staticFault = some cause →
      fetchInstr s = .error (.trap cause (BitVec.ofNat 64 w)) { u with ir := BitVec.ofNat 64 w })

/-- ADD, SUB, AND, OR, XOR, SLL, SRL, SRA, SLT, SLTU, MIN, MAX, MINU, MAXU, ANDN, ORN, MUL, MULH, MULHU, MULHSU, DIV,
DIVU, REM, REMU, ROL, ROR answer the state in which X[rd] is written and the instruction has retired (see
RetirementFrame), in every state. (R72, R142, R143, R144) -/
def Obligations.IntegerRegisterResults : Prop :=
  ∀ (d a b : BitVec 5) (s : State),
    let x := s.ctx.rx a
    let y := s.ctx.rx b
    exec (.add d a b) s = .next (s.doneX 4 d (x + y)) ∧
    exec (.sub d a b) s = .next (s.doneX 4 d (x - y)) ∧
    exec (.and d a b) s = .next (s.doneX 4 d (x &&& y)) ∧
    exec (.or d a b) s = .next (s.doneX 4 d (x ||| y)) ∧
    exec (.xor d a b) s = .next (s.doneX 4 d (x ^^^ y)) ∧
    exec (.sll d a b) s = .next (s.doneX 4 d (x <<< (y.toNat % 64))) ∧
    exec (.srl d a b) s = .next (s.doneX 4 d (x >>> (y.toNat % 64))) ∧
    exec (.sra d a b) s = .next (s.doneX 4 d (x.sshiftRight (y.toNat % 64))) ∧
    exec (.slt d a b) s = .next (s.doneX 4 d (if x.slt y then 1 else 0)) ∧
    exec (.sltu d a b) s = .next (s.doneX 4 d (if x.ult y then 1 else 0)) ∧
    exec (.min d a b) s = .next (s.doneX 4 d (if x.slt y then x else y)) ∧
    exec (.max d a b) s = .next (s.doneX 4 d (if x.slt y then y else x)) ∧
    exec (.minu d a b) s = .next (s.doneX 4 d (if x.ult y then x else y)) ∧
    exec (.maxu d a b) s = .next (s.doneX 4 d (if x.ult y then y else x)) ∧
    exec (.andn d a b) s = .next (s.doneX 4 d (x &&& ~~~y)) ∧
    exec (.orn d a b) s = .next (s.doneX 4 d (x ||| ~~~y)) ∧
    exec (.mul d a b) s = .next (s.doneX 4 d (x * y)) ∧
    exec (.mulh d a b) s = .next (s.doneX 4 d (BitVec.ofInt 64 (x.toInt * y.toInt / 2 ^ 64))) ∧
    exec (.mulhu d a b) s = .next (s.doneX 4 d (BitVec.ofNat 64 (x.toNat * y.toNat / 2 ^ 64))) ∧
    exec (.mulhsu d a b) s = .next (s.doneX 4 d (BitVec.ofInt 64 (x.toInt * y.toNat / 2 ^ 64))) ∧
    exec (.div d a b) s = .next (s.doneX 4 d (if y = 0 then BitVec.allOnes 64 else x.sdiv y)) ∧
    exec (.divu d a b) s = .next (s.doneX 4 d (if y = 0 then BitVec.allOnes 64 else x / y)) ∧
    exec (.rem d a b) s = .next (s.doneX 4 d (if y = 0 then x else x.srem y)) ∧
    exec (.remu d a b) s = .next (s.doneX 4 d (if y = 0 then x else x % y)) ∧
    exec (.rol d a b) s = .next (s.doneX 4 d (x.rotateLeft (y.toNat % 64))) ∧
    exec (.ror d a b) s = .next (s.doneX 4 d (x.rotateRight (y.toNat % 64)))

/-- CLZ, CTZ and POPC retire with a count n in X[rd]: for CLZ the n top bits are zero and bit 63 - n is one unless n =
64; for CTZ the n low bits are zero and bit n is one unless n = 64; for POPC n is the number of ones. LIH writes sign-
extend(imm19) × 4,096, ADDPC adds that to its own address, LIX writes the sign-extended payload[48:0], LIXH writes
payload[15:0] into bits 63:48 and keeps bits 47:0. (R144, R132, R146) -/
def Obligations.BitCountAndConstantResults : Prop :=
  (∀ (d a : BitVec 5) (s : State),
    let x := s.ctx.rx a
    (∃ n, n ≤ 64 ∧ exec (.clz d a) s = .next (s.doneX 4 d (BitVec.ofNat 64 n)) ∧
      (∀ j, j < n → x.getLsbD (63 - j) = false) ∧ (n < 64 → x.getLsbD (63 - n) = true)) ∧
    (∃ n, n ≤ 64 ∧ exec (.ctz d a) s = .next (s.doneX 4 d (BitVec.ofNat 64 n)) ∧
      (∀ j, j < n → x.getLsbD j = false) ∧ (n < 64 → x.getLsbD n = true)) ∧
    exec (.popc d a) s = .next (s.doneX 4 d (BitVec.ofNat 64 ((List.range 64).countP fun j => x.getLsbD j)))) ∧
  (∀ (d : BitVec 5) (i : BitVec 19) (w : BitVec 49) (h : BitVec 16) (s : State),
    exec (.lih d i) s = .next (s.doneX 4 d (i.signExtend 64 * 4096)) ∧
    exec (.addpc d i) s = .next (s.doneX 4 d (s.ctx.pc + i.signExtend 64 * 4096)) ∧
    exec (.lix d w) s = .next (s.doneX 8 d (w.signExtend 64)) ∧
    ∃ v : Word, exec (.lixh d h) s = .next (s.doneX 8 d v) ∧
      (∀ j, j < 48 → v.getLsbD j = (s.ctx.rx d).getLsbD j) ∧ (∀ j, j < 16 → v.getLsbD (48 + j) = h.getLsbD j))

/-- ADDI, ANDI, ORI, XORI, SLTI with the sign-extended imm12, SLLI, SRLI, SRAI with imm12[5:0], retire with the result
in X[rd]. (R145) -/
def Obligations.IntegerImmediateResults : Prop :=
  ∀ (d a : BitVec 5) (im : BitVec 12) (h : BitVec 6) (s : State),
    let x := s.ctx.rx a
    let i : Word := im.signExtend 64
    exec (.addi d a im) s = .next (s.doneX 4 d (x + i)) ∧
    exec (.andi d a im) s = .next (s.doneX 4 d (x &&& i)) ∧
    exec (.ori d a im) s = .next (s.doneX 4 d (x ||| i)) ∧
    exec (.xori d a im) s = .next (s.doneX 4 d (x ^^^ i)) ∧
    exec (.slti d a im) s = .next (s.doneX 4 d (if x.slt i then 1 else 0)) ∧
    exec (.slli d a h) s = .next (s.doneX 4 d (x <<< h.toNat)) ∧
    exec (.srli d a h) s = .next (s.doneX 4 d (x >>> h.toNat)) ∧
    exec (.srai d a h) s = .next (s.doneX 4 d (x.sshiftRight h.toNat))

/-- The states doneX and done in which the register-only scalar instructions end: x0 still reads 0, X[rd] the result
(discarded for x0), every other register as before, pc on by the length, ldst the destination or V = 0, instret one
more, a guest budget one less; every other field of the context, every other context, all memory and all other state
as before. Model's choice, no rule of the spec: that an instruction without a destination keeps the class and number
bits of ldst, which is masked by 0x7F (log 12). (R40, R54, R142, R157, R281) -/
def Obligations.RetirementFrame : Prop :=
  ∀ (s : State) (n : Nat) (d : BitVec 5) (v : Word),
    let c := s.ctx
    (∃ x : Vector Word 32,
      s.doneX n d v = s.upd (fun _ => { c with
        x := x, pc := c.pc + BitVec.ofNat 64 n, ldst := 0x80#8 ||| d.setWidth 8, instret := c.instret + 1,
        held := false, wait := none, spilled := false, begun := false, pushed := [], reserve := none,
        guest := c.guest.map fun g => { g with budget := g.budget - 1 } }) ∧
      (s.doneX n d v).ctx.rx 0 = 0 ∧ (d ≠ 0 → (s.doneX n d v).ctx.rx d = v) ∧
      ∀ r, r ≠ d → (s.doneX n d v).ctx.rx r = c.rx r) ∧
    s.done n = s.upd (fun _ => { c with
      pc := c.pc + BitVec.ofNat 64 n, ldst := c.ldst &&& 0x7F#8, instret := c.instret + 1,
      held := false, wait := none, spilled := false, begun := false, pushed := [], reserve := none,
      guest := c.guest.map fun g => { g with budget := g.budget - 1 } }) ∧
    ∀ (x : Ctx) (o : Fin 12), o ≠ s.cur → (s.upd fun _ => x).ctxs.get o = s.ctxs.get o ∧ (s.upd fun _ => x).ctx = x

/-- BEQ, BNE, BLT, BGE, BLTU, BGEU answer the jump to pc + 2 × sign-extend(off12) where the comparison holds, the
retired state at pc + 4 where it does not. (R150) -/
def Obligations.BranchesGoWhereTheyCompare : Prop :=
  ∀ (a b : BitVec 5) (im : BitVec 12) (s : State),
    let x := s.ctx.rx a
    let y := s.ctx.rx b
    let taken := s.jump (s.ctx.pc + 2 * im.signExtend 64) (ldNone s.ctx.ldst)
    ((x = y) → exec (.beq a b im) s = .next taken) ∧ (¬(x = y) → exec (.beq a b im) s = .next (s.done 4)) ∧
    ((x ≠ y) → exec (.bne a b im) s = .next taken) ∧ (¬(x ≠ y) → exec (.bne a b im) s = .next (s.done 4)) ∧
    ((x.slt y = true) → exec (.blt a b im) s = .next taken) ∧ (¬(x.slt y = true) → exec (.blt a b im) s = .next (s.done 4)) ∧
    ((x.slt y = false) → exec (.bge a b im) s = .next taken) ∧ (¬(x.slt y = false) → exec (.bge a b im) s = .next (s.done 4)) ∧
    ((x.ult y = true) → exec (.bltu a b im) s = .next taken) ∧ (¬(x.ult y = true) → exec (.bltu a b im) s = .next (s.done 4)) ∧
    ((x.ult y = false) → exec (.bgeu a b im) s = .next taken) ∧ (¬(x.ult y = false) → exec (.bgeu a b im) s = .next (s.done 4))

/-- JAL goes to pc + 2 × off20 and JALR to an even X[rs1] + imm12, with X[rd] = pc + 4. An odd target of JALR raises
cause 0x03 with the target as info and writes nothing first. (R151) -/
def Obligations.JumpsLinkAndGo : Prop :=
  ∀ (d a : BitVec 5) (f : BitVec 20) (im : BitVec 12) (s : State),
    let linked := s.upd fun c => c.setX d (c.pc + 4)
    let t := s.ctx.rx a + im.signExtend 64
    exec (.jal d f) s = .next (linked.jump (s.ctx.pc + 2 * f.signExtend 64) (ldX d)) ∧
    (t.getLsbD 0 = false → exec (.jalr d a im) s = .next (linked.jump t (ldX d))) ∧
    (t.getLsbD 0 = true → exec (.jalr d a im) s = .next (s.raise 0x03#8 t))

/-- On a stitch or a needle, the state of a taken transfer: pc at the target, ldst and instret as at retirement, x
registers as they were, the cast block left; on a needle with its sequencer on, each T level whose half-open range
from start to end does not hold the target becomes inactive with li 0, every other level stays; all other state as
before. On a guest, a transfer of control to 0x7FFFFFFFBFFFF0 ends the guest with a reply of x10 to x13; any other
target is taken as a jump. Model's choice, no rule of the spec: that a needle in STOP raises a pending plane error
first (log 40); that a STOP waits for the stitches of its own tile (log 72). (R18, R151, R247, R280, R281) -/
def Obligations.JumpsLeaveLevelsAndEndGuests : Prop :=
  (∀ (s : State) (target : Word) (ld : BitVec 8), s.kind ≠ .guest →
    let c := s.ctx
    ∃ ls : Vector LoopLevel 6,
      s.jump target ld = s.upd (fun _ => { c.retire ld with pc := target, castEnd := none, levels := ls }) ∧
      (s.kind = .stitch → ls = c.levels) ∧ (c.seqOn = false → ls = c.levels) ∧
      (∀ (t : Tile) (n : Fin 6) (l : Level), s.kind = .needle → c.seqOn = true → s.tileOf s.cur = some t →
        t.desc.levels[n.val]? = some l →
        ls.get n = if l.kind = 2 ∧ (target.toNat < l.start ∨ l.stop ≤ target.toNat)
          then { active := false, iter := 0, li := 0 } else c.levels.get n)) ∧
  (∀ (s : State) (target : Word) (ld : BitVec 8), s.kind = .guest →
    let t := s.upd fun c => { c.retire ld with pc := target, castEnd := none }
    (target = 0x7FFFFFFFBFFFF0#64 → s.jump target ld =
      t.endGuest s.cur { gcause := none, info := 0, vals := [s.ctx.rx 10, s.ctx.rx 11, s.ctx.rx 12, s.ctx.rx 13] }) ∧
    (target ≠ 0x7FFFFFFFBFFFF0#64 → s.jump target ld = t))

/-- VLOOP with vl = 0 or a count of at most vl writes 0 and goes on; otherwise it writes the count less vl and
continues at pc + 2 × imm12. It ends a strip of the channels of its context (advanceChannels) either way. (R152) -/
def Obligations.VloopCountsDown : Prop :=
  ∀ (d : BitVec 5) (im : BitVec 12) (s : State),
    let n := (s.ctx.rx d).toNat
    let vl := s.ctx.vl.toNat
    let u := s.advanceChannels
    ((vl = 0 ∨ n ≤ vl) → exec (.vloop d im) s = .next (u.doneX 4 d 0)) ∧
    (vl ≠ 0 → vl < n → exec (.vloop d im) s = .next
      ((u.upd fun c => c.setX d (BitVec.ofNat 64 (n - vl))).jump (s.ctx.pc + 2 * im.signExtend 64) (ldX d)))

/-- Where the access at the effective address passes every check (alignment, translation, class, permission:
checkAccess) and waits for nothing (stalls), LB, LBU, LH, LHU, LW, LWU, LD retire with the little-endian bytes at that
place extended as R147 says, and LQ with bytes 0 to 7 in X[rd] and 8 to 15 in X[rd + 1]. The bytes are those that the
context sees (loadValue: its own latest store, else what memory holds or held when it read ahead), the state after is
afterLoad. (R142, R147, R148) -/
def Obligations.ScalarLoadsRead : Prop :=
  ∀ (d a : BitVec 5) (im : BitVec 12) (s u : State) (ph : Phys),
    let ea := s.ctx.rx a + im.signExtend 64
    let Readable (n : Nat) : Prop := checkAccess .load ea n s = .ok ph u ∧ stalls .load ea n ph u = .ok () u
    (Readable 1 → let v := u.loadValue ph 1; exec (.lb d a im) s = .next ((u.afterLoad ph 1).doneX 4 d ((BitVec.ofNat 8 v).signExtend 64))) ∧
    (Readable 1 → let v := u.loadValue ph 1; exec (.lbu d a im) s = .next ((u.afterLoad ph 1).doneX 4 d ((BitVec.ofNat 8 v).setWidth 64))) ∧
    (Readable 2 → let v := u.loadValue ph 2; exec (.lh d a im) s = .next ((u.afterLoad ph 2).doneX 4 d ((BitVec.ofNat 16 v).signExtend 64))) ∧
    (Readable 2 → let v := u.loadValue ph 2; exec (.lhu d a im) s = .next ((u.afterLoad ph 2).doneX 4 d ((BitVec.ofNat 16 v).setWidth 64))) ∧
    (Readable 4 → let v := u.loadValue ph 4; exec (.lw d a im) s = .next ((u.afterLoad ph 4).doneX 4 d ((BitVec.ofNat 32 v).signExtend 64))) ∧
    (Readable 4 → let v := u.loadValue ph 4; exec (.lwu d a im) s = .next ((u.afterLoad ph 4).doneX 4 d ((BitVec.ofNat 32 v).setWidth 64))) ∧
    (Readable 8 → let v := u.loadValue ph 8; exec (.ld d a im) s = .next ((u.afterLoad ph 8).doneX 4 d (BitVec.ofNat 64 v))) ∧
    (Readable 16 → let v := u.loadValue ph 16
      exec (.lq d a im) s = .next (((u.afterLoad ph 16).upd fun c => c.setX (d + 1) (BitVec.ofNat 64 (v / 2 ^ 64))).doneX 4 d (BitVec.ofNat 64 v)))

/-- Where the access at the effective address passes every check, waits for nothing and its stage-queue granule has
room, SB, SH, SW, SD write the low 1, 2, 4, 8 bytes of X[rs2] there (store: MemoryReachedIsTheAccess states what it
writes and who sees it when), SQ X[rs2] below X[rs2 + 1], and retire. Model's choice, no rule of the spec: which
pending stores a release performs and which reads ahead an acquire forgets (log 5); that an instruction without a
destination clears ldst.V alone and keeps the class and number bits (log 12). (R147, R148, R149) -/
def Obligations.ScalarStoresWrite : Prop :=
  ∀ (a b : BitVec 5) (im : BitVec 12) (s u : State) (ph : Phys),
    let ea := s.ctx.rx a + im.signExtend 64
    let Writable (n : Nat) : Prop :=
      checkAccess .store ea n s = .ok ph u ∧ stalls .store ea n ph u = .ok () u ∧ queueRoom ph u = .ok () u
    let put (n v : Nat) : State := u.store ea ph n v
    (Writable 1 → exec (.sb a b im) s = .next ((put 1 (s.ctx.rx b).toNat).done 4)) ∧
    (Writable 2 → exec (.sh a b im) s = .next ((put 2 (s.ctx.rx b).toNat).done 4)) ∧
    (Writable 4 → exec (.sw a b im) s = .next ((put 4 (s.ctx.rx b).toNat).done 4)) ∧
    (Writable 8 → exec (.sd a b im) s = .next ((put 8 (s.ctx.rx b).toNat).done 4)) ∧
    (Writable 16 → exec (.sq a b im) s =
      .next ((put 16 ((s.ctx.rx b).toNat + 2 ^ 64 * (s.ctx.rx (b + 1)).toNat)).done 4))

/-- put, by which every store writes: the n bytes from its key read as the low bytes of the value, every other byte
reads as before, no context, partition, tile or control unit changes, and the granule of a stash write becomes full.
noteRead, what a read does besides returning bytes: every byte of memory, every context, partition, tile and control
unit is as before. After a store of n bytes a load of the same bytes by the context returns the value stored. In
program order (InOrder) a store to memory of this module is performed as it retires. A store that may stay unseen
(delayable) is the last of the pending ones. A release at a scope wider than stitch leaves no store of the context (of
its thread path) pending but, below domain scope, those to peer memory, and changes no byte outside its pending
stores. An acquire at a scope wider than stitch keeps of the values read ahead only those of peer memory (below domain
scope) and those whose bytes an agent has overwritten since that has no instance of this scope with the context, and
changes no memory. Model's choice, no rule of the spec: that bytes, rows and latches which nothing has written read 0
(log 1); which pending stores a release performs and which reads ahead an acquire forgets (log 5); what access
counters count (log 31); that a request for a host line is granted at once (log 64). (R5, R88, R96, R149, R147, R359,
R99, R101, R102, R104, R105, R371) -/
def Obligations.MemoryReachedIsTheAccess : Prop :=
  (∀ (s : State) (ph : Phys) (n v : Nat), ph.key + n ≤ 2 ^ 60 ∨ 2 ^ 60 ≤ ph.key →
    let t := s.put ph n v
    t.readN ph.key n = v % 256 ^ n ∧
    (∀ k, k < ph.key ∨ ph.key + n ≤ k → t.byte k = s.byte k) ∧
    t.ctxs = s.ctxs ∧ t.cur = s.cur ∧ t.parts = s.parts ∧ t.tiles = s.tiles ∧ t.launches = s.launches ∧
    t.sd = s.sd ∧ t.acc = s.acc ∧ t.wm = s.wm ∧ t.mgmt = s.mgmt ∧ t.checks = s.checks ∧
    (∀ g, ph.granule = some g → g ∈ t.full)) ∧
  (∀ (s : State) (ph : Phys),
    let t := s.noteRead ph
    t.mem = s.mem ∧ t.rows = s.rows ∧ t.ctxs = s.ctxs ∧ t.cur = s.cur ∧ t.parts = s.parts ∧ t.tiles = s.tiles ∧
    t.launches = s.launches ∧ t.sd = s.sd ∧ t.acc = s.acc ∧ t.wm = s.wm ∧ t.mgmt = s.mgmt ∧ t.redTags = s.redTags) ∧
  (∀ (s : State) (a : Word) (ph : Phys) (n v : Nat) (sc : BitVec 3), n ≠ 0 →
    let t := s.store a ph n v
    t.loadValue ph n = v % 256 ^ n ∧
    (s.InOrder → ph.cls ≠ .peer → t = s.put ph n v) ∧
    (s.delayable ph = true → ∃ l, t.pending = l ++ [{ ctx := s.cur.val, addr := a.toNat, key := ph.key, granule := ph.granule, size := n, value := v, seq := 0, red := none }]) ∧
    (sc ≠ 0 → ∀ e ∈ (s.releases sc).pending, e.by s.cur = true → sc.toNat < 5 ∧ e.peer = true) ∧
    (∀ k, (∀ e ∈ s.pending, e.by s.cur = true → k < e.key ∨ e.key + e.size ≤ k) → (s.releases sc).byte k = s.byte k) ∧
    (sc ≠ 0 → ∀ e ∈ (s.acquires sc).ctx.early, e ∈ s.ctx.early ∧
      (sc.toNat < 5 ∧ 2 ^ 53 ≤ e.key ∧ e.key < 2 ^ 54 ∨
        ∃ f, e.far = some f ∧ sc.toNat < f.1 ∧ f.2 = s.readN e.key e.size)) ∧
    (s.acquires sc).mem = s.mem ∧ (s.acquires sc).rows = s.rows)

/-- LH, LHU, LW, LWU, LD, LQ, SH, SW, SD, SQ at an effective address that is no multiple of their size raise cause
0x03 with the address as info, and write nothing. (R79, R147) -/
def Obligations.MisalignedAccessTraps : Prop :=
  ∀ (d a b : BitVec 5) (im : BitVec 12) (s : State),
    let ea := s.ctx.rx a + im.signExtend 64
    let trapped := s.raise 0x03#8 ea
    (ea.toNat % 2 ≠ 0 → exec (.lh d a im) s = .next trapped) ∧
    (ea.toNat % 2 ≠ 0 → exec (.lhu d a im) s = .next trapped) ∧
    (ea.toNat % 4 ≠ 0 → exec (.lw d a im) s = .next trapped) ∧
    (ea.toNat % 4 ≠ 0 → exec (.lwu d a im) s = .next trapped) ∧
    (ea.toNat % 8 ≠ 0 → exec (.ld d a im) s = .next trapped) ∧
    (ea.toNat % 16 ≠ 0 → exec (.lq d a im) s = .next trapped) ∧
    (ea.toNat % 2 ≠ 0 → exec (.sh a b im) s = .next trapped) ∧
    (ea.toNat % 4 ≠ 0 → exec (.sw a b im) s = .next trapped) ∧
    (ea.toNat % 8 ≠ 0 → exec (.sd a b im) s = .next trapped) ∧
    (ea.toNat % 16 ≠ 0 → exec (.sq a b im) s = .next trapped)

/-- Unless a needle selects RSR, FADD, FSUB, FMUL, FDIV, FSQRT, FMAC, FNMAC, FCVTFS, FCVTFU, FCVTSF, FCVTUF, FCVTFF
round under rm (or frm where rm is 0b111), write the result zero-extended to X[rd], add its flags to fflags and
retire; under RSR the context takes one draw. A needle that selects RSR raises cause 0x01. FMIN, FMAX, FSGNJ, FSGNJN,
FSGNJX, FEQ, FLT, FLE, FCLASS retire in every state with their result in X[rd] and their flags added; the sign
injections keep the magnitude of a and raise none. Model's choice, no rule of the spec: that open values are free
constants of Config (log 4). (R40, R66, R69, R70, R153, R155, R154) -/
def Obligations.ScalarFloatsComplete : Prop :=
  (∀ (d a b : BitVec 5) (r : BitVec 3) (t sc : BitVec 2) (s : State),
    let code := if r = 7 then s.ctx.frm else r
    let u := if code = 5 then s.upd fun c => { c with srseed := rsrStep c.srseed } else s
    let m : RMode := if code = 5 then { code := 5, u := (rsrStep s.ctx.srseed).toNat } else { code := code.toNat, u := 0 }
    let xa := (s.ctx.rx a).toNat % 2 ^ (ftFormat t).bits
    let x := (ftFormat t).decode xa
    let y := (ftFormat t).decode ((s.ctx.rx b).toNat % 2 ^ (ftFormat t).bits)
    let z := (ftFormat t).decode ((s.ctx.rx d).toNat % 2 ^ (ftFormat t).bits)
    let xs := (s.ctx.rx a).toNat % 2 ^ (ftFormat sc).bits
    let ends (v : Nat × BitVec 5) : Host.Outcome State Fault Refusal :=
      .next ((u.upd fun c => { c with fflags := c.fflags ||| v.2 }).doneX 4 d (BitVec.ofNat 64 v.1))
    (s.kind = .needle → code = 5 → exec (.fadd d a b r t) s = .next (s.raise 0x01#8 s.ir)) ∧
    (¬(s.kind = .needle ∧ code = 5) →
    exec (.fadd d a b r t) s = ends ((ftFormat t).add m x y) ∧
    exec (.fsub d a b r t) s = ends ((ftFormat t).add m x y.minus) ∧
    exec (.fmul d a b r t) s = ends ((ftFormat t).mul m x y) ∧
    exec (.fdiv d a b r t) s = ends ((ftFormat t).div m x y) ∧
    exec (.fsqrt d a r t) s = ends ((ftFormat t).sqrt m x) ∧
    exec (.fmac d a b r t) s = ends ((ftFormat t).fma m z x y) ∧
    exec (.fnmac d a b r t) s = ends ((ftFormat t).fma m z x.minus y) ∧
    exec (.fcvtfs d a r t) s = ends ((ftFormat t).ofInteger m (s.ctx.rx a).toInt) ∧
    exec (.fcvtfu d a r t) s = ends ((ftFormat t).ofInteger m (s.ctx.rx a).toNat) ∧
    exec (.fcvtsf d a r t) s = ends ((ftFormat t).toInt m true 64 xa) ∧
    exec (.fcvtuf d a r t) s = ends ((ftFormat t).toInt m false 64 xa) ∧
    exec (.fcvtff d a sc r t) s = ends ((ftFormat sc).convert (ftFormat t) m xs))) ∧
  (∀ (d a b : BitVec 5) (t : BitVec 2) (s : State),
    let w := (ftFormat t).bits
    let x := (s.ctx.rx a).toNat % 2 ^ w
    let y := (s.ctx.rx b).toNat % 2 ^ w
    let mag := x % 2 ^ (w - 1)
    let sx := x / 2 ^ (w - 1) % 2 == 1
    let sy := y / 2 ^ (w - 1) % 2 == 1
    let cmp (op : Nat) : Nat × BitVec 5 :=
      let r := (ftFormat t).compare op x y
      (if r.1 then 1 else 0, r.2)
    let ends (v : Nat × BitVec 5) : Host.Outcome State Fault Refusal :=
      .next ((s.upd fun c => { c with fflags := c.fflags ||| v.2 }).doneX 4 d (BitVec.ofNat 64 v.1))
    exec (.fmin d a b t) s = ends ((ftFormat t).minmax false x y) ∧
    exec (.fmax d a b t) s = ends ((ftFormat t).minmax true x y) ∧
    exec (.fsgnj d a b t) s = ends ((mag + (ftFormat t).signBit sy, 0)) ∧
    exec (.fsgnjn d a b t) s = ends ((mag + (ftFormat t).signBit (!sy), 0)) ∧
    exec (.fsgnjx d a b t) s = ends ((mag + (ftFormat t).signBit (sx != sy), 0)) ∧
    exec (.feq d a b t) s = ends (cmp 0) ∧
    exec (.flt d a b t) s = ends (cmp 2) ∧
    exec (.fle d a b t) s = ends (cmp 3) ∧
    exec (.fclass d a t) s = ends ((2 ^ (ftFormat t).classOf x, 0)))

/-- CSRRS and CSRRC with rs1 = x0, CSRRSI and CSRRCI with uimm = 0, on a CSR that the context and its privilege have
and that is not write-only, write its value to X[rd] and change nothing else. On an RW register that the context has
(W1C too for CSRRW and CSRRWI), other than tend and trcmd, with no reserved value: CSRRW, CSRRS, CSRRC and their I
forms write w, o OR w, o AND NOT w through the rules of the register (Ctx.writeCsr, Part.writeCsr) and give the old
value o to X[rd] (no read where rd = x0 for CSRRW and CSRRWI). A CSR that the context or its privilege does not have,
a write of a read-only register, and a setting or clearing form on a W1C register raise cause 0x01 with the
instruction bits; a reserved value raises cause 0x02 with the CSR address; nothing is written. Model's choice, no rule
of the spec: that open values are free constants of Config (log 4); which vector memory forms a guest executes (log
14); the info of interrupts and the moment of TM (log 66). (R56, R156, R297, R57, R157) -/
def Obligations.CsrAccesses : Prop :=
  (∀ (d : BitVec 5) (n : BitVec 12) (s : State), s.csrAllowed n.toNat = true → csrMap n.toNat ≠ some (.wo, false) →
    let read := s.doneX 4 d (s.csrValue n.toNat)
    exec (.csrrs d 0 n) s = .next read ∧ exec (.csrrc d 0 n) s = .next read ∧
    exec (.csrrsi d 0 n) s = .next read ∧ exec (.csrrci d 0 n) s = .next read) ∧
  (∀ (d a u : BitVec 5) (n : BitVec 12) (s : State), s.csrAllowed n.toNat = true →
    let o := s.csrValue n.toNat
    let w := s.ctx.rx a
    let i : Word := u.setWidth 64
    let put (v r : Word) : State :=
      ((s.upd fun c => c.writeCsr s.now n.toNat v).updPart s.corePart fun p => p.writeCsr s.now n.toNat v).doneX 4 d r
    let old : Word := if d = 0 then 0 else o
    let Free (v : Word) : Prop := s.csrReserved n.toNat v = false
    (∀ e, (csrMap n.toNat = some (.rw, e) ∨ csrMap n.toNat = some (.w1c, e)) →
      (Free w → exec (.csrrw d a n) s = .next (put w old)) ∧ (Free i → exec (.csrrwi d u n) s = .next (put i old))) ∧
    (∀ e, csrMap n.toNat = some (.rw, e) →
      (a ≠ 0 → Free (o ||| w) → exec (.csrrs d a n) s = .next (put (o ||| w) o)) ∧
      (a ≠ 0 → Free (o &&& ~~~w) → exec (.csrrc d a n) s = .next (put (o &&& ~~~w) o)) ∧
      (u ≠ 0 → Free (o ||| i) → exec (.csrrsi d u n) s = .next (put (o ||| i) o)) ∧
      (u ≠ 0 → Free (o &&& ~~~i) → exec (.csrrci d u n) s = .next (put (o &&& ~~~i) o)))) ∧
  (∀ (d a : BitVec 5) (n : BitVec 12) (s : State) (e : Bool),
    let illegal := s.raise 0x01#8 s.ir
    (s.csrAllowed n.toNat = false → exec (.csrrw d a n) s = .next illegal ∧ exec (.csrrs d a n) s = .next illegal) ∧
    (csrMap n.toNat = some (.ro, e) → exec (.csrrw d a n) s = .next illegal) ∧
    (csrMap n.toNat = some (.w1c, e) → a ≠ 0 → exec (.csrrs d a n) s = .next illegal) ∧
    (s.csrAllowed n.toNat = true → csrMap n.toNat = some (.rw, e) → s.csrReserved n.toNat (s.ctx.rx a) = true →
      exec (.csrrw d a n) s = .next (s.raise 0x02#8 (BitVec.ofNat 64 n.toNat))))

/-- Where the atomic access of 4 or 8 bytes at X[rs1] passes its checks, waits for nothing and has room, and the scope
is defined: SWAP, AADD, AAND, AOR, AXOR, AMIN, AMAX, AMINU, AMAXU write the operation of R158 on the old word and the
low bits of X[rs2]; CAS writes X[rs2] where the old word equals the low bits of X[rd], else it only reads; X[rd]
receives the old value, sign-extended; rl releases at the scope before it (releases), aq acquires after it (acquires).
LDA loads what the context sees and acquires. Model's choice, no rule of the spec: which pending stores a release
performs and which reads ahead an acquire forgets (log 5); what access counters count (log 31); that a request for a
host line is granted at once (log 64). (R142, R158, R159, R160) -/
def Obligations.AtomicsReadModifyWrite : Prop :=
  ∀ (d a b : BitVec 5) (q e : BitVec 1) (sc : BitVec 3) (z : BitVec 1) (s u : State) (ph : Phys), sc ≠ 7 →
    let n := if z = 1 then 8 else 4
    let w := 8 * n
    let ea := s.ctx.rx a
    let r := if e = 1 then s.releases sc else s
    let t := u.claim ph n
    let o := t.readN ph.key n
    let v := (s.ctx.rx b).toNat % 2 ^ w
    let orderIf (t : State) : State := if q = 1 then t.acquires sc else t
    let ends (t : State) (o : Nat) : Host.Outcome State Fault Refusal :=
      .next (t.doneX 4 d (BitVec.ofInt 64 (sintOf w o)))
    let wrote (x : Nat) : Host.Outcome State Fault Refusal :=
      ends (orderIf (((t.noteRead ph).noteStore ph.key n).put ph n x)) o
    (checkAccess .atomic ea n r = .ok ph u → stalls .atomic ea n ph u = .ok () u → queueRoom ph u = .ok () u →
    exec (.swap d a b q e sc z) s = wrote (v) ∧
    exec (.aadd d a b q e sc z) s = wrote ((o + v) % 2 ^ w) ∧
    exec (.aand d a b q e sc z) s = wrote (Nat.land o v) ∧
    exec (.aor d a b q e sc z) s = wrote (Nat.lor o v) ∧
    exec (.axor d a b q e sc z) s = wrote (Nat.xor o v) ∧
    exec (.amin d a b q e sc z) s = wrote (if sintOf w o < sintOf w v then o else v) ∧
    exec (.amax d a b q e sc z) s = wrote (if sintOf w o < sintOf w v then v else o) ∧
    exec (.aminu d a b q e sc z) s = wrote (min o v) ∧
    exec (.amaxu d a b q e sc z) s = wrote (max o v) ∧
      (o = (s.ctx.rx d).toNat % 2 ^ w → exec (.cas d a b q e sc z) s = wrote (s.ctx.rx b).toNat) ∧
      (o ≠ (s.ctx.rx d).toNat % 2 ^ w → exec (.cas d a b q e sc z) s = ends (orderIf (t.noteRead ph)) o)) ∧
    (checkAccess .load ea n s = .ok ph u → stalls .load ea n ph u = .ok () u →
      exec (.lda d a sc z) s = ends ((u.afterLoad ph n).acquires sc) (u.loadValue ph n))

/-- FENCE with a defined scope retires where no named class has work left: no delivered element (streams), no queued
plane instruction and no detected plane error (plane), no collective and no started strip (engines); with stores in P
it releases at its scope, with loads in S it acquires, with streams in S load streams forget what they fetched
(fenced). SBAR on a stitch retires where the named store streams are drained; named load streams forget what they
fetched. STL releases at its scope, stores the low bytes of X[rs2] and retires. Model's choice, no rule of the spec:
which pending stores a release performs and which reads ahead an acquire forgets (log 5); that an instruction without
a destination clears ldst.V alone and keeps the class and number bits (log 12). (R109, R160, R161, R162) -/
def Obligations.OrderingInstructionsComplete : Prop :=
  ∀ (p sc a b : BitVec 5) (c : BitVec 3) (m : BitVec 8) (z : BitVec 1) (s u : State) (ph : Phys),
    (c ≠ 7 →
      (p.getLsbD 2 = true → s.ctx.streamsDrained 255 = true) →
      (p.getLsbD 3 = true → s.ctx.planes = [] ∧ s.ctx.planeErr = []) →
      (p.getLsbD 4 = true → s.ctx.colls = [] ∧ s.stripsWritten s.cur = true) →
      exec (.fence p sc c) s = .next ((s.fenced p sc c).done 4)) ∧
    (s.kind = .stitch → s.ctx.streamsDrained m.toNat = true →
      exec (.sbar m) s = .next ((s.barred m.toNat).done 4)) ∧
    (let n := if z = 1 then 8 else 4
     let o := s.releases c
     c ≠ 7 → checkAccess .store (s.ctx.rx a) n o = .ok ph u → stalls .store (s.ctx.rx a) n ph u = .ok () u →
      queueRoom ph u = .ok () u →
      exec (.stl a b c z) s = .next ((u.store (s.ctx.rx a) ph n (s.ctx.rx b).toNat).done 4))

/-- One word of most majors, each written field by field from the spec, decodes to its instruction. Every 32-bit word
of major 30 or 31, every 64-bit word of a long major above 4 and every 16-bit word of op 0 is rejected as a reserved
major, which raises cause 0x01. (R126, R128, R130, R131, R132, R133, R125, R136) -/
def Obligations.SampleWordsDecodeAndReservedMajorsDoNot : Prop :=
  (decode (leBytes 2 0b01010_00101_00001_0) = .ok (.cadd 10 5, 2) ∧
  decode (leBytes 4 0b00011_00001_00010_0000000001_00001_01) = .ok (.sub 3 1 2, 4) ∧
  decode (leBytes 4 0b00011_00001_111111111111_000_00010_01) = .ok (.addi 3 1 0xFFF, 4) ∧
  decode (leBytes 4 0b11111_00001_00010_0000001_011_00101_01) = .ok (.sd 1 2 0xF81, 4) ∧
  decode (leBytes 4 0b00000_00000_000000000011_000_00000_01) = .ok (.pmark, 4) ∧
  decode (leBytes 4 0b01000_00100_00110_111_0_000000_01100_01) = .ok (.vaddVv 8 4 6 7, 4) ∧
  decode (leBytes 4 0b01000_00100_00110_000_1_000000_01100_01) = .ok (.vaddPVv 8 4 6, 4) ∧
  decode (leBytes 8 0b1000000000000000000000000000000000000000000000001_000_00111_00000_11) =
    .ok (.lix 7 0x1000000000001, 8)) ∧
  (∀ w : Nat,
    (w % 4 = 1 → 30 ≤ bitsAt w 2 5 → decode (leBytes 8 w) = .error .reservedMajor) ∧
    (w % 4 = 3 → 5 ≤ bitsAt w 2 5 → decode (leBytes 8 w) = .error .reservedMajor) ∧
    (w % 64 = 0 → decode (leBytes 8 w) = .error .reservedMajor) ∧ Reject.reservedMajor.cause = 0x01#8)

/-- For every instruction that has an encoding (every one that is no event), at every value of every operand, well
formed or not: decode of encodeBytes is the instruction with its length. (R125, R126, R128, R129, R130, R131, R132,
R133) -/
def Obligations.DecodeOfEncodeIsTheInstruction : Prop :=
  ∀ i : Instr, i.encodable = true → decode (encodeBytes i) = .ok (i, i.length)

/-- Whatever bytes decode to an instruction i of n bytes: i is no event, n is its length, and the first n bytes are
the encoding of i. No bit is ignored and no word has two readings. (R125, R128, R129, R130, R132, R133, R136) -/
def Obligations.EncodeOfDecodeIsTheBytes : Prop :=
  ∀ (bs : List Byte) (i : Instr) (n : Nat), decode bs = .ok (i, n) →
    i.encodable = true ∧ n = i.length ∧ bs.take n = encodeBytes i

/-- enter, by which a needle takes a trap of code c with source n, resume address ep and info i; an address register
holds bits [54:1] of ep. At U: uepc, ucause, uinfo, ustat.SL, UH set, pc at uevec, the privilege kept. At S or M with
a non-zero vector: epc, cause with A set for an asynchronous code, info, PP the old privilege, SL the ldst record, RL
set, the privilege of the level, pc at its vector. In each case the sequencer is disabled, no x, v or k register and
not ldst changes, and no other context and no memory. A level whose vector is 0 leaves the registers and makes a check
0x37 pending. A synchronous trap of the moving context: a needle at U goes to S, at S to M, at M the core is reset and
0x37 becomes pending at the needle of its tile slot, for core 0 of vault 0 of a stack at core 1; a stitch records
cause and info, keeps its pc, faults, and an event 0x11 with its number and info goes to its needle; a guest ends with
a reply of the cause and info. The resume address is the instruction itself. A cause 0x04 or 0x05 at an address whose
access was armed to fail is noted for the event log (noteFail), and nothing else. Model's choice, no rule of the spec:
that a 0x37 without an M handler stays pending, once (log 9); that 0x37 pends at the slot of the needle that raised
it, other checks at slot 0 (log 36). (R298, R300, R303, R304, R23, R252, R281) -/
def Obligations.TrapsEnterAndSynchronousTrapsGoWhereR300Says : Prop :=
  (∀ (s : State) (k : Fin 12) (c n : BitVec 8) (ep info : Word),
    let x := s.ctxs.get k
    let code : Word := c.setWidth 64 ||| n.setWidth 64 <<< 8
    let ep' := ep &&& 0x7FFFFFFFFFFFFE#64
    let a : Word := if 0x20 ≤ c.toNat ∨ c = 0x11 ∨ c = 0x12 then 0x10000 else 0
    let status : Word := BitVec.ofNat 64 (x.ldst.toNat * 256 + 128 + x.priv.toNat * 16)
    let entered (y : SysRegs) (priv : BitVec 2) (vec : Word) : State := s.updAt k fun x =>
      { x with sys := y, priv := priv, pc := vec, seqOn := false, castEnd := none, run := .running, wait := none,
               met := 0, held := false }
    let ustat : Word := BitVec.ofNat 64 (x.ldst.toNat * 256 + 1)
    let atU : SysRegs := { x.sys with uepc := ep', ucause := code, uinfo := info, ustat := ustat }
    let atS : SysRegs := { x.sys with sepc := ep', scause := code ||| a, sinfo := info, sstat := status }
    let atM : SysRegs := { x.sys with mepc := ep', mcause := code ||| a, minfo := info, mstat := status }
    s.enter k 0 c n ep info = entered atU x.priv x.sys.uevec ∧
    (x.sys.svec ≠ 0 → s.enter k 1 c n ep info = entered atS 1 x.sys.svec) ∧
    (x.sys.mvec ≠ 0 → s.enter k 2 c n ep info = entered atM 2 x.sys.mvec) ∧
    let missing := (s.updAt k fun x => { x with held := false }).check (numOf k) 0x37#8 ((s.ident k).setWidth 64)
    (x.sys.svec = 0 → s.enter k 1 c n ep info = missing) ∧ (x.sys.mvec = 0 → s.enter k 2 c n ep info = missing)) ∧
  (∀ (s : State) (cause : BitVec 8) (info : Word),
    let u := if cause = 0x04 ∨ cause = 0x05 then s.noteFail info else s
    let lost : Word := (s.ident s.cur).setWidth 64
    (s.kind = .needle → s.ctx.priv = 0 → s.raise cause info = u.enter s.cur 1 cause 0xFF s.ctx.pc info) ∧
    (s.kind = .needle → s.ctx.priv = 1 → s.raise cause info = u.enter s.cur 2 cause 0xFF s.ctx.pc info) ∧
    (s.kind = .needle → s.ctx.priv = 2 → s.coreId % 128 ≠ 0 →
      s.raise cause info = u.resetCore.check (numOf s.cur) 0x37#8 lost) ∧
    (s.kind = .needle → s.ctx.priv = 2 → s.coreId % 128 = 0 →
      s.raise cause info = u.resetCore.send (.check (s.coreId + 1) 0x37#8 lost)) ∧
    (s.kind = .stitch → s.raise cause info =
      (u.upd fun x => { x with run := .faulted, wait := none, met := 0, held := false, pushed := [],
                               reserve := none, faultCause := cause, faultInfo := info }).updAt (ctxIx (s.slotOf s.cur)) fun n =>
        { n with events := n.events ++ [{ code := 0x11, src := BitVec.ofNat 8 (s.stitchNo s.cur), info := info }] }) ∧
    (s.kind = .guest → s.raise cause info = u.endGuest s.cur { gcause := some cause, info := info, vals := [] }) ∧
    (∃ l m, u = { s with failing := l, failed := m }))

/-- SVC and BRK raise 0x13 and 0x14 with the rs1 field as info and the next instruction as resume address, on a stitch
as its event, on a guest 0x0D. PHASE records X[rs1][15:0] as the phase of the running launch where the compatibility
feature is accepted, has no effect in native mode, and raises 0x0D on a guest. (R306) -/
def Obligations.SoftwareTrapsAndPhase : Prop :=
  ∀ (code a : BitVec 5) (s : State),
    let after := s.ctx.pc + 4
    (s.kind ≠ .guest →
      exec (.svc code) s = .next (s.raiseAt 0x13#8 (code.setWidth 64) after) ∧
      exec (.brk code) s = .next (s.raiseAt 0x14#8 (code.setWidth 64) after) ∧
      (s.mgmt.accepted.getLsbD 0 = false → exec (.phase a) s = .next (s.done 4)) ∧
      (s.launchOf s.cur = none → exec (.phase a) s = .next (s.done 4)) ∧
      (∀ l, s.launchOf s.cur = some l → s.mgmt.accepted.getLsbD 0 = true →
        exec (.phase a) s = .next ((s.updLaunch l fun x => { x with phase := (s.ctx.rx a).setWidth 16 }).done 4))) ∧
    (s.kind = .guest →
      let fault := s.raise 0x0D#8 s.ctx.pc
      exec (.svc code) s = .next fault ∧ exec (.brk code) s = .next fault ∧ exec (.phase a) s = .next fault)

/-- A needle at U with an S vector that executes SVC or BRK is at S at svec with sepc = pc + 4 (bits [54:1]), scause
the cause from the needle, sinfo the code, sstat with PP = U and RL = 1; ldst, instret, every x, v and k register,
every other context, memory and DRAM rows are as before. (R298, R300, R304, R306) -/
def Obligations.SoftwareTrapAtUSavesItsSuccessor : Prop :=
  ∀ (code : BitVec 5) (s : State), s.kind = .needle → s.ctx.priv = 0 → s.ctx.sys.svec ≠ 0 →
    ∀ i : Instr, i = .svc code ∨ i = .brk code →
    ∃ t, exec i s = .next t ∧ t.ctx.priv = 1 ∧ t.ctx.pc = s.ctx.sys.svec ∧ t.ctx.sys.sepc = (s.ctx.pc + 4) &&& 0x7FFFFFFFFFFFFE#64 ∧
      t.ctx.sys.scause = (if i = .svc code then 0xFF13 else 0xFF14) ∧ t.ctx.sys.sinfo = code.setWidth 64 ∧
      t.ctx.sys.sstat.getLsbD 7 = true ∧ t.ctx.sys.sstat.extractLsb' 4 2 = 0 ∧
      t.ctx.sys.sstat.extractLsb' 8 8 = s.ctx.ldst ∧ t.ctx.ldst = s.ctx.ldst ∧ t.ctx.instret = s.ctx.instret ∧
      t.ctx.x = s.ctx.x ∧ t.ctx.v = s.ctx.v ∧ t.ctx.k = s.ctx.k ∧ t.ctx.seqOn = false ∧
      (∀ k, k ≠ s.cur → t.ctxs.get k = s.ctxs.get k) ∧ t.mem = s.mem ∧ t.rows = s.rows

/-- URET of a needle at U in the U handler with an even uepc completes: ldst is SL, UH is clear, the pc is uepc. SRET
of a needle at S or M with an even sepc and MRET of a needle at M with an even mepc complete: the privilege is PP,
ldst is SL where RL is set and else has V = 0, the pc is epc. The sequencer is enabled where the needle is then at U
outside the U handler. One instruction retires; nothing else changes but the T levels whose range does not hold the
target, which become inactive (R18, leaveLevels), and stay as they are where the sequencer is off. URET elsewhere on a
needle or on a stitch raises cause 0x01; an odd return address raises cause 0x03 at the return (R125). (R18, R125,
R305) -/
def Obligations.ReturnsEndHandlers : Prop :=
  ∀ s : State,
    let c := s.ctx
    let y := c.sys
    let ld (st : Word) : BitVec 8 := if st.getLsbD 7 then st.extractLsb' 8 8 else c.ldst &&& 0x7F#8
    let uh (z : SysRegs) : Bool := z.ustat.getLsbD 0
    let back (priv : BitVec 2) (st : BitVec 8) (z : SysRegs) (pc : Word) : Ctx :=
      { leaveLevels (s.tileOf s.cur) pc
          { c.retire st with priv := priv, sys := z, seqOn := c.seqOn || (priv == 0 && !uh z) } with pc := pc, castEnd := none }
    let Completes (i : Instr) (priv : BitVec 2) (st : BitVec 8) (z : SysRegs) (pc : Word) : Prop :=
      ∃ t, exec i s = .next t ∧ t = s.upd (fun _ => back priv st z pc) ∧
        t.ctx.x = c.x ∧ t.ctx.instret = c.instret + 1 ∧ t.ctx.ldst = st ∧ t.ctx.priv = priv ∧ t.ctx.pc = pc ∧
        t.ctx.sys = z ∧ t.ctx.seqOn = (c.seqOn || (priv == 0 && !uh z)) ∧
        (t.ctx.seqOn = false → t.ctx.levels = c.levels) ∧
        ∀ (u : Tile) (n : Fin 6) (l : Level), t.ctx.seqOn = true → s.tileOf s.cur = some u → u.desc.levels[n.val]? = some l →
          t.ctx.levels.get n = if l.kind = 2 ∧ (pc.toNat < l.start ∨ l.stop ≤ pc.toNat)
            then { active := false, iter := 0, li := 0 } else c.levels.get n
    let done : SysRegs := { y with ustat := y.ustat &&& ~~~1#64 }
    (s.kind = .needle → c.priv = 0 → uh y = true → y.uepc.getLsbD 0 = false →
      Completes .uret 0 (y.ustat.extractLsb' 8 8) done y.uepc) ∧
    (s.kind = .needle → 1 ≤ c.priv.toNat → y.sepc.getLsbD 0 = false →
      Completes .sret (y.sstat.extractLsb' 4 2) (ld y.sstat) y y.sepc) ∧
    (s.kind = .needle → 2 ≤ c.priv.toNat → y.mepc.getLsbD 0 = false →
      Completes .mret (y.mstat.extractLsb' 4 2) (ld y.mstat) y y.mepc) ∧
    (s.kind = .stitch ∨ s.kind = .needle ∧ (c.priv ≠ 0 ∨ uh y = false) → exec .uret s = .next (s.raise 0x01#8 s.ir)) ∧
    (s.kind = .needle → c.priv = 0 → uh y = true → y.uepc.getLsbD 0 = true → exec .uret s = .next (s.raise 0x03#8 y.uepc)) ∧
    (s.kind = .needle → 1 ≤ c.priv.toNat → y.sepc.getLsbD 0 = true → exec .sret s = .next (s.raise 0x03#8 y.sepc)) ∧
    (s.kind = .needle → 2 ≤ c.priv.toNat → y.mepc.getLsbD 0 = true → exec .mret s = .next (s.raise 0x03#8 y.mepc))

/-- A needle at S or M that executes WFI retires where sip AND sie is not zero or a machine check waits for it; else
it stays where it is, running and not in an architectural wait, and executes WFI again. Pending events do not matter.
(R307) -/
def Obligations.WfiStallsUntilSomethingIsPending : Prop :=
  ∀ s : State, s.kind = .needle → 1 ≤ s.ctx.priv.toNat →
    let Pending : Prop := Nat.land (s.sipOf s.cur) s.ctx.sys.sie.toNat ≠ 0 ∨ ∃ m ∈ s.checks, m.slot = numOf s.cur
    (Pending → exec .wfi s = .next (s.done 4)) ∧
    (¬Pending → exec .wfi s = .next (s.upd fun c => { c with held := true }))

/-- SRET, WFI, TLBINV, TLBINVA, CTXSV, CTXLD, LNSET, FREEZE, IPI below S and MRET, CRESET, MCREC below M raise cause
0x01 with the instruction bits on a needle, and each of them the same on a stitch and on a guest (the model reads step
6 of R136 as before the guest subset of R281, log 63). (R129, R136, R297) -/
def Obligations.PrivilegedInstructionsRefused : Prop :=
  ∀ (d a : BitVec 5) (s : State) (i : Instr),
    (i ∈ [Instr.sret, .wfi, .tlbinv a, .tlbinva, .ctxsv d a, .ctxld d a, .lnset d a, .freeze d a, .ipi a] →
      s.kind = .needle ∧ s.ctx.priv = 0 ∨ s.kind ≠ .needle → exec i s = .next (s.raise 0x01#8 s.ir)) ∧
    (i ∈ [Instr.mret, .creset a, .mcrec d a] →
      s.kind = .needle ∧ s.ctx.priv.toNat < 2 ∨ s.kind ≠ .needle → exec i s = .next (s.raise 0x01#8 s.ir))

/-- PMARK starts the watchdog window of its context afresh, cancels its pending 0x12 and retires. On a needle of the
level: TLBINV and TLBINVA release at device scope (releases 4), then drop the entries of the partition that cover
X[rs1], or all of them (shootdown: no store stays pending and no value read ahead that went through a dropped entry);
TLBINVA puts the written ptroot in force. IPI sets bit 0 of sip on the named needle of this core, goes to another core
that has a tile there, and does nothing else; LNSET sets the lane cap of this core or sends it to another; FREEZE with
op 0 retires when the named tile is frozen (a frozen tile that pre-emption took off is), stalls before and asks it to
stop, on this core or another, with op 1 thaws it; CRESET resets this core or another; MCREC appends its record to the
event log and gives its sequence number. On a needle at S or M, for a context of a frozen tile, whose record is in the
save area (this core), with the tile where pre-emption took it off, or with another core: CTXSV, where the lines
permit a store and the block can be stored, retires with that record in memory at X[rd]; CTXLD, where the lines permit
a load, the block can be read and the record passes the checks of a restore, retires with the record at X[rd] in its
place. A context that is not frozen is cause 0x02 with X[rs1]. Model's choice, no rule of the spec: which fields of a
record CTXLD checks (log 22); operands that name no tile, and FREEZE of another core's tile (log 28); that a second
IPI replaces the sender (log 30); where the save area lies (log 32); when a written ptroot takes force (log 34); the
needle that takes a machine check of its core (log 36); that a core reset leaves the tiles which pre-emption took off
(log 47); the window of a watchdog and its second report (log 49); tiles that are frozen while pre-emption asks them
to leave, and granules never filled (log 77). (R308, R309, R311, R312, R313, R314, R316, R353, R310, R340, R341, R344)
-/
def Obligations.SystemInstructionsComplete : Prop :=
  (∀ (d a : BitVec 5) (s : State),
    let id := s.ctx.rx a
    let p := s.corePart
    let At (level : Nat) : Prop := s.kind = .needle ∧ level ≤ s.ctx.priv.toNat
    (∃ t, exec .pmark s = .next t ∧ t.ctx.timer = 0 ∧ t.ctx.warned = 0 ∧ t.ctx.window = (s.part p).wdctl ∧
      t.ctx.pc = s.ctx.pc + 4 ∧ t.mem = s.mem ∧
      ∀ e ∈ (t.ctxs.get (if s.kind = .guest then s.cur else ctxIx (s.slotOf s.cur))).events,
        ¬(e.code = 0x12 ∧ e.src = s.warnSource s.cur)) ∧
    (At 1 →
      exec (.tlbinv a) s = .next (((s.releases 4).shootdown p fun t => leafCovers t.entry.toNat t.page id.toNat).done 4)) ∧
    (At 1 → exec .tlbinva s = .next ((((s.releases 4).shootdown p fun _ => true).updPart p fun x =>
      { x with liveRoot := x.ptroot }).done 4)) ∧
    (∀ hit : TlbEntry → Bool,
      let t := s.shootdown p hit
      let used (va : Nat) : Bool := s.tlb.any fun e => e.part == p.val && hit e && e.covers p va
      t.tlb = s.tlb.filter (fun e => !(e.part == p.val && hit e)) ∧
      (∀ e ∈ t.pending, 12 ≤ e.ctx ∨ s.partOf (ctxIx e.ctx) = p → used e.addr = false) ∧
      (∀ n, s.partOf n = p → ∀ e ∈ (t.ctxs.get n).early, e ∈ (s.ctxs.get n).early ∧ used e.addr = false) ∧
      (∀ k, (∀ e ∈ s.pending, k < e.key ∨ e.key + e.size ≤ k) → t.byte k = s.byte k)) ∧
    (∀ slot, At 1 → s.identInside id.toNat = true → identKind id.toNat = 0 → identNum id.toNat < 2 →
      (s.slotNamed id.toNat = none → s.remoteNamed id.toNat = none → exec (.ipi a) s = .next (s.done 4)) ∧
      (s.slotNamed id.toNat = none → s.remoteNamed id.toNat ≠ none →
        exec (.ipi a) s = .next ((s.send (.ipi (id.setWidth 16))).done 4)) ∧
      (s.slotNamed id.toNat = some slot →
      exec (.ipi a) s = .next ((s.updAt (ctxIx slot) fun c =>
        { c with sys := { c.sys with sip := true, ipiFrom := (s.ident s.cur).setWidth 64 } }).done 4))) ∧
    (∀ cap : Nat, At 1 → s.identInside id.toNat = true → id.toNat % 32 = 0 →
      (s.ctx.rx d).toNat = cap → 1 ≤ cap → cap ≤ 8 →
      (identCore id.toNat = s.coreId → exec (.lnset d a) s = .next ({ s with laneCap := BitVec.ofNat 4 cap }.reshare.done 4)) ∧
      (identCore id.toNat ≠ s.coreId → exec (.lnset d a) s = .next ((s.send (.laneCap (identCore id.toNat) cap)).done 4))) ∧
    (∀ slot tile, At 1 → s.identInside id.toNat = true → identKind id.toNat ≤ 1 → s.slotNamed id.toNat = some slot →
      slot ≠ numOf s.cur → s.tileAt slot = some tile →
      let asked := s.setTile slot (some { tile with stopping := true, kept := true })
      let thawed := s.setTile slot (some { tile with stopping := false, watchdog := false, kept := false })
      (d = 0 → tile.frozen = true → exec (.freeze d a) s = .next (asked.done 4)) ∧
      (d = 0 → tile.frozen = false → exec (.freeze d a) s = .next (asked.upd fun c => { c with held := true })) ∧
      (d ≠ 0 → tile.frozen = true → exec (.freeze d a) s = .next (thawed.done 4)) ∧
      (d ≠ 0 → tile.frozen = false → s.savedNamed id.toNat = none → exec (.freeze d a) s = .next (s.done 4)) ∧
      (∀ e, d ≠ 0 → tile.frozen = false → s.savedNamed id.toNat = some e →
        exec (.freeze d a) s = .next ((s.thawSaved e).done 4))) ∧
    (At 1 → s.identInside id.toNat = true → identKind id.toNat ≤ 1 → s.slotNamed id.toNat = none →
      (∀ e, s.savedNamed id.toNat = some e → d = 0 → exec (.freeze d a) s = .next (s.done 4)) ∧
      (∀ e, s.savedNamed id.toNat = some e → d ≠ 0 → exec (.freeze d a) s = .next ((s.thawSaved e).done 4)) ∧
      (s.savedNamed id.toNat = none → s.remoteNamed id.toNat = none → exec (.freeze d a) s = .next (s.done 4)) ∧
      (∀ r, s.savedNamed id.toNat = none → s.remoteNamed id.toNat = some r → d ≠ 0 ∨ r.frozen = true →
        exec (.freeze d a) s = .next ((s.freezeRemote id.toNat r (d ≠ 0)).done 4)) ∧
      (∀ r, s.savedNamed id.toNat = none → s.remoteNamed id.toNat = some r → d = 0 → r.frozen = false →
        exec (.freeze d a) s = .next ((s.freezeRemote id.toNat r false).upd fun c => { c with held := true }))) ∧
    (At 2 → id.toNat % 32 = 0 → identCore id.toNat = s.coreId → exec (.creset a) s = .next s.resetCore) ∧
    (At 2 → id.toNat % 32 = 0 → identCore id.toNat ≠ s.coreId →
      exec (.creset a) s = .next ((s.resetRemote (identCore id.toNat)).done 4)) ∧
    (∀ v u, At 2 → readWords id 8 s = .ok v u → exec (.mcrec d a) s =
      .next ((u.appendLog ((leBytes 64 v).drop 8)).doneX 4 d (BitVec.ofNat 64 u.mgmt.nextSeq)))) ∧
  (∀ (d a : BitVec 5) (s : State), s.kind = .needle → 1 ≤ s.ctx.priv.toNat →
    let id := s.ctx.rx a
    let n := id.toNat % 65536
    let place := s.recordKey s.corePart (identCore n) (recordIndex n)
    let Here : Prop := ∃ slot t, s.slotNamed n = some slot ∧ s.tileAt slot = some t ∧ t.frozen = true
    let Far (r : RemoteTile) : Prop := ¬Here ∧ s.savedNamed n = none ∧ s.remoteNamed n = some r ∧ r.frozen = true
    s.identInside id.toNat = true → identKind id.toNat ≤ 1 →
    (∀ home, home = .here ∧ Here ∨ (∃ e, home = .off e ∧ ¬Here ∧ s.savedNamed n = some e) ∨ (∃ r, home = .far r ∧ Far r) →
      (∀ u v w bytes, checkLines .store (s.ctx.rx d) 600 s = .ok () u →
        recordBytes place (recordIndex n) home u = .ok bytes v → storeBlock (s.ctx.rx d) bytes 2400 v = .ok () w →
        exec (.ctxsv d a) s = .next (w.done 4)) ∧
      (∀ u w bytes, checkLines .load (s.ctx.rx d) 600 s = .ok () u →
        loadBlock (s.ctx.rx d) 2400 u = .ok bytes w → recordOk (leValue bytes) (identKind n == 0) n = true →
        exec (.ctxld d a) s = .next ((w.putRecord place (recordIndex n) home bytes).done 4))) ∧
    (∀ u : State, recordBytes place (recordIndex n) .here u = .ok (u.readBytes place 0x9600) u ∧
      (∀ bytes, (u.putRecord place (recordIndex n) .here bytes) = u.putBlock place bytes) ∧
      (∀ e, recordBytes place (recordIndex n) (.off e) u =
        .ok ((List.range 0x9600).map fun i => cellGet 0 e.shared.records (place + i)) u) ∧
      (∀ r, r.records.contains (recordIndex n) = true →
        recordBytes place (recordIndex n) (.far r) u = .ok (u.readBytes place 0x9600) u)) ∧
    (¬Here → s.savedNamed n = none → (∀ r, s.remoteNamed n = some r → r.frozen = false) →
      exec (.ctxsv d a) s = .next (s.raise 0x02#8 id) ∧ exec (.ctxld d a) s = .next (s.raise 0x02#8 id)))

/-- VSETL with a legal vtype image, where no strip-gated binding holds it back (stripStall), writes vtype, vstart 0
and vl = X[rs1] or VLMAX, whichever is less, VLMAX for rs1 = x0, to vl and X[rd], adds vl to the granted totals of its
strip-gated consumer bindings and to no other (grantStrips) and retires. On a guest VLMAX is 64 and any setting but
SEW 32 and LMUL 1 is cause 0x0D. (R56, R57, R164, R274, R281) -/
def Obligations.VsetlSetsVlAndVtype : Prop :=
  ∀ (d a : BitVec 5) (t : BitVec 11) (s : State),
    let small := sewOf t = 32 ∧ lmulOf t = 1
    let top := if s.kind = .guest then 64 else 4096 / sewOf t * lmulOf t
    let vl := if a = 0 then top else min (s.ctx.rx a).toNat top
    ((s.kind = .guest → small) → s.stripStall vl = none →
      exec (.vsetl d a t) s = .next
        (((s.grantStrips vl).upd fun c => { c with vtype := t, vl := BitVec.ofNat 13 vl, vstart := 0 }).doneX 4 d
          (BitVec.ofNat 64 vl)) ∧ vl ≤ vlmaxOf t ∧
      ∃ g : Vector Nat 16, s.grantStrips vl = s.upd (fun c => { c with granted := g }) ∧
        ∀ n : Fin 16, g.get n = s.ctx.granted.get n +
          (if ((s.wm.get n).any fun w => w.role == .consumer && w.strip && s.inLaunch s.cur w) then vl else 0)) ∧
    (s.kind = .guest → ¬small → exec (.vsetl d a t) s = .next (s.raise 0x0D#8 s.ctx.pc))

/-- VRETAG on aligned, unbound groups whose source registers have a format: each register of vd holds the bytes and
the hwm of its source register under the new tag; all other registers, fflags and memory are as before. A source
register without a format is cause 0x06 with the register. (R43, R59, R165, R167) -/
def Obligations.VretagCopiesTheGroup : Prop :=
  ∀ (d a : BitVec 5) (f : BitVec 4) (w : BitVec 2) (s : State),
    let n := if s.kind = .guest then 1 else s.ctx.lmul
    let gd : Grp := { reg := d.toNat, emul := n, eew := 8 }
    let ga : Grp := { reg := a.toNat, emul := n, eew := 8 }
    let regs := ga.regs ++ gd.regs
    let l := s.landed regs
    s.VecReady regs → gd.aligned = true → ga.aligned = true →
    ((∀ r ∈ ga.regs, (l.vr r).fmt ≠ 0) → VecEnds (.vretag d a f w) s 4 regs gd.regs (ldV d) fun c =>
      c.fflags = s.ctx.fflags ∧ c.srseed = s.ctx.srseed ∧
      ∀ j, j < n → (c.vr (gd.reg + j)).data = (l.vr (ga.reg + j)).data ∧
        (c.vr (gd.reg + j)).hwm = (l.vr (ga.reg + j)).hwm ∧ (c.vr (gd.reg + j)).fmt = f ∧
        (c.vr (gd.reg + j)).width = w ∧ (c.vr (gd.reg + j)).dirty = true) ∧
    (∀ r, ga.regs.find? (fun r => (l.vr r).fmt == 0) = some r →
      exec (.vretag d a f w) s = .next ((s.landedState regs).raise 0x06#8 (BitVec.ofNat 64 r)))

/-- Every instruction of majors 12 to 14 with M = 0 and its compact form: on aligned, unbound groups whose sources
agree in a tagged format at SEW on which the function has a meaning, with vl within the group and no kept destination
register without a format, it retires; each active element is the function of its operands (on floating formats under
a mode other than RSR), the others follow the policies, registers outside vd and all other state but fflags and srseed
are as before, and integer and packed formats leave those too. Model's choice, no rule of the spec: corners of vector,
matrix and launch rules (log 62); arithmetic corners (log 71). (R42, R43, R59, R133, R166, R167, R168, R169, R170,
R171) -/
def Obligations.VectorArithmeticResults : Prop :=
  ∀ (i : Instr) (s : State) (len : Nat) (f : VFn) (d a : BitVec 5) (b : VSrc) (k : BitVec 3) (fmt : Nat),
    vecForm s.ctx i = some (len, f, d, a, b, k) →
    let c := s.ctx
    let gd := c.grp d
    let srcs := (if f = .mv then [] else [c.grp a]) ++ b.grps c
    let regs := (gd :: srcs).flatMap Grp.regs
    let l := s.landed regs
    let km := if f = .merge then 0 else k
    let m : RMode := { code := c.frm.toNat, u := 0 }
    s.VecReady regs → (gd :: srcs).all Grp.aligned = true → c.vl.toNat ≤ gd.length →
    (srcs = [] → fmt = c.vfmt ∧ c.vfmt ≠ 0) → (∀ g ∈ srcs, l.badTag (some fmt) g = none) →
    ((∃ v, b = .imm v) → immAllowed f fmt = true) →
    (c.vstart.toNat < c.vl.toNat → (s.landedState regs).keptFault gd km 0 = none) →
    ∀ op, vecValue f fmt c.sew m = some op →
    VecEnds i s len regs gd.regs (ldV d) fun c' =>
      (floatOf fmt c.sew = none → c'.fflags = c.fflags ∧ c'.srseed = c.srseed) ∧
      (floatOf fmt c.sew = none ∨ c.frm ≠ 5 → ElementsAre c' l gd fmt km 0 fun j =>
        if f = .mv then b.at l j
        else if f = .merge then (if l.kbit k j then b.at l j else l.elem (c.grp a) j)
        else op (l.elem (c.grp a) j) (b.at l j))

/-- VMACC, VNMSAC, VMADD, VNMSUB, the widening VWMACC, VWMUL, VWADD, VWSUB, VQMACC and CVMACC on aligned, unbound
groups, apart where they widen, in an allowed change of width, no guest where they widen, on agreeing tags (the
destination tagged too where it is read): they retire; each active element is the exact integer result wrapped to the
destination width, or one rounding of the floating result (mode other than RSR). (R133, R166, R167, R168, R169, R173,
R174) -/
def Obligations.VectorMultiplyAddResults : Prop :=
  ∀ (i : Instr) (s : State) (len : Nat) (f : VMac) (d a b : BitVec 5) (k : BitVec 3) (fmt : Nat),
    macForm s.ctx i = some (len, f, d, a, b, k) →
    let c := s.ctx
    let n := f.factor
    let w := c.sew * n
    let gd : Grp := { reg := d.toNat, emul := c.lmul * n, eew := w }
    let ga := c.grp a
    let gb := c.grp b
    let regs := [gd, ga, gb].flatMap Grp.regs
    let l := s.landed regs
    let m : RMode := { code := c.frm.toNat, u := 0 }
    s.VecReady regs → f.allowed c.sew c.lmul = true → gd.aligned = true → ga.aligned = true → gb.aligned = true →
    (n ≠ 1 → s.kind ≠ .guest ∧ gd.meets ga = false ∧ gd.meets gb = false) → c.vl.toNat ≤ gd.length →
    l.badTag (some fmt) ga = none → l.badTag (some fmt) gb = none →
    (f.readsD = true → l.badTag (some (f.format fmt)) gd = none) →
    (c.vstart.toNat < c.vl.toNat → (s.landedState regs).keptFault gd k 0 = none) →
    (isInteger fmt = true → VecEnds i s len regs gd.regs (ldV d) fun c' =>
      c'.fflags = c.fflags ∧ c'.srseed = c.srseed ∧ ElementsAre c' l gd fmt k 0 fun j =>
        let value (g : Grp) : Int := valueOf (fmt == 2) g.eew (l.elem g j)
        wrapTo w (f.int (if f.readsD then value gd else 0) (value ga) (value gb))) ∧
    (∀ src dst, isInteger fmt = false → f ≠ .qmacc → floatOf fmt c.sew = some src →
      floatOf (f.format fmt) w = some dst → VecEnds i s len regs gd.regs (ldV d) fun c' =>
        c.frm ≠ 5 → ElementsAre c' l gd (f.format fmt) k 0 fun j =>
          (f.float dst m (dst.decode (if f.readsD then l.elem gd j else 0)) (src.decode (l.elem ga j))
            (src.decode (l.elem gb j))).1)

/-- VSQRT, VRSQRT, VRCP, VEXP2, VLOG2, VTANH, VSIGM under their own rounding field, VCLASS tagged as an unsigned
integer, and VBSCL with one unsigned byte of scale for 32 elements, on aligned, unbound groups with tags that have a
meaning, retire; each active element is the function of its operand (a rounding mode other than RSR). Model's choice,
no rule of the spec: that exact functions are computed in fixed point and rounded once (log 13); corners of vector,
matrix and launch rules (log 62); arithmetic corners (log 71). (R64, R76, R154, R166, R168, R172, R175, R176) -/
def Obligations.VectorSpecialAndClassResults : Prop :=
  ∀ (s : State) (d b a : BitVec 5) (r k : BitVec 3) (fmt : Nat),
    let c := s.ctx
    let gd := c.grp d
    let gb := c.grp b
    let Ready (regs : List Nat) : Prop := s.VecReady regs ∧ gd.aligned = true ∧ c.vl.toNat ≤ gd.length ∧
      (c.vstart.toNat < c.vl.toNat → (s.landedState regs).keptFault gd k 0 = none)
    let two := [gd, gb].flatMap Grp.regs
    let l := s.landed two
    (∀ (i : Instr) (f : VSpec) (t : FFmt), specialForm i = some (f, d, r, b, k) → Ready two → gb.aligned = true →
      l.badTag (some fmt) gb = none → floatOf fmt c.sew = some t → f.at c.sew = true →
      VecEnds i s 4 two gd.regs (ldV d) fun c' => c.roundCode r ≠ 5 → ElementsAre c' l gd fmt k 0 fun j =>
        (f.float t { code := (c.roundCode r).toNat, u := 0 } (t.decode (l.elem gb j))).1) ∧
    (∀ t : FFmt, Ready two → gb.aligned = true → l.badTag (some fmt) gb = none → floatOf fmt c.sew = some t →
      VecEnds (.vclass d b k) s 4 two gd.regs (ldV d) fun c' => c'.fflags = c.fflags ∧ c'.srseed = c.srseed ∧
        ElementsAre c' l gd 1 k 0 fun j => t.classOf (l.elem gb j)) ∧
    (let ga := c.grp a
     let gs : Grp := { reg := b.toNat, emul := 1, eew := 8 }
     let three := [gd, ga, gs].flatMap Grp.regs
     let l := s.landed three
     let m : RMode := { code := c.frm.toNat, u := 0 }
     Ready three → ga.aligned = true → gd.meets gs = false → l.badTag (some fmt) ga = none →
     l.badTag (some 1) gs = none → isInteger fmt = true ∨ (floatOf fmt c.sew).isSome = true →
     VecEnds (.vbsclVv d a b k) s 4 three gd.regs (ldV d) fun c' => c.frm ≠ 5 → ElementsAre c' l gd fmt k 0 fun j =>
       (match floatOf fmt c.sew with
        | some t => scaledFloat t (l.elem ga j) (l.elem gs (j / 32)) m
        | none => scaledInt (fmt == 2) c.sew (l.elem ga j) (l.elem gs (j / 32)) m).1)

/-- VCVT at one width, VWCVT from half and VNCVT from twice the width to vtype.fmt, VSEXT, VZEXT and VNCLIP on an
integer source, with groups aligned, apart where the width changes (no guest then), unbound, tags that have a meaning
and no packed format, retire; an integer source to an integer destination saturates, an extension keeps the value, a
clip saturates at SEW. Conversions with a floating side complete the same way. Model's choice, no rule of the spec:
arithmetic corners (log 71). (R71, R166, R167, R168, R177, R179) -/
def Obligations.VectorConversionResults : Prop :=
  ∀ (s : State) (d b : BitVec 5) (r k : BitVec 3) (fmt : Nat) (n : Narrow),
    let c := s.ctx
    let gd := c.grp d
    let gb := n.grp c b
    let regs := gd.regs ++ gb.regs
    let l := s.landed regs
    let value (j : Nat) : Int := valueOf (fmt == 2) gb.eew (l.elem gb j)
    s.VecReady regs → n.ok c gd gb = true → (n ≠ .same → s.kind ≠ .guest) → c.vl.toNat ≤ gd.length →
    l.badTag (some fmt) gb = none →
    (c.vstart.toNat < c.vl.toNat → (s.landedState regs).keptFault gd k 0 = none) →
    (∀ i : Instr, (n = .same ∧ i = .vcvt d r b k) ∨ (n = .half ∧ i = .vwcvt d r b k) ∨ (n = .double ∧ i = .vncvt d r b k) →
      (n = .same → fmt ≠ c.vfmt) → isPacked fmt = false → isPacked c.vfmt = false →
      (convert (c.roundCode r) fmt gb.eew c.vfmt c.sew).isSome = true →
      VecEnds i s 4 regs gd.regs (ldV d) fun c' => isInteger fmt = true → isInteger c.vfmt = true →
        c'.fflags = c.fflags ∧ c'.srseed = c.srseed ∧ ElementsAre c' l gd c.vfmt k 0 fun j =>
          wrapTo c.sew (satOf (c.vfmt == 2) c.sew (value j))) ∧
    (isInteger fmt = true →
      (n = .half → VecEnds (.vsext d b k) s 4 regs gd.regs (ldV d) fun c' => c'.fflags = c.fflags ∧
        ElementsAre c' l gd 2 k 0 fun j => wrapTo c.sew (sintOf gb.eew (l.elem gb j))) ∧
      (n = .half → VecEnds (.vzext d b k) s 4 regs gd.regs (ldV d) fun c' => c'.fflags = c.fflags ∧
        ElementsAre c' l gd 1 k 0 fun j => l.elem gb j) ∧
      (n = .double → VecEnds (.vnclip d b k) s 4 regs gd.regs (ldV d) fun c' => c'.fflags = c.fflags ∧
        ElementsAre c' l gd fmt k 0 fun j => wrapTo c.sew (satOf (fmt == 2) c.sew (value j))))

/-- VGATHER, VSLIDEUP, VSLIDEDN, VREV, VBCAST, VINSR, VZIP and VUNZIP with aligned, unbound groups, the destination
apart from the sources, data sources in one format and integer indexes, retire with the elements of R180; VCOMPRESS
packs the masked elements from 0 and leaves the tail, VEXTR gives X[rd] one element extended by its tag. Model's
choice, no rule of the spec: corners of vector, matrix and launch rules (log 62). (R40, R166, R167, R168, R180, R181)
-/
def Obligations.PermuteResults : Prop :=
  ∀ (s : State) (d a b : BitVec 5) (k : BitVec 3) (fmt : Nat),
    let c := s.ctx
    let gd := c.grp d
    let ga := c.grp a
    let gb := c.grp b
    let vl := c.vl.toNat
    let Permutes (i : Instr) (data index : List Grp) (skip : Nat) (val : Ctx → Nat → Nat) : Prop :=
      let regs := (gd :: data ++ index).flatMap Grp.regs
      let l := s.landed regs
      s.VecReady regs → (gd :: data ++ index).all Grp.aligned = true → (∀ g ∈ data ++ index, gd.meets g = false) →
      vl ≤ gd.length → (∀ g ∈ data, l.badTag (some fmt) g = none) →
      IndexesTagged l index →
      (c.vstart.toNat < vl → (s.landedState regs).keptFault gd k skip = none) →
      VecEnds i s 4 regs gd.regs (ldV d) fun c' => c'.fflags = c.fflags ∧ c'.srseed = c.srseed ∧
        ElementsAre c' l gd fmt k skip (val l)
    Permutes (.vgather d a b k) [ga] [gb] 0 (fun l j => gatherAt s l ga (l.elem gb j)) ∧
    Permutes (.vslideup d a b k) [ga] [] (c.rx b).toNat (fun l j => l.elem ga (j - (c.rx b).toNat)) ∧
    Permutes (.vslidedn d a b k) [ga] [] 0 (fun l j => gatherAt s l ga (j + (c.rx b).toNat)) ∧
    Permutes (.vrev d a k) [ga] [] 0 (fun l j => l.elem ga (vl - 1 - j)) ∧
    Permutes (.vbcast d a b k) [gb] [] 0 (fun l _ => gatherAt s l gb (c.rx a).toNat) ∧
    Permutes (.vinsr d a b k) [ga] [] 0 (fun l j =>
      if j = 0 then (c.rx b).toNat % 2 ^ c.sew else l.elem ga (j - 1)) ∧
    Permutes (.vzip d a b k) [ga, gb] [] 0 (fun l j => l.elem (if j % 2 = 0 then ga else gb) (j / 2)) ∧
    Permutes (.vunzip d a b k) [ga, gb] [] 0 (fun l j =>
      if 2 * j < vl then l.elem ga (2 * j) else l.elem gb (2 * j - vl)) ∧
    (let regs := [gd, ga].flatMap Grp.regs
     let l := s.landed regs
     let picked := (List.range vl).filter fun j => c.kbit k j
     s.VecReady regs → gd.aligned = true → ga.aligned = true → gd.meets ga = false → vl ≤ gd.length →
     l.badTag (some fmt) ga = none → (0 < vl → (s.landedState regs).keptTail gd picked.length = none) →
     VecEnds (.vcompress d a k) s 4 regs gd.regs (ldV d) fun c' => c'.fflags = c.fflags ∧
       (vl = 0 → c'.v = l.v) ∧
       (0 < vl → ∀ j, j < gd.length → c'.elem gd j =
         match picked[j]? with
         | some p => l.elem ga p
         | none => if l.tailKeep then l.elem gd j else 0)) ∧
    (let l := s.landed ga.regs
     s.VecReady ga.regs → ga.aligned = true → l.badTag (some fmt) ga = none →
     exec (.vextr d a b) s = .next (s.upd fun _ =>
       { (l.setX d (BitVec.ofInt 64 (valueOf (fmt == 2) c.sew (gatherAt s l ga (c.rx b).toNat)))).next 4 (ldX d) with
         vstart := 0 }))

/-- VCMPEQ, VCMPNE, VCMPLT, VCMPLE, VCMPGT, VCMPGE with a group or a scalar, kd other than k0, on aligned, unbound,
agreeing groups of an integer or floating format: bit j of kd is the comparison of element j for an active j; the
others follow the policies; nothing else but fflags changes. kd = k0 is cause 0x01. (R48, R166, R168, R182) -/
def Obligations.CompareResults : Prop :=
  ∀ (i : Instr) (s : State) (op : Nat) (d : BitVec 3) (a : BitVec 5) (b : VSrc) (k : BitVec 3) (fmt : Nat),
    compareForm i = some (op, d, a, b, k) →
    let c := s.ctx
    let ga := c.grp a
    let srcs := ga :: b.grps c
    let regs := srcs.flatMap Grp.regs
    let l := s.landed regs
    s.VecReady regs →
    (d = 0 → exec i s = .next ((s.landedState regs).raise 0x01#8 s.ir)) ∧
    (d ≠ 0 → srcs.all Grp.aligned = true → c.vl.toNat ≤ 4096 → (∀ g ∈ srcs, l.badTag (some fmt) g = none) →
      (isInteger fmt = true → MaskEnds i s 4 regs d fun c' => c'.fflags = c.fflags ∧ MaskBitsAre c' l d k fun j =>
        intCompare op (valueOf (fmt == 2) c.sew (l.elem ga j)) (valueOf (fmt == 2) c.sew (b.at l j))) ∧
      (∀ t : FFmt, floatOf fmt c.sew = some t → MaskEnds i s 4 regs d fun c' => MaskBitsAre c' l d k fun j =>
        (t.compare op (l.elem ga j) (b.at l j)).1))

/-- KAND, KOR, KXOR, KANDN, KNOT and their compact forms on a stitch with lanes or a guest, kd other than k0: bits
vstart to vl - 1 of kd are the operation on the bits of the sources (k0 reads as ones), bits above follow the tail
policy. KPOPC gives the number of ones below vl, KFIRST the lowest index of one below vl or all ones. Model's choice,
no rule of the spec: corners of vector, matrix and launch rules (log 62). (R48, R54, R133, R183) -/
def Obligations.MaskOperationResults : Prop :=
  ∀ (i : Instr) (s : State), s.VecReady [] →
    let c := s.ctx
    let X (d : BitVec 5) (v : Word) : Host.Outcome State Fault Refusal :=
      .next (s.upd fun _ => { (c.setX d v).next 4 (ldX d) with vstart := 0 })
    (∀ len f d a b, maskForm c i = some (len, f, d, a, b) → d ≠ 0 → c.vl.toNat ≤ 4096 →
      MaskEnds i s len [] d fun c' => c'.fflags = c.fflags ∧
        MaskBitsAre c' c d 0 fun j => f (c.kbit a j) (c.kbit b j)) ∧
    (∀ len f d a b, maskForm c i = some (len, f, d, a, b) → d = 0 → exec i s = .next (s.raise 0x01#8 s.ir)) ∧
    (∀ (d : BitVec 5) (a : BitVec 3),
      exec (.kpopc d a) s = X d (BitVec.ofNat 64 ((List.range c.vl.toNat).countP fun j => c.kbit a j)) ∧
      (∀ j, j < c.vl.toNat → c.kbit a j = true → (∀ h, h < j → c.kbit a h = false) →
        exec (.kfirst d a) s = X d (BitVec.ofNat 64 j)) ∧
      ((∀ h, h < c.vl.toNat → c.kbit a h = false) → exec (.kfirst d a) s = X d (BitVec.allOnes 64)))

/-- VRED, VREDMAX, VREDMIN, VREDAND, VREDOR, VREDXOR and VREDO on an aligned data group and tags that agree, unbound,
retire; on an integer format element 0 of vd is the operator folded over element 0 of vs2 and the active elements of
vs1 from vstart to vl - 1, in any order the same; the rest of vd is tail. With vstart at or above vl nothing is
written. Model's choice, no rule of the spec: arithmetic corners (log 71). (R59, R76, R77, R166, R184) -/
def Obligations.ReductionResults : Prop :=
  ∀ (i : Instr) (s : State) (f : VRedOp) (ordered : Bool) (d a b : BitVec 5) (k : BitVec 3) (fmt : Nat),
    reductionForm i = some (f, ordered, d, a, b, k) →
    let c := s.ctx
    let gd : Grp := { reg := d.toNat, emul := 1, eew := c.sew }
    let ga := c.grp a
    let gb : Grp := { reg := b.toNat, emul := 1, eew := c.sew }
    let regs := [gd, ga, gb].flatMap Grp.regs
    let l := s.landed regs
    let active := (List.range c.vl.toNat).filter fun j => c.vstart.toNat ≤ j && c.kbit k j
    s.VecReady regs → ga.aligned = true → c.vl.toNat ≤ ga.length → l.badTag (some fmt) ga = none →
    l.badTag (some fmt) gb = none →
    (c.vstart.toNat < c.vl.toNat → (s.landedState regs).keptTail gd 1 = none) →
    (isInteger fmt = true ∨ (∃ t, floatOf fmt c.sew = some t ∧ (f.floatIdentity t).isSome = true)) →
    VecEnds i s 4 regs gd.regs (ldV d) fun c' =>
      (c.vl.toNat ≤ c.vstart.toNat → c'.v = l.v) ∧
      (c.vstart.toNat < c.vl.toNat → isInteger fmt = true →
        c'.elem gd 0 = (active.map fun j => l.elem ga j).foldl (f.int (fmt == 2) c.sew) (l.elem gb 0) ∧
        ∀ j, 0 < j → j < gd.length → c'.elem gd j = if l.tailKeep then l.elem gd j else 0)

/-- VLD, VLDS, VLDX, VLSEG, VLSSEG without a qualifier, on legal, unbound registers with a format in vtype and integer
indexes, whose active elements all lie aligned in the open stash window: the load retires; element j of field f is the
bytes at its address of R187, the others follow the policies, the fields are tagged by vtype, and nothing else
changes, no byte of memory either. The same on any memory (general, host, peer, rows, mapped granules, the window), on
a stitch or a guest: where the load of every field of every active element, made in ascending order, passes its checks
and waits for nothing (Reads, a chain of states S), the load retires with the values read; with the bypass bit it
differs in the host lines and messages alone. Model's choice, no rule of the spec: that bytes, rows and latches which
nothing has written read 0 (log 1); which pending stores a release performs and which reads ahead an acquire forgets
(log 5); what access counters count (log 31); that a request for a host line is granted at once (log 64). (R167, R168,
R185, R186, R187, R188, R190, R191) -/
def Obligations.VectorLoadResults : Prop :=
  (∀ (i : Instr) (s : State) (m : VMode) (d a : BitVec 5) (k : BitVec 3) (nf : Nat) (seg : Bool),
    loadForm i = some (m, d, a, k, nf, seg) → s.OpenStash →
    let c := s.ctx
    let n := c.sew / 8
    let dest := (fieldGrps c d nf).flatMap Grp.regs
    let regs := (fieldGrps c d nf ++ m.groups c).flatMap Grp.regs
    let l := s.landed regs
    s.VecReady regs → (c.grp d).aligned = true → (m.groups c).all Grp.aligned = true → nf * c.lmul ≤ 8 →
    d.toNat + nf * c.lmul ≤ 32 → c.vl.toNat ≤ (c.grp d).length → c.vfmt ≠ 0 → IndexesTagged l (m.groups c) →
    (c.vstart.toNat < c.vl.toNat → ∀ g ∈ fieldGrps c d nf, (s.landedState regs).keptFault g k 0 = none) →
    (∀ j f, c.vstart.toNat ≤ j → j < c.vl.toNat → c.kbit k j = true → f < nf → InWindow (m.at l a nf j f) n) →
    VecEnds i s 4 regs dest (ldV d) fun c' => c'.fflags = c.fflags ∧ c'.srseed = c.srseed ∧
      ∀ f, f < nf → ElementsAre c' l (fieldGrp c d f) c.vfmt k 0 fun j =>
        s.readN (windowPlace (m.at l a nf j f)).key n) ∧
  (∀ (i : Instr) (s : State) (m : VMode) (d a : BitVec 5) (k : BitVec 3) (nf : Nat) (seg : Bool)
      (S : Nat → Nat → State) (val : Nat → Nat → Nat),
    loadForm i = some (m, d, a, k, nf, seg) →
    let c := s.ctx
    let n := c.sew / 8
    let lo := c.vstart.toNat
    let hi := c.vl.toNat
    let dest := (fieldGrps c d nf).flatMap Grp.regs
    let regs := (fieldGrps c d nf ++ m.groups c).flatMap Grp.regs
    let l := s.landed regs
    s.VecReady regs → (s.kind = .guest → c.sew = 32 ∧ c.lmul = 1) → (c.grp d).aligned = true →
    (m.groups c).all Grp.aligned = true → nf * c.lmul ≤ 8 → d.toNat + nf * c.lmul ≤ 32 → hi ≤ (c.grp d).length →
    c.vfmt ≠ 0 → IndexesTagged l (m.groups c) →
    (lo < hi → ∀ g ∈ fieldGrps c d nf, (s.landedState regs).keptFault g k 0 = none) →
    S lo 0 = s.landedState regs →
    (∀ j, lo ≤ j → j < hi →
      (c.kbit k j = true → (∀ f, f < nf → Reads (S j f) (m.at l a nf j f) n (val j f) (S j (f + 1))) ∧
        S (j + 1) 0 = (S j nf).upd fun x => x.putFields c d nf j (val j)) ∧
      (c.kbit k j = false → S (j + 1) 0 =
        if c.maskZero then (S j 0).upd fun x => x.putFields c d nf j fun _ => 0 else S j 0)) →
    let t := (S (max lo hi) 0).upd fun x =>
      { (if lo < hi then (fieldGrps c d nf).foldl (fun y g => y.close g c.vfmt hi) x else x).next 4 (ldV d) with vstart := 0 }
    (∃ h o, exec i s = .next { t with hostLines := h, outbox := o } ∧
      (bypassOf i = 0 → h = t.hostLines ∧ o = t.outbox)) ∧
    (∀ f, f < nf → ElementsAre t.ctx l (fieldGrp c d f) c.vfmt k 0 fun j => val j f) ∧
    (∀ r : Fin 32, r.val ∉ dest → t.ctx.v.get r = l.v.get r) ∧ t.ctx.pc = c.pc + 4 ∧ t.ctx.x = c.x ∧ t.ctx.k = c.k ∧
    t.ctx.fflags = c.fflags ∧ t.ctx.srseed = c.srseed ∧ (∀ o, o ≠ s.cur → t.ctxs.get o = s.ctxs.get o) ∧
    ∀ key, s.settled key → t.byte key = s.byte key)

/-- VLD, VLDS, VLDX with .fe or .fe.clr, as VectorLoadResults, where no granule holds elements of two element groups,
every granule of an active element is full and none is reserved by another context: the load retires with its
elements, and .fe.clr leaves exactly its granules empty. The same on any page with full-empty bits (the window and
mapped granules of general memory): where every element group completes its step (feStep), the load retires; a step
whose elements pass their checks and wait for nothing completes where all its granules are full, once touched, and
with .clr none is reserved by another context: each active element holds its bytes, .clr empties exactly those
granules, no byte of memory changes. Model's choice, no rule of the spec: that bytes, rows and latches which nothing
has written read 0 (log 1); which pending stores a release performs and which reads ahead an acquire forgets (log 5);
which of two waiting loads takes a granule (log 65); that a waiting full-empty load does not touch its granule again
(log 70). (R88, R89, R185, R187, R188, R192, R193) -/
def Obligations.FullEmptyLoadResults : Prop :=
  (∀ (i : Instr) (s : State) (m : VMode) (d a : BitVec 5) (k : BitVec 3) (clear : Bool),
    fullEmptyForm i = some (m, d, a, k, clear) → s.OpenStash →
    let c := s.ctx
    let n := c.sew / 8
    let gd := c.grp d
    let regs := (gd :: m.groups c).flatMap Grp.regs
    let l := s.landed regs
    let granule (j : Nat) : Nat := ((m.at l a 1 j 0).toNat - windowBase) / 16
    let Active (j : Nat) : Prop := c.vstart.toNat ≤ j ∧ j < c.vl.toNat ∧ c.kbit k j = true
    s.VecReady regs → gd.aligned = true → (m.groups c).all Grp.aligned = true → c.vl.toNat ≤ gd.length → c.vfmt ≠ 0 →
    IndexesTagged l (m.groups c) →
    (c.vstart.toNat < c.vl.toNat → (s.landedState regs).keptFault gd k 0 = none) →
    (∀ j, Active j → InWindow (m.at l a 1 j 0) n ∧ granule j ∈ s.full ∧
      (clear = true → s.reserved s.cur (granule j) = false)) →
    (∀ j h, Active j → Active h → j / 16 ≠ h / 16 → granule j ≠ granule h) →
    ∃ (v : Vector VReg 32) (full : List Nat),
      let c' := { l.next 4 (ldV d) with vstart := 0, v := v }
      exec i s = .next ({ s with full := full }.upd fun _ => c') ∧
      (∀ r : Fin 32, r.val ∉ gd.regs → v.get r = l.v.get r) ∧
      (∀ g, g ∈ full ↔ g ∈ s.full ∧ ¬(clear = true ∧ ∃ j, Active j ∧ granule j = g)) ∧
      ElementsAre c' l gd c.vfmt k 0 fun j => s.readN (windowPlace (m.at l a 1 j 0)).key n) ∧
  (∀ (i : Instr) (s u : State) (m : VMode) (d a : BitVec 5) (k : BitVec 3) (clear : Bool),
    fullEmptyForm i = some (m, d, a, k, clear) →
    let c := s.ctx
    let n := c.sew / 8
    let lo := c.vstart.toNat
    let hi := c.vl.toNat
    let gd := c.grp d
    let regs := (gd :: m.groups c).flatMap Grp.regs
    let l := s.landed regs
    let z := s.landedState regs
    let Active (j : Nat) : Prop := lo ≤ j ∧ j < hi ∧ c.kbit k j = true
    s.VecReady regs → (s.kind = .guest → c.sew = 32 ∧ c.lmul = 1) → gd.aligned = true →
    (m.groups c).all Grp.aligned = true → d.toNat + c.lmul ≤ 32 → hi ≤ gd.length → c.vfmt ≠ 0 →
    IndexesTagged l (m.groups c) → lo < hi → z.keptFault gd k 0 = none →
    (∀ j h g, Active j → Active h → j / 16 ≠ h / 16 → z.feGranule (m.at l a 1 j 0) = some g →
      z.feGranule (m.at l a 1 h 0) ≠ some g) →
    forGroups (feStep m l d a k clear) z = .ok () u →
    ∃ h o, let t := u.upd fun x => { (x.close gd c.vfmt hi).next 4 (ldV d) with vstart := 0 }
      exec i s = .next { t with hostLines := h, outbox := o } ∧ (bypassOf i = 0 → h = t.hostLines ∧ o = t.outbox)) ∧
  (∀ (u w : State) (m : VMode) (d a : BitVec 5) (k : BitVec 3) (clear : Bool) (lo hi : Nat) (pls : List (Nat × Word × Phys × Nat)),
    let c := u.ctx
    let n := c.sew / 8
    let js := (span lo (hi - lo)).filter fun j => c.kbit k j
    (∀ r, c.slotOf r = none) → lo ≤ hi → hi ≤ (c.grp d).length →
    (js.mapM fun j => do
      let ph ← feCheck (m.at c a 1 j 0) n
      pure (j, m.at c a 1 j 0, ph)) u = .ok pls w →
    (∀ p ∈ pls, stalls .load p.2.1 n p.2.2.1 w = .ok () w) →
    let gs := pls.foldl (fun l p => setAdd p.2.2.2 l) []
    let x := gs.foldl State.touch (pls.foldl (fun s p => s.claim p.2.2.1 n) w)
    (∀ g ∈ gs, g ∈ x.full ∧ (clear = true → x.reserved x.cur g = false)) →
    ∃ t, feStep m c d a k clear lo hi u = .ok () t ∧
      (∀ p ∈ pls, t.ctx.elem (c.grp d) p.1 = x.readN p.2.2.1.key n) ∧
      (∀ j, lo ≤ j → j < hi → c.kbit k j = false →
        t.ctx.elem (c.grp d) j = if c.maskZero then 0 else c.elem (c.grp d) j) ∧
      (∀ j, j < lo ∨ hi ≤ j → j < (c.grp d).length → t.ctx.elem (c.grp d) j = c.elem (c.grp d) j) ∧
      (∀ g, g ∈ t.full ↔ g ∈ x.full ∧ ¬(clear = true ∧ g ∈ gs)) ∧ (∀ key, t.byte key = x.byte key))

/-- VST, VSTS, VSTX, VSSEG, VSSSEG on legal, unbound registers tagged at SEW with integer indexes, whose active
elements all lie aligned in the open stash window: the store retires; the fields of the active elements are written
one after the other at the addresses of R187 (put), so that every byte outside them is as before, and the context
changes only by retiring. The same on any memory, on a stitch or a guest: without stage queues on the core, where the
store of every field of every active element, made in ascending order, passes its checks, waits for nothing and has
room (Writes, a chain of states S with the places pl), the store retires; every byte outside those places and outside
what the context had still to store is as before. With stage queues it retires where every element group completes
(storeGroup). With the bypass bit it differs in the host lines, messages and merged pending stores alone. Model's
choice, no rule of the spec: that bytes, rows and latches which nothing has written read 0 (log 1); which pending
stores a release performs and which reads ahead an acquire forgets (log 5); that a request for a host line is granted
at once (log 64). (R168, R185, R186, R187, R189, R190, R191) -/
def Obligations.VectorStoreResults : Prop :=
  (∀ (i : Instr) (s : State) (m : VMode) (d a : BitVec 5) (k : BitVec 3) (nf : Nat),
    storeForm i = some (m, d, a, k, nf) → s.OpenStash →
    let c := s.ctx
    let n := c.sew / 8
    let regs := (fieldGrps c d nf ++ m.groups c).flatMap Grp.regs
    let l := s.landed regs
    let active := (span c.vstart.toNat (c.vl.toNat - c.vstart.toNat)).filter fun j => c.kbit k j
    s.VecReady regs → (c.grp d).aligned = true → (m.groups c).all Grp.aligned = true → nf * c.lmul ≤ 8 →
    d.toNat + nf * c.lmul ≤ 32 →
    (∀ g ∈ fieldGrps c d nf, ∀ r ∈ g.regs, (l.srcTag g r).1 ≠ 0 ∧ (l.srcTag g r).2 = g.eew) →
    IndexesTagged l (m.groups c) →
    (∀ j ∈ active, ∀ f, f < nf → InWindow (m.at l a nf j f) n) →
    let put (u : State) (p : Nat × Nat) : State :=
      u.put (windowPlace (m.at l a nf p.1 p.2)) n (l.elem (fieldGrp c d p.2) p.1)
    let u := (active.flatMap fun j => (List.range nf).map fun f => (j, f)).foldl put (s.landedState regs)
    exec i s = .next (u.upd fun _ => { l.next 4 (ldNone l.ldst) with vstart := 0 }) ∧
    ∀ key, (∀ j ∈ active, ∀ f, f < nf →
        let first := (windowPlace (m.at l a nf j f)).key
        key < first ∨ first + n ≤ key) →
      u.byte key = s.byte key) ∧
  (∀ (i : Instr) (s : State) (m : VMode) (d a : BitVec 5) (k : BitVec 3) (nf : Nat),
    storeForm i = some (m, d, a, k, nf) →
    let c := s.ctx
    let n := c.sew / 8
    let lo := c.vstart.toNat
    let hi := c.vl.toNat
    let regs := (fieldGrps c d nf ++ m.groups c).flatMap Grp.regs
    let l := s.landed regs
    let z := s.landedState regs
    let Active (j : Nat) : Prop := lo ≤ j ∧ j < hi ∧ c.kbit k j = true
    s.VecReady regs → (s.kind = .guest → c.sew = 32 ∧ c.lmul = 1) → (c.grp d).aligned = true →
    (m.groups c).all Grp.aligned = true → nf * c.lmul ≤ 8 → d.toNat + nf * c.lmul ≤ 32 →
    (∀ g ∈ fieldGrps c d nf, ∀ r ∈ g.regs, (l.srcTag g r).1 ≠ 0 ∧ (l.srcTag g r).2 = g.eew) →
    IndexesTagged l (m.groups c) →
    let Ends (u : State) : Prop :=
      let t := u.upd fun x => { x.next 4 (ldNone x.ldst) with vstart := 0 }
      ∃ h o q, exec i s = .next { t with hostLines := h, outbox := o, pending := q } ∧
        (bypassOf i = 0 → h = t.hostLines ∧ o = t.outbox ∧ q = t.pending)
    (∀ (S : Nat → Nat → State) (pl : Nat → Nat → Phys), s.coreQueues = [] → S lo 0 = z →
      (∀ j, lo ≤ j → j < hi →
        (c.kbit k j = true → S (j + 1) 0 = S j nf ∧ ∀ f, f < nf →
          Writes (S j f) (m.at l a nf j f) n (l.elem (fieldGrp c d f) j) (pl j f) (S j (f + 1))) ∧
        (c.kbit k j = false → S (j + 1) 0 = S j 0)) →
      Ends (S (max lo hi) 0) ∧ (S (max lo hi) 0).ctx.v = l.v ∧
      ∀ key, s.settled key → (∀ j f, Active j → f < nf → key < (pl j f).key ∨ (pl j f).key + n ≤ key) →
        (S (max lo hi) 0).byte key = s.byte key) ∧
    (∀ u, lo < hi →
      (∀ j h f f' g, Active j → Active h → j / 16 ≠ h / 16 → f < nf → f' < nf →
        z.queueGranule (m.at l a nf j f) = some g → z.queueGranule (m.at l a nf h f') ≠ some g) →
      forGroups (storeGroup m l d a k nf) z = .ok () u → Ends u))

/-- VAMO on legal, unbound, disjoint groups, the index tagged integer, the data tagged at SEW and of the integer class
unless it swaps, with distinct addresses aligned in the open stash window: it ignores vstart and retires; each active
word is the operation of its old value and the element, the element its old value, masked-off elements and tail by the
policies; every other byte is as before. The same on any memory that has vector atomics, on a stitch or a guest: where
every active element passes its checks, waits for nothing and has room and the addresses differ, VAMO releases at its
scope, applies its operation to the elements in ascending order, acquires and retires. Where the first active element
lies in host or peer memory, it is cause 0x05 with its address and vstart at it. Model's choice, no rule of the spec:
that bytes, rows and latches which nothing has written read 0 (log 1); which pending stores a release performs and
which reads ahead an acquire forgets (log 5); what access counters count (log 31); that a request for a host line is
granted at once (log 64). (R111, R158, R166, R194, R195) -/
def Obligations.VectorAtomicResults : Prop :=
  (∀ (i : Instr) (s : State) (so uo : AtomOp) (any : Bool) (d a b : BitVec 5) (k sc : BitVec 3) (fmt : Nat),
    amoForm i = some (so, uo, any, d, a, b, k, sc) → s.OpenStash → sc ≠ 7 →
    let c := s.ctx
    let n := c.sew / 8
    let gd := c.grp d
    let gi := c.grp b
    let regs := [gi, gd].flatMap Grp.regs
    let l := s.landed regs
    let place (j : Nat) : Phys := windowPlace ((VMode.index b).at l a 1 j 0)
    let Active (j : Nat) : Prop := j < c.vl.toNat ∧ c.kbit k j = true
    s.VecReady regs → (c.sew = 32 ∨ c.sew = 64) → c.lmul ≤ 2 → gd.aligned = true → gi.aligned = true →
    gd.meets gi = false → IndexesTagged l [gi] → l.badTag (some fmt) gd = none → (any = true ∨ isInteger fmt = true) →
    c.vl.toNat ≤ gd.length → (∀ j, Active j → InWindow ((VMode.index b).at l a 1 j 0) n) →
    (∀ j h, Active j → Active h → j ≠ h → (place j).key ≠ (place h).key) →
    ∃ (t : State) (v : Vector VReg 32), exec i s = .next t ∧
      t.ctx = { l.next 4 (ldV d) with vstart := 0, v := v } ∧
      (∀ r : Fin 32, r.val ∉ gd.regs → v.get r = l.v.get r) ∧
      ElementsAre t.ctx { l with vstart := 0 } gd fmt k 0 (fun j => s.readN (place j).key n) ∧
      (∀ j, Active j → t.readN (place j).key n =
        applyAtom (if fmt = 2 then so else uo) n (s.readN (place j).key n) (l.elem gd j)) ∧
      (∀ key, (∀ j, Active j → key < (place j).key ∨ (place j).key + n ≤ key) → t.byte key = s.byte key) ∧
      ∀ o, o ≠ s.cur → t.ctxs.get o = s.ctxs.get o) ∧
  (∀ (i : Instr) (s : State) (so uo : AtomOp) (any : Bool) (d a b : BitVec 5) (k sc : BitVec 3) (fmt : Nat),
    amoForm i = some (so, uo, any, d, a, b, k, sc) → sc ≠ 7 →
    let c := s.ctx
    let n := c.sew / 8
    let hi := c.vl.toNat
    let gd := c.grp d
    let gi := c.grp b
    let regs := [gi, gd].flatMap Grp.regs
    let l := s.landed regs
    let at_ (j : Nat) : Word := (VMode.index b).at l a 1 j 0
    let act := (span 0 hi).filter fun j => c.kbit k j
    s.VecReady regs → (s.kind = .guest → c.sew = 32 ∧ c.lmul = 1) → (c.sew = 32 ∨ c.sew = 64) → c.lmul ≤ 2 →
    gd.aligned = true → gi.aligned = true → gd.meets gi = false → IndexesTagged l [gi] → l.badTag (some fmt) gd = none →
    (any = true ∨ isInteger fmt = true) → hi ≤ gd.length →
    (∀ (pls : List Phys) (u : State), (act.mapM fun j => amoCheck (at_ j) n) (s.landedState regs) = .ok pls u →
      (∀ j ∈ act, ∀ h ∈ act, j ≠ h → at_ j ≠ at_ h) →
      (∀ p ∈ act.zip pls, stalls .atomic (at_ p.1) n p.2 u = .ok () u ∧ queueRoom p.2 u = .ok () u) →
      let apply (x : State) (p : Nat × Phys) : State :=
        let y := x.claim p.2 n
        let old := y.readN p.2.key n
        let new := applyAtom (if fmt = 2 then so else uo) n old (l.elem gd p.1)
        (((y.noteRead p.2).noteStore p.2.key n).put p.2 n new).upd fun z => z.putElem gd p.1 old
      let zeroed (z : Ctx) : Ctx := (List.range hi).foldl
        (fun z j => if c.kbit k j || !c.maskZero then z else z.putElem gd j 0) z
      let w := ((act.zip pls).foldl apply (u.releases sc)).upd fun z => if hi = 0 then z else (zeroed z).close gd fmt hi
      exec i s = .next ((w.acquires sc).upd fun z => { z.next 4 (ldV d) with vstart := 0 })) ∧
    (∀ (j : Nat) (rest : List Nat) (ph : Phys) (u : State), act = j :: rest →
      checkAccess .atomic (at_ j) n (s.landedState regs) = .ok ph u → ph.cls = .host ∨ ph.cls = .peer →
      exec i s = .next (((s.landedState regs).upd fun z => { z with vstart := BitVec.ofNat 12 j }).raise 0x05#8 (at_ j))))

/-- VWAIT on words of the open stash window retires where every active element from vstart on passes its comparison or
has passed before, with an acquire, and parks in an architectural wait otherwise. VMATCH marks in kd the first active
element of each address. VRDW releases at its scope and retires where every element group is checked, tagged and
committed (reduceGroups). VWAIT on any memory: where every word can be read (waitElements, which reads the words in
ascending order and marks those that pass), it retires if all have passed and parks otherwise. Model's choice, no rule
of the spec: which pending stores a release performs and which reads ahead an acquire forgets (log 5); which vector
memory forms a guest executes (log 14); that a request for a host line is granted at once (log 64). (R112, R113, R194,
R196, R197, R198, R199) -/
def Obligations.WordWaitsMatchesAndReductionsComplete : Prop :=
  (∀ (s : State) (d a b : BitVec 5) (k sc : BitVec 3) (fmt : Nat),
    let c := s.ctx
    let n := c.sew / 8
    let gd := c.grp d
    let gi := c.grp b
    let two := [gi, gd].flatMap Grp.regs
    let l := s.landed two
    let Sized : Prop := (c.sew = 32 ∨ c.sew = 64) ∧ c.lmul ≤ 2 ∧ gi.aligned = true
    (∀ (i : Instr) (op : Nat), waitForm i = some (op, d, a, b, k, sc) → s.OpenStash → sc ≠ 7 → s.VecReady two →
      Sized → gd.aligned = true → IndexesTagged l [gi] → l.badTag (some fmt) gd = none → isInteger fmt = true →
      let Active (j : Nat) : Prop := c.vstart.toNat ≤ j ∧ j < c.vl.toNat ∧ c.kbit k j = true
      let at_ (j : Nat) : Word := (VMode.index b).at l a 1 j 0
      let Passes (j : Nat) : Prop := c.met.getLsbD j = true ∨
        waitTest (if fmt = 2 then op + 4 else op) n (s.readN (windowPlace (at_ j)).key n) (l.elem gd j) = true
      c.vl.toNat ≤ 4096 → (∀ j, Active j → InWindow (at_ j) n) →
      ((∀ j, Active j → Passes j) →
        exec i s = .next (s.upd fun _ => { l.next 4 (ldNone l.ldst) with vstart := 0, met := 0 })) ∧
      ((∃ j, Active j ∧ ¬Passes j) → ∃ t, exec i s = .next t ∧ t.ctx.run = .waiting ∧ t.ctx.pc = c.pc ∧
        t.ctx.instret = c.instret ∧ t.ctx.v = l.v ∧ t.ctx.x = c.x ∧ t.mem = s.mem)) ∧
    (∀ (e : BitVec 3), s.kind = .stitch → s.VecReady gi.regs → Sized → e ≠ 0 → c.vl.toNat ≤ 4096 →
      let l := s.landed gi.regs
      IndexesTagged l [gi] →
      MaskEnds (.vmatch e a b k) s 4 gi.regs e fun c' => c'.fflags = c.fflags ∧ (c.vl.toNat = 0 → c'.k = c.k) ∧
        (∀ o : Fin 8, o ≠ e.toFin → c'.k.get o = c.k.get o) ∧
        (0 < c.vl.toNat → ∀ j, j < 4096 → (c'.k.get e.toFin).getLsbD j =
          if c.vl.toNat ≤ j then (l.tailKeep && (c.k.get e.toFin).getLsbD j)
          else decide (c.kbit k j = true ∧ ∀ h, h < j → c.kbit k h = true → wordAddr l a gi h ≠ wordAddr l a gi j))) ∧
    (∀ (i : Instr) (op : RedOp) (f : Nat → Nat → Nat) (u : State), reduceForm i = some (op, d, a, b, k, sc) → sc ≠ 7 →
      s.VecReady two → Sized → gd.aligned = true → (s.kind = .guest → c.sew = 32 ∧ c.lmul = 1) → IndexesTagged l [gi] →
      l.badTag (some fmt) gd = none → reduceWith op fmt n = some f →
      reduceGroups l a k gd gi n { op := op, fmt := BitVec.ofNat 4 fmt, width := c.sew } c.vstart.toNat c.vl.toNat
        (c.vl.toNat / 16 + 1) ((s.landedState two).releases sc) = .ok () u →
      exec i s = .next (u.upd fun x => { x.next 4 (ldNone x.ldst) with vstart := 0 }))) ∧
  (∀ (i : Instr) (s u : State) (d a b : BitVec 5) (k sc : BitVec 3) (fmt op : Nat),
    waitForm i = some (op, d, a, b, k, sc) → sc ≠ 7 →
    let c := s.ctx
    let n := c.sew / 8
    let lo := c.vstart.toNat
    let gd := c.grp d
    let gi := c.grp b
    let two := [gi, gd].flatMap Grp.regs
    let l := s.landed two
    let test := if fmt = 2 then op + 4 else op
    let act := (span lo (c.vl.toNat - lo)).filter fun j => c.kbit k j
    s.VecReady two → (s.kind = .guest → c.sew = 32 ∧ c.lmul = 1) → (c.sew = 32 ∨ c.sew = 64) → c.lmul ≤ 2 →
    gd.aligned = true → gi.aligned = true → IndexesTagged l [gi] → l.badTag (some fmt) gd = none → isInteger fmt = true →
    waitElements test n lo a gd gi act (act.filter fun j => !c.met.getLsbD j) (s.landedState two) = .ok () u →
    ((∀ j ∈ act, u.ctx.met.getLsbD j = true) →
      exec i s = .next ((u.acquires sc).upd fun x => { x.next 4 (ldNone x.ldst) with vstart := 0, met := 0 })) ∧
    ((∃ j ∈ act, u.ctx.met.getLsbD j = false) → ∃ t, exec i s = .next t ∧ t.ctx.run = .waiting ∧ t.ctx.pc = c.pc ∧
      t.ctx.instret = c.instret ∧ t.ctx.v = u.ctx.v ∧ t.ctx.x = c.x ∧ t.mem = u.mem)) ∧
  (∀ (n test j lo : Nat) (a : BitVec 5) (gd gi : Grp) (act rest : List Nat) (s t : State) (v : Nat), j < 4096 →
    Reads s (wordAddr s.ctx a gi j) n v t →
    waitElements test n lo a gd gi act (j :: rest) s = waitElements test n lo a gd gi act rest
      (if waitTest test n v (s.ctx.elem gd j) then t.upd (fun x => { x with met := splice x.met j 1 1 }) else t))

/-- CADD to CMV on a context whose ldst records an x register: the result of the base form with that register as its
first source, retired with a length of 2. CLW and CLD load what the context sees at 4 and 8 times s from it. Any other
record is cause 0x10 with the instruction bits, for each of them. (R54, R133, R144, R145, R147) -/
def Obligations.CompactFormsChain : Prop :=
  ∀ (d sc a : BitVec 5) (s : State),
    let x := s.ctx.rx a
    let y := s.ctx.rx sc
    let i : Word := sc.signExtend 64
    let fault := s.raise 0x10#8 s.ir
    (s.ctx.ldst = 0x80#8 ||| a.setWidth 8 →
    exec (.cadd d sc) s = .next (s.doneX 2 d (x + y)) ∧
    exec (.csub d sc) s = .next (s.doneX 2 d (x - y)) ∧
    exec (.cand d sc) s = .next (s.doneX 2 d (x &&& y)) ∧
    exec (.cor d sc) s = .next (s.doneX 2 d (x ||| y)) ∧
    exec (.cxor d sc) s = .next (s.doneX 2 d (x ^^^ y)) ∧
    exec (.csll d sc) s = .next (s.doneX 2 d (x <<< (y.toNat % 64))) ∧
    exec (.csrl d sc) s = .next (s.doneX 2 d (x >>> (y.toNat % 64))) ∧
    exec (.csra d sc) s = .next (s.doneX 2 d (x.sshiftRight (y.toNat % 64))) ∧
    exec (.cmul d sc) s = .next (s.doneX 2 d (x * y)) ∧
    exec (.caddi d sc) s = .next (s.doneX 2 d (x + i)) ∧
    exec (.candi d sc) s = .next (s.doneX 2 d (x &&& i)) ∧
    exec (.cslli d sc) s = .next (s.doneX 2 d (x <<< sc.toNat)) ∧
    exec (.csrli d sc) s = .next (s.doneX 2 d (x >>> sc.toNat)) ∧
    exec (.csrai d sc) s = .next (s.doneX 2 d (x.sshiftRight sc.toNat)) ∧
    exec (.cmv d) s = .next (s.doneX 2 d x) ∧
      (∀ ph u, checkAccess .load (x + BitVec.ofNat 64 (4 * sc.toNat)) 4 s = .ok ph u →
        stalls .load (x + BitVec.ofNat 64 (4 * sc.toNat)) 4 ph u = .ok () u →
        exec (.clw d sc) s = .next ((u.afterLoad ph 4).doneX 2 d ((BitVec.ofNat 32 (u.loadValue ph 4)).signExtend 64))) ∧
      (∀ ph u, checkAccess .load (x + BitVec.ofNat 64 (8 * sc.toNat)) 8 s = .ok ph u →
        stalls .load (x + BitVec.ofNat 64 (8 * sc.toNat)) 8 ph u = .ok () u →
        exec (.cld d sc) s = .next ((u.afterLoad ph 8).doneX 2 d (BitVec.ofNat 64 (u.loadValue ph 8))))) ∧
    (s.ctx.ldst.getLsbD 7 = false ∨ s.ctx.ldst.extractLsb' 5 2 ≠ 0 →
    exec (.cadd d sc) s = .next fault ∧
    exec (.csub d sc) s = .next fault ∧
    exec (.cand d sc) s = .next fault ∧
    exec (.cor d sc) s = .next fault ∧
    exec (.cxor d sc) s = .next fault ∧
    exec (.csll d sc) s = .next fault ∧
    exec (.csrl d sc) s = .next fault ∧
    exec (.csra d sc) s = .next fault ∧
    exec (.cmul d sc) s = .next fault ∧
    exec (.caddi d sc) s = .next fault ∧
    exec (.candi d sc) s = .next fault ∧
    exec (.cslli d sc) s = .next fault ∧
    exec (.csrli d sc) s = .next fault ∧
    exec (.csrai d sc) s = .next fault ∧
    exec (.cmv d) s = .next fault ∧
    exec (.clw d sc) s = .next fault ∧
    exec (.cld d sc) s = .next fault)

/-- Every form of majors 12 to 18 with M = 1 on a needle or a stitch, vtype.fmt unsigned or signed, every named
descriptor ready, all of one region and one first subarray, the widths of the function allowed, the destination apart
from each source, and room in the queue: the form retires at once with vstart 0, and unless pvl is 0 an operation with
its captured operands, count, region and pc stands last in the queue of the context. On a guest it is cause 0x0D.
Model's choice, no rule of the spec: that an instruction without a destination clears ldst.V alone and keeps the class
and number bits (log 12); that plane forms set vstart to 0 and plane management leaves it (log 15); the info of cause
0x0D (log 63). (R59, R130, R201, R202, R203, R204, R205) -/
def Obligations.PlaneFormsAreQueued : Prop :=
  ∀ (i : Instr) (s : State) (f : PFn) (d a : BitVec 5) (b : PSrc), planeFormOf i = some (f, d, a, b) →
    let c := s.ctx
    let srcs : List Nat := a.toNat :: (match b with
      | .plane n => [n.toNat]
      | _ => [])
    let mask : List Nat := if f = .merge then [0] else []
    let named := d.toNat :: srcs ++ mask
    let dd := c.pdAt d.toNat
    (s.kind = .guest → exec i s = .next (s.raise 0x0D#8 c.pc)) ∧
    (s.kind ≠ .guest → (c.vfmt = 1 ∨ c.vfmt = 2) → (∀ n ∈ named, s.pdReady n) →
      (∀ n ∈ named, pdRegion (c.pdAt n) = pdRegion dd ∧ pdFirst (c.pdAt n) = pdFirst dd) →
      widthsOk f (pdWidth dd) (srcs.map fun n => pdWidth (c.pdAt n)) = true →
      (f = .merge → pdWidth (c.pdAt 0) = 1 ∧ 0 ∉ d.toNat :: srcs) →
      (∀ n ∈ srcs ++ mask, apart (pdOperand dd) (pdOperand (c.pdAt n)) = true) →
      (∀ r, s.region? (s.partOf s.cur) (pdRegion dd) = some r → s.planeRoom r.stack) →
      ∃ o : PlaneOp,
        exec i s = .next (s.upd fun c => { (c.queued o).next 4 (ldNone c.ldst) with vstart := 0 }) ∧
        o.kind = .form f.code (match b with
          | .scalar r => some (valueOf (c.vfmt == 2) 64 (c.rx r).toNat)
          | .imm v => some v
          | _ => none) ∧
        o.a = pdOperand (c.pdAt a.toNat) ∧ o.d = pdOperand dd ∧ (∀ n, b = .plane n → o.b = pdOperand (c.pdAt n.toNat)) ∧
        (f = .merge → o.e = pdOperand (c.pdAt 0)) ∧ o.count = c.pvl.toNat ∧ o.region = pdRegion dd ∧
        o.first = pdFirst dd ∧ o.pc = c.pc ∧ o.signed = (c.vfmt == 2) ∧ o.barrier = c.barrier ∧ o.batch = [] ∧
        o.left = span (pdFirst dd) (ceilDiv c.pvl.toNat 8192))

/-- On a needle or a stitch: PDSET writes a descriptor within its limits, or zero where V = 0; PXIN and PXOUT with a
ready descriptor, a checked range and room queue a transfer of pvl elements; PRUN with a readable, valid image and
record queues a swatch; PFENCE puts a barrier before later plane instructions; BKACQ takes a lock on a valid set of
banks that no other context holds or older one awaits and none of its own plane instructions covers, recalls cached
copies of their rows and acquires, and stalls otherwise; BKREL releases and frees the lock it names; NRED combines the
elements it can read and writes the value to X[rd], with an acquire. Model's choice, no rule of the spec: which
pending stores a release performs and which reads ahead an acquire forgets (log 5); that a transfer whose memory fails
after issue ends as a detected plane error (log 10); that an instruction without a destination clears ldst.V alone and
keeps the class and number bits (log 12); that plane forms set vstart to 0 and plane management leaves it (log 15);
that a PRUN record without a used slot is invalid, and the info of its faults (log 16). (R49, R117, R204, R205, R223,
R224, R225, R226, R227, R228, R229, R230) -/
def Obligations.PlaneManagementCompletes : Prop :=
  ∀ (a b c : BitVec 5) (sc : BitVec 3) (t : BitVec 1) (g : BitVec 2) (s : State), s.kind ≠ .guest →
    let x := s.ctx
    let d : BitVec 128 := x.rx b ++ x.rx c
    let pdSet (v : BitVec 128) : State := s.upd fun x =>
      { x with pd := x.pd.set (Fin.ofNat 16 a.toNat).val v (Fin.ofNat 16 a.toNat).isLt }
    (pdValid d = false → exec (.pdset a b c) s = .next ((pdSet 0).done 4)) ∧
    (pdValid d = true → s.pdLimits d = true → exec (.pdset a b c) s = .next ((pdSet d).done 4)) ∧
    (pdValid d = true → s.pdLimits d = false →
      exec (.pdset a b c) s = .next (s.raise 0x0B#8 (a.setWidth 64))) ∧
    (let n := a.toNat
     let y := x.pdAt n
     let Ready (u : State) : Prop := (x.vfmt = 1 ∨ x.vfmt = 2) ∧ s.pdReady n ∧
       (∀ r, s.region? (s.partOf s.cur) (pdRegion y) = some r → s.planeRoom r.stack) ∧
       (x.pvl = 0 → u = s) ∧ u.ctx = x ∧ u.kind = s.kind ∧ u.regions = s.regions ∧ u.partOf u.cur = s.partOf s.cur
     let Range (acc : Access) (u : State) : Prop :=
       x.pvl ≠ 0 → transferCheck acc (x.rx b) (transferBytes (pdWidth y)) x.pvl.toNat s = .ok () u
     let Queued (i : Instr) (k : PlaneKind) (u : State) : Prop := ∃ o : PlaneOp,
       exec i s = .next ((u.upd fun x => x.queued o).done 4) ∧ o.kind = k ∧ o.d = pdOperand y ∧
       o.count = x.pvl.toNat ∧ o.region = pdRegion y ∧ o.pc = x.pc
     (∀ u, Ready u → Range .load u → Queued (.pxin a b) (.pxin (x.rx b).toNat) u) ∧
     (∀ u, Ready u → Range .store u → Queued (.pxout a b) (.pxout (x.rx b).toNat) u)) ∧
    (∀ (u w : State) (h : Nat) (words : List (BitVec 32)), imageWord (x.rx b) s = .ok h u → 1 ≤ h → h ≤ 1024 →
      imageWords (x.rx b + 4) h u = .ok words w → w.ctx = x → w.kind = s.kind →
      let r := (x.rx c).toNat
      let used (j : Nat) : Bool := bitsAt r (16 + j) 1 == 1
      let order := [2, 0, 1, 3].filter used
      let slot (j : Nat) : PlaneOperand := if used j then pdOperand (x.pdAt (bitsAt r (4 * j) 4)) else noOperand
      let ds := order.map fun j => x.pdAt (bitsAt r (4 * j) 4)
      let o : PlaneOp := { w.capture (.prun words) (ds.headD 0) false with
        a := slot 0, b := slot 1, d := slot 2, e := slot 3 }
      r < 2 ^ 20 → bitsAt r 16 4 ≠ 0 → (∀ j ∈ order, w.pdReady (bitsAt r (4 * j) 4)) → sameTensor ds = true →
      (∀ j ∈ [0, 1, 3], apart (slot 2) (slot j) = true) → swatchInvalid o words = none → w.planeRoom o.stack →
      exec (.prun b c) s = .next ((w.upd fun x => x.queued o).done 4)) ∧
    exec .pfence s = .next ((s.upd fun x => { x with barrier := x.barrier + 1 }).done 4) ∧
    (let v := x.rx b
     let l := lockNamed v (t == 1)
     let waits := s.planeOn s.cur (s.lockBanks l) || s.banksTaken (s.lockBanks l)
     sc ≠ 7 → x.lock = none → s.lockValid v = true →
     (waits = false → exec (.bkacq b sc t) s =
       .next ((((s.recallBanks (s.lockBanks l)).upd fun x => { x with lock := some l }).acquires sc).done 4)) ∧
     (waits = true → exec (.bkacq b sc t) s = .next (s.upd fun x =>
       { x with wait := some (.bank l.region l.first l.count), held := true }))) ∧
    (∀ l : BankLock, sc ≠ 7 → x.lock = some l → (x.rx b).toNat < 2 ^ 32 → lockNamed (x.rx b) l.strict = l →
      x.planeErr = [] → s.planeOn s.cur (s.lockBanks l) = false →
      exec (.bkrel b sc) s = .next (((s.releases sc).upd fun x => { x with lock := none }).done 4)) ∧
    (let f := nredOp g
     let size := if f = .emax then 8 else 4
     let as := (List.range (slice (x.rx c) 0 32)).map fun i => x.rx b + BitVec.ofNat 64 (i * size)
     ∀ (u w : State) (vs : List Nat), sc ≠ 7 →
       (as.forM fun p => do
         let _ ← checkClass [.general, .plane] .load p size
         pure ()) s = .ok () u →
       (as.mapM fun p => memRead p size) u = .ok vs w →
       exec (.nred a b c sc g) s = .next ((w.acquires sc).doneX 4 a (BitVec.ofNat 64 (f.value vs))))

/-- On a stitch: MSTAT on a free descriptor and free macros, or those it has reserved, and a readable image holds the
region and clears its macros; MZERO makes the tile zero and the stitch its owner; MREL frees a region or a tile; MMAC
and MMACT on a region and tile of the stitch with A registers of the right tag replace the tile by its K blocks added
(matrixBlocks), every cell of an integer tile by the exact sum of the products modulo 2^32; MDRAIN and MDRAINX whose
lines can be stored write the converted cells (drain). Model's choice, no rule of the spec: which pending stores a
release performs and which reads ahead an acquire forgets (log 5); that an instruction without a destination clears
ldst.V alone and keeps the class and number bits (log 12); corners of vector, matrix and launch rules (log 62);
arithmetic corners (log 71); that VOFFER, VLINK, VPUSH, VPUSHM, MZERO and MREL leave vstart (log 73). (R234, R235,
R236, R237, R239, R240, R241, R242) -/
def Obligations.MatrixInstructionsComplete : Prop :=
  ∀ (s : State) (a b c : BitVec 5) (k sc sd : BitVec 3) (m : BitVec 1), s.kind = .stitch →
    let x := s.ctx
    let me := numOf s.cur
    (∀ (macro0 : BitVec 8) (km nm : BitVec 6) (wf : BitVec 4) (u w : State) (img : Memory), sc ≠ 7 →
      regionLimits macro0 km nm wf = true → (∀ t, s.tileOf s.cur = some t → t.desc.second = false) →
      let mine : Reserve := { sd := sd.toNat, macro0 := macro0.toNat, count := km.toNat * nm.toNat }
      (x.reserve = some mine ∨ s.sdFree sd.toNat = true ∧ s.macrosFree macro0.toNat (km.toNat * nm.toNat) = true) →
      let v := s.upd fun x => { x with reserve := some mine }
      (x.rx a).toNat % 128 = 0 → imageCheck (x.rx a) (128 * (km.toNat * nm.toNat)) v = .ok () u →
      imageRead (x.rx a) (1024 * (km.toNat * nm.toNat)) u = .ok img w →
      exec (.mstat sd sc macro0 km nm wf a) s = .next
        ((((w.clearMacros macro0.toNat (km.toNat * nm.toNat)).setRegion sd
          (Region.mk (x.rx a).toNat me macro0.toNat km.toNat nm.toNat wf.toNat img)).acquires sc).done 8)) ∧
    ((∀ t, s.accAt a.toNat = some t → t.owner = me) →
      exec (.mzero a m) s = .next ((s.setAcc a.toNat (some { owner := me, fp32 := m == 1, cells := [] })).done 4) ∧
      exec (.mrel a 1) s = .next ((s.setAcc a.toNat none).done 4)) ∧
    ((∀ r, s.sd.get (Fin.ofNat 8 a.toNat) = some r → r.owner = me) → s.sdReserved a.toNat = false →
      exec (.mrel a 0) s = .next ((s.freeRegion a.toNat).done 4)) ∧
    (∀ (r : Region) (t : Acc), s.sd.get sd.toFin = some r → r.owner = me → s.accAt a.toNat = some t → t.owner = me →
      t.fp32 = (weightFloat r.wfmt).isSome → s.VecReady (x.grp b).regs → (x.grp b).aligned = true →
      let l := s.landed (x.grp b).regs
      let hi := x.vl.toNat
      (∀ n ∈ (x.grp b).regs, aTagOk r.wfmt (l.vr n).fmt.toNat = true ∧ widthOf (l.vr n).width = aWidth r.wfmt) →
      aWidth r.wfmt = x.sew → hi ≤ 4096 / x.sew → x.vstart.toNat % 32 = 0 →
      (∀ (transpose : Bool) (i : Instr), i = (if transpose then .mmact a b sd else .mmac a b sd) →
        hi ≤ (if transpose then r.n else r.k) →
        let out := if transpose then r.k else r.n
        let y := matrixBlocks l r transpose b.toNat x.vstart.toNat hi out (hi / 32 + 1) (t, 0)
        exec i s = .next (((s.setAcc a.toNat (some y.1)).upd fun _ => l).upd fun x =>
          { (x.raiseFlags y.2).next 4 (ldNone x.ldst) with vstart := 0 }) ∧
        (weightFloat r.wfmt = none → out ≤ 2048 → ∀ row o, row < x.lmul → o < out →
          y.1.cell (row * 2048 + o) = BitVec.ofInt 32 ((t.cell (row * 2048 + o)).toNat +
            ((span x.vstart.toNat (hi - x.vstart.toNat)).map fun j =>
              valueOf ((l.vr (b.toNat + row)).fmt.toNat == 2) 8 (slice (l.vr (b.toNat + row)).data (8 * j) 8) *
                weightInt r.wfmt (if transpose then r.weight o j else r.weight j o)).foldl (· + ·) 0)))) ∧
    (∀ (t : Acc) (w : State), s.accAt a.toNat = some t → t.owner = me → x.vl.toNat ≤ 2048 → 1 ≤ x.vfmt → x.vfmt ≤ 6 →
      (let v := x.rx c
       s.VecReady [] → slice v 56 8 = 0 →
       drain k (sintOf 8 (slice v 48 8)) (fun r => (x.rx b).toInt + r * sintOf 48 (slice v 0 48)) t (s.landedState []) = .ok () w →
       exec (.mdrain a b c k) s = .next w) ∧
      (let gi : Grp := { reg := c.toNat, emul := 1, eew := 64 }
       let l := s.landed gi.regs
       s.VecReady gi.regs → IndexesTagged l [gi] →
       drain k 0 (fun r => (x.rx b).toInt + (l.elem gi r : Nat)) t (s.landedState gi.regs) = .ok () w →
       exec (.mdrainx a b c k) s = .next w))

/-- CAST on a needle whose named stitches have all stopped releases at core scope, hands them the block, which each
begins with an acquire, and goes on behind it; SFETCH on a stitch goes to pc + 2 × off21; STOP on a stitch releases
and stops it with its state intact, on a needle whose tile is quiet it ends the program of the tile; WAITS acquires
and retires where every named stitch has stopped or faulted, and parks otherwise; SSTAT gives the snapshot of a
stitch; SRESUME releases at core scope, lets a faulted stitch run on after an acquire and cancels its event; SKILL
resets a stitch whose streams are drained. Model's choice, no rule of the spec: which pending stores a release
performs and which reads ahead an acquire forgets (log 5); that an instruction without a destination clears ldst.V
alone and keeps the class and number bits (log 12); which registers a tile start resets (log 35); that a needle in
STOP raises a pending plane error first (log 40); that a STOP waits for the stitches of its own tile (log 72). (R16,
R21, R22, R247, R248, R249, R250, R251, R253, R254, R255, R293) -/
def Obligations.StitchControlCompletes : Prop :=
  ∀ (s : State) (a : BitVec 5) (m : BitVec 8) (n : BitVec 7) (u : BitVec 1) (sc : BitVec 3) (f : BitVec 21),
    let c := s.ctx
    let named := ((List.range 8).filter fun j => m.getLsbD j).map s.stitchIx
    (s.kind = .needle → m ≠ 0 → m.toNat < 2 ^ s.stitches →
      (∀ (halves : List Nat) (count : Nat) (w : State), 1 ≤ n.toNat → n.toNat ≤ 64 →
        blockHalves (c.pc + 4) n.toNat s = .ok halves w → blockCount 0 halves = some count → count ≤ 16 →
        let stop := c.pc + 4 + BitVec.ofNat 64 (2 * n.toNat)
        let given := named.foldl (fun v k => (v.acquiresBy k 1).updAt k fun x => x.receive (c.pc + 4) stop halves) (w.releases 1)
        ((∀ k ∈ named, (w.ctxs.get k).run = .stopped) → exec (.cast m n) s =
          .next (given.upd fun x => { x.retire (ldNone x.ldst) with pc := stop })) ∧
        ((∃ k ∈ named, (w.ctxs.get k).run ≠ .stopped) → exec (.cast m n) s = .next w)) ∧
      (s.waitMet s.cur (.waits m) = true → exec (.waits m u) s = .next ((s.acquires 1).done 4)) ∧
      (s.waitMet s.cur (.waits m) = false → exec (.waits m u) s =
        .next (s.upd fun x => { x with run := .waiting, wait := some (.waits m), unbounded := u == 1 }))) ∧
    (s.kind = .stitch →
      exec (.sfetch f) s = .next (s.upd fun x =>
        { x.retire (ldNone x.ldst) with pc := x.pc + 2 * f.signExtend 64, castEnd := none }) ∧
      exec .stop s = .next ((s.releases 1).upd fun x => { x.next 4 (ldNone x.ldst) with run := .stopped, castEnd := none })) ∧
    (s.kind = .needle → c.planeErr = [] →
      (s.tileQuiet (numOf s.cur) = true → exec .stop s = .next
        (let v := (s.performTile (numOf s.cur)).upd fun x =>
          { x.next 4 (ldNone x.ldst) with run := .stopped, castEnd := none }
         v.setTile (numOf s.cur) ((v.tileAt (numOf s.cur)).map fun t => { t with ended := true }))) ∧
      (s.tileQuiet (numOf s.cur) = false → exec .stop s = .next s)) ∧
    (s.kind = .needle → sc.toNat < s.stitches →
      let k := s.stitchIx sc.toNat
      exec (.sstat a sc) s = .next (s.doneX 4 a (s.snapshot k)) ∧
      ((s.ctxs.get k).run = .faulted → exec (.sresume sc) s =
        .next ((((((s.releases 1).acquiresBy k 1).clearEvent k).updAt k fun x =>
          { x with run := .running, faultCause := 0, faultInfo := 0 })).done 4)) ∧
      ((s.ctxs.get k).run ≠ .faulted → exec (.sresume sc) s = .next ((s.releases 1).done 4)) ∧
      ((s.ctxs.get k).streamsDrained 255 = true → exec (.skill sc) s =
        .next ((((s.updAt k fun x => { x with run := .stopped, wait := none, castEnd := none }).endStitch k).acquires 1).done 4)))

/-- On a stitch with aligned, unbound groups: VOFFER sets the link-full bits of a tagged group; VLINK copies a group
that another stitch of the tile offers, with tags and high-water marks, and stalls while it is not offered; VPUSH
lands its group at a stitch of the launch whose gate is open and whose core has free rows; VPUSHM does so for every
entry of its gang record. Model's choice, no rule of the spec: that an instruction without a destination clears ldst.V
alone and keeps the class and number bits (log 12); that members of a VPUSHM land as they can (log 19); how rows are
counted and landings wait for them (log 20); that the source number of VLINK consumes a landing of the issuing stitch
(log 23); that the upper bits of an ident operand are zero (log 29); corners of vector, matrix and launch rules (log
62); that VOFFER, VLINK, VPUSH, VPUSHM, MZERO and MREL leave vstart (log 73). (R46, R256, R257, R260, R261, R262) -/
def Obligations.LinksAndPushesComplete : Prop :=
  ∀ (s : State) (a b c : BitVec 5) (sc : BitVec 3), s.kind = .stitch →
    let x := s.ctx
    let ga := x.grp a
    let gb := x.grp b
    let Unbound (g : Grp) : Prop := g.aligned = true ∧ ∀ r ∈ g.regs, x.slotOf r = none
    let lb := s.landed gb.regs
    let tagged := ∀ r ∈ gb.regs, (lb.vr r).fmt ≠ 0
    (Unbound gb → tagged → exec (.voffer b) s =
      .next ((s.upd fun _ => lb.updVs gb.regs fun _ r => { r with link := true }).done 4)) ∧
    (Unbound ga → gb.aligned = true → sc.toNat < s.stitches → s.stitchIx sc.toNat ≠ s.cur →
      let o := s.ctxs.get (s.stitchIx sc.toNat)
      let la := s.landed (ga.regs ++ gb.regs)
      ((∀ r ∈ gb.regs, (o.vr r).link = true) → exec (.vlink a b sc) s = .next (s.upd fun _ =>
        (la.updVs ga.regs fun j r =>
          let src := o.vr (gb.reg + j)
          { r with data := src.data, fmt := src.fmt, width := src.width, hwm := src.hwm, dirty := true,
                   link := false }).next 4 (ldV a))) ∧
      ((∃ r ∈ gb.regs, (o.vr r).link = false) → exec (.vlink a b sc) s =
        .next (s.upd fun _ => { la with held := true }))) ∧
    (Unbound gb → ga.aligned = true → tagged →
      let u := s.landedState gb.regs
      let imgs := lb.images gb
      (∀ t w, targetOk (x.rx c).toNat = true → s.identInside (x.rx c).toNat = true → x.pushed = [] → u.pushTarget (x.rx c).toNat = some t →
        u.pushOne a.toNat imgs t = some w → exec (.vpush a b c) s = .next (w.done 4)) ∧
      (∀ es ts v r w, (∀ l f k m n, x.wait ≠ some (.push l f k m n)) → x.pushed = [] → gangEntries (x.rx c) u = .ok es v →
        gangTargets (x.rx c) es.zipIdx v = .ok ts r → r.ctx = lb →
        r.pushAll a.toNat imgs ts = (w, []) → exec (.vpushm a b c) s = .next (w.done 4)))

/-- SBIND with a valid pattern record on a free slot and an unbound register binds the stream; SUNBIND frees a drained
slot (the writes of a store slot come before later accesses, barred); CHDECL declares a channel on a free watermark
register; CHKICK makes the stores of its context visible, forgets what is read ahead of the buffer and starts a
checked one, with the cycle of its first strips; WMBIND with b = 0 frees a binding, and with a valid record makes one,
of which nothing stays read ahead; WMPUB releases and raises a producer value in its word; WMWAIT and SIGW acquire and
retire where the value is reached and park otherwise; SIGP releases and adds to its word. Model's choice, no rule of
the spec: which pending stores a release performs and which reads ahead an acquire forgets (log 5); that an
instruction without a destination clears ldst.V alone and keeps the class and number bits (log 12); that signal words
in the stash window are refused (log 38); corners of vector, matrix and launch rules (log 62); the order of a guest's
faults at the stash window (log 67); open points of stage queues, returning tiles and CHDECL (log 86). (R263, R268,
R269, R270, R272, R273, R275, R276, R277, R278) -/
def Obligations.StreamsWatermarksAndSignalsComplete : Prop :=
  ∀ (s : State) (a b : BitVec 5) (sc : BitVec 3) (g u1 : BitVec 1), s.kind ≠ .guest →
    let c := s.ctx
    let n : Fin 16 := Fin.ofNat 16 a.toNat
    let own (w : Watermark) : Prop := s.wm.get n = some w ∧ s.inLaunch s.cur w = true ∧ a.toNat < 16
    (s.kind = .stitch →
      (∀ r q u, 16 ≤ a.toNat → readRecord (c.rx b) 16 6 s = .ok r u → patternOf (g == 1) a r = some q →
        u.ctx.sq.get sc.toFin = none → u.ctx.slotOf a.toNat = none →
        exec (.sbind a b sc g) s = .next ((u.upd fun c => c.updSq sc.toNat fun _ => some q).done 4)) ∧
      (c.streamsDrained (2 ^ sc.toNat) = true →
        exec (.sunbind sc) s = .next (((if c.streamNamed (2 ^ sc.toNat) true then s.barred (2 ^ sc.toNat) else s).upd fun c =>
          c.updSq sc.toNat fun _ => none).done 4))) ∧
    (∀ (xs xn : BitVec 5) (off : BitVec 18) (len : BitVec 12) (esz : BitVec 2),
      let count := (c.rx xn).toNat
      let eb := 2 ^ esz.toNat
      let strip := len.toNat + 1
      let o := 16 * off.toNat
      let size := 2 * strip * eb
      a.toNat < 16 → (∀ t, s.tileOf s.cur = some t → t.desc.second = false) → s.wm.get n = none → c.rx xs ≠ 0 →
      1 ≤ count → count < 2 ^ 32 → strip * eb % 16 = 0 → (c.rx xs).toNat % eb = 0 → o + size ≤ 0x3F0000 →
      s.bufferTaken o size = false → (∀ m, s.macroHeld m = false) →
      exec (.chdecl xs xn off len esz a) s = .next ((s.setWm n (some (Watermark.mk .channel (s.slotOf s.cur)
        (c.rx xs).toNat eb count 1 false 0 0 strip o false 0 0 s.cur.val none false []))).done 8)) ∧
    (∀ w u, own w → w.role = .channel → w.kicked = false →
      ((s.rangeStarts w.base (w.count * w.esz)).forM fun p => do
        let _ ← checkClass [.general, .plane, .host, .peer] .load (BitVec.ofNat 64 p) 1
        pure ()) s = .ok () u →
      let v := (u.settleCtx u.cur).forgetEarly w.buffer.1 w.buffer.2
      exec (.chkick a) s = .next ((v.setWm n (some { w with
        kicked := true, owner := v.cur.val, starts := List.replicate (min 2 w.strips) v.now })).done 4)) ∧
    (a.toNat < 16 → s.wm.get n = none → exec (.wmbind a 0 0 0) s = .next (s.done 4)) ∧
    (∀ w, own w → w.role ≠ .channel → exec (.wmbind a 0 0 0) s = .next ((s.setWm n none).done 4)) ∧
    (∀ r w u v ph, a.toNat < 16 → b ≠ 0 → sc ≠ 7 → readRecord (c.rx b) 8 3 s = .ok r u →
      wmRecord u sc (g == 1) r = some w → u.wm.get n = none →
      checkClass [.general] .load (BitVec.ofNat 64 w.word) 8 u = .ok ph v →
      exec (.wmbind a b sc g) s = .next (State.done { v.setWm n (some w) with
        ctxs := v.ctxs.map fun c => { c with
          granted := c.granted.set n.val 0 n.isLt,
          early := c.early.filter fun e => !rangesMeet e.addr e.size w.base (w.count * w.esz) } } 4)) ∧
    (∀ w old u, own w → w.role = .producer →
      let v := min (max w.value (c.rx b).toNat) w.count
      memRmw (BitVec.ofNat 64 w.word) 8 (fun o => some (max o v)) (s.releases w.scope) = .ok old u →
      exec (.wmpub a b) s = .next ((u.setWm n (some { w with value := v })).done 4)) ∧
    (∀ w, own w →
      let bound := if w.role = .channel then (c.rx b).toNat else min (c.rx b).toNat w.count
      (bound ≤ w.shown → exec (.wmwait a b u1) s = .next ((s.acquires w.scope).done 4)) ∧
      (w.shown < bound → w.failed = none → exec (.wmwait a b u1) s = .next (s.upd fun x =>
        { x with run := .waiting, wait := some (.mark n.val bound), unbounded := u1 == 1 }))) ∧
    (∀ old u v, sc ≠ 7 → signalCheck .atomic (c.rx a) s = .ok () u →
      memRmw (c.rx a) 8 (fun o => some (o + (c.rx b).toNat)) (u.releases sc) = .ok old v → u.ctx = c →
      exec (.sigp a b sc) s = .next (v.done 4)) ∧
    (∀ value u v, sc ≠ 7 → signalCheck .load (c.rx a) s = .ok () u → memRead (c.rx a) 8 u = .ok value v →
      ((c.rx b).toNat ≤ value → exec (.sigw a b sc u1) s = .next (((v.acquires sc).dropOwn 16).done 4)) ∧
      (value < (c.rx b).toNat → exec (.sigw a b sc u1) s = .next (v.upd fun x =>
        { x with run := .waiting, wait := some (.signal (c.rx a) (c.rx b).toNat), unbounded := u1 == 1 })))

/-- THROW on a needle or stitch to a target with a home and an even entry releases at its scope, widened to contain
the home, and sends the call of its payload; with a ticket where rd is not x0 and a slot is free, and 0 in X[rd]
otherwise. CATCH gives 3 for no ticket, 2 for an unknown one, 0 with the reply in x10 to x13 and an acquire, 1 after
the timeout, parks before it, and raises 0x0D for a guest fault. COLL with fields, record, team and buffers that pass,
with fewer than four in progress or after the oldest one that it waited for (collRoom), makes what it has stored to
its buffers visible and issues its collective, whose engine then reads its send buffer where no earlier engine command
holds it back. LAUNCH on an open queue with room releases at system scope, writes its entry and the tail, and its
cycle is noted. Model's choice, no rule of the spec: which pending stores a release performs and which reads ahead an
acquire forgets (log 5); what counts as a cycle and as the enqueue of an entry (log 6); the privilege at which engines
access memory (log 8); when collectives read, write and abort (log 25); that the upper bits of an ident operand are
zero (log 29); the order of the writes of CATCH (log 37); the limits of a queue header and the info of a LAUNCH fault
(log 39); what other cores do (log 48); the info of cause 0x0D (log 63). (R33, R120, R279, R282, R283, R284, R285,
R286, R287, R321, R323, R327) -/
def Obligations.ThrowsCollectivesAndLaunchesComplete : Prop :=
  ∀ (s : State) (a b c : BitVec 5) (sc : BitVec 3) (w : BitVec 1), s.kind ≠ .guest → s.ctx.guest = none →
    let x := s.ctx
    (∀ (h : Home) (u : State), sc ≠ 7 → (x.rx c).toNat % 2 = 0 → throwHome (x.rx b) s = .ok h u → u.ctx = x →
      let v := u.releases (widen sc (u.homeScope h))
      let call (ticket : Word) : ThrowMsg :=
        { forwarded := false, kept := false, scope := widen sc (v.homeScope h), budget := 4096, thrower := v.farIdent v.cur,
          ticket := ticket, target := x.rx b, entry := x.rx c, payload := x.payload, homeStack := 0, homeVault := 0,
          partition := (v.partOf v.cur).val }
      (a = 0 → exec (.throwCall a b c sc) s = .next ((v.dispatchThrow (call 0) h).doneX 4 a 0)) ∧
      (a ≠ 0 → x.freeTicket = none → exec (.throwCall a b c sc) s = .next (v.doneX 4 a 0)) ∧
      (∀ n, a ≠ 0 → x.freeTicket = some n →
        let ticket : Word := (x.throwSeq.setWidth 64 <<< 4) ||| BitVec.ofNat 64 (8 + n.val)
        let slot : Ticket := Ticket.mk true x.throwSeq v.counted x.throwtmo.toNat none
        exec (.throwCall a b c sc) s = .next (((v.dispatchThrow (call ticket) h).upd fun x =>
          { x with throwSeq := x.throwSeq + 1, tickets := x.tickets.set n.val slot n.isLt }).doneX 4 a ticket))) ∧
    (let ticket := x.rx b
     let n : Fin 8 := Fin.ofNat 8 (ticket.toNat % 8)
     let t := x.tickets.get n
     let known := t.used = true ∧ t.seq.toNat = ticket.toNat / 16
     let freed := s.upd fun x => x.freeSlot n
     (ticket.getLsbD 3 = false → exec (.catchReply a b w) s = .next (s.doneX 4 a 3)) ∧
     (ticket.getLsbD 3 = true → ¬known → exec (.catchReply a b w) s = .next (s.doneX 4 a 2)) ∧
     (ticket.getLsbD 3 = true → known →
       (∀ r, t.reply = some r → r.gcause = none →
         exec (.catchReply a b w) s = .next (((freed.upd fun x => x.takeReply r).acquires 6).doneX 4 a 0)) ∧
       (∀ r cause, t.reply = some r → r.gcause = some cause → exec (.catchReply a b w) s =
         .next ((freed.acquires 6).raise 0x0D#8 (BitVec.ofNat 64 (cause.toNat * 2 ^ 56 + r.info.toNat % 2 ^ 55)))) ∧
       (t.reply = none → s.ticketLate t = true → exec (.catchReply a b w) s = .next (freed.doneX 4 a 1)) ∧
       (t.reply = none → s.ticketLate t = false → exec (.catchReply a b w) s = .next (s.upd fun x =>
         { x with run := .waiting, wait := some (.reply ticket), unbounded := w == 1 })))) ∧
    (∀ (esz kind : BitVec 2) (op : BitVec 3) (r head : Nat) (es : List Nat) (rank : Nat) (u v w z : State),
      collFields esz op kind sc s = .ok () s → readRecord (x.rx a) 8 7 s = .ok r u →
      let k := collRecord r
      let team := BitVec.ofNat 64 k.team
      readRecord team 8 1 u = .ok head v →
      let p := bitsAt head 0 32
      let id := bitsAt head 32 32
      let eb := 2 ^ esz.toNat
      let sn := sendCount kind.toNat k.n p * eb
      let rn := recvCount kind.toNat k.n p * eb
      let unread := kind.toNat = 3 ∧ rank ≠ 0
      2 ≤ p → p ≤ 4096 → id ≠ 0 → forRecord team (teamEntries (team + 8) p) v = .ok es w →
      es.findIdx? (· == (w.farIdent w.cur).toNat) = some rank → 1 ≤ k.n → k.n < 2 ^ 32 → k.doneAddr % 8 = 0 →
      k.statusAddr % 8 = 0 → es.all teamEntryOk = true → es.eraseDups.length = p →
      (sc = 4 → ∀ e ∈ es, e / 65536 = w.mgmt.moduleNumber) → (∀ e ∈ es, w.memberInside e = true) →
      (unread ∨ k.sendAddr + sn ≤ k.recvAddr ∨ k.recvAddr + rn ≤ k.sendAddr ∨
        (k.sendAddr = k.recvAddr ∧ (kind.toNat = 0 ∨ kind.toNat = 3))) →
      (∀ sends, (unread → sends = []) → (¬unread → sends = bufferPlaces .load k.sendAddr sn eb) →
        let recvs := bufferPlaces .store k.recvAddr rn eb
        (mergePlaces (sends.length + recvs.length) sends recvs).forM placeCheck w = .ok () z) →
      collRoom z = .ok () z →
      ∃ m : Coll, exec (.coll esz op kind sc a) s =
          .next ((State.captureColls ((z.releaseBuffers z.cur m).upd fun x => x.issueColl m)).done 8) ∧
        m.read = false ∧ m.written = false ∧ m.stores = [] ∧ m.issued = z.now ∧ m.sendAddr = k.sendAddr ∧
        m.mem.team = id ∧ m.mem.rank = rank ∧ m.mem.op = op.toNat ∧ m.mem.kind = kind.toNat ∧ m.mem.esz = eb ∧
        m.mem.n = k.n ∧ m.mem.p = p ∧ m.mem.scope = sc.toNat ∧ m.mem.entries = es ∧ m.mem.send = [] ∧
        m.recvAddr = k.recvAddr ∧ m.doneAddr = k.doneAddr ∧ m.addend = k.addend ∧ m.statusAddr = k.statusAddr ∧
        m.mem.aborted = false) ∧
    (let queued (u : State) (q entry len : Nat) (i : Instr) : Prop := ∀ h v t,
       let p := u.partOf u.cur
       u.queueOpen p q = some h → (h.tail + 2 ^ 64 - h.head) % 2 ^ 64 < h.n →
       (u.releases 6).engineWrite p 1 (h.entryAddr h.tail) 32 entry = .ok v →
       v.engineWrite p 1 (v.headAddr p q + 64) 8 (h.tail + 1) = .ok t → exec i s = .next ((t.noteEntry p q h.tail).done len)
     (∀ ph ph' u u',
       let e := if (x.rx c).toNat % 65536 + 1151 < 65536 then x.rx c
         else x.rx c + BitVec.ofNat 64 (65536 - (x.rx c).toNat % 65536)
       (x.rx b).toNat ≤ 63 → (x.rx c).toNat % 128 = 0 → checkClass [.general] .load (x.rx c) 1 s = .ok ph u →
       checkClass [.general] .load e 1 u = .ok ph' u' → queued u' (x.rx b).toNat (x.rx c).toNat 4 (.launch b c)) ∧
     (∀ (count : BitVec 32) (scode : BitVec 2) (q : BitVec 6),
       queued s q.toNat (inlineEntry scode.toNat count.toNat (x.rx a) (x.rx b)) 8 (.launchInline b count scode q a)))

/-- For the instruction at the head of a queue: a round before the last of a form that runs as the add or multiply
swatch of R220 seals one row, the bit of the sum, or of the product with the multiplier bits passed so far, in every
column, and no other row changes; one of a compare writes nothing; one of another form leaves its destination rows
open. The last round, where no upset or stale code spoils it, leaves in every column of every subarray of its batch
the function of R202 of the columns of its sources and the residue code of the result where it writes one (of an add
by residue the code alone, its rows being sealed), leaves every other row and ends the batch; a round of a swatch runs
its words; a source verify marks the span verified or fails it; a transfer moves the next elements of its next
subarray or fails where one cannot be reached; an instruction with nothing left leaves the queue. A plane error is
raised once as cause 0x16 with its pc, the earliest first. A refresh that is due sets the next due time a whole number
of intervals later, after now. Model's choice, no rule of the spec: which agent moves next, one move of the schedule
at a time (log 3); that open values are free constants of Config (log 4); which pending stores a release performs and
which reads ahead an acquire forgets (log 5); what counts as a cycle and as the enqueue of an entry (log 6); the
privilege at which engines access memory (log 8); that a transfer whose memory fails after issue ends as a detected
plane error (log 10); how a stale residue code shows (log 11); the fields of log records that no rule fixes (log 18);
that an upset in a form which is not checked shows no effect (log 61). (R202, R205, R206, R213, R216, R217, R218,
R219, R220, R224) -/
def Obligations.PlaneEventsRun : Prop :=
  ∀ (c stack n vault : Nat) (up : Bool) (s : State),
    let k := ctxIx c
    (∀ o, s.headOp k stack = some o →
      (s.roundReady k o = true → s.refreshDue (s.physical o (s.nextBatch k o)) = false → (o.checked = true → o.verified = true) →
        let t := s.startBatch k o
        let p := (t.headOp k stack).getD o
        let subs := t.physical p p.batch
        (∀ f v, p.kind = .form f v →
          exec (.carriageRound c stack up) s = .next ((t.formRound k p f v up).noteOwn t k 8) ∧
          (t.stopAt = none → subs.Nodup → p.d.rowbase + p.d.width + 2 ≤ 1040 → p.a.rowbase + p.a.width ≤ 1040 →
            p.b.rowbase + p.b.width ≤ 1040 → p.e.rowbase < 1040 →
            let g := pfnOf f
            let u := t.formRound k p f v up
            let d (sub col : Nat) : Nat := planeElem g p.signed p.d.width p.a.width p.b.width (t.column p.a sub col)
              (if p.b.used then t.column p.b sub col else 0) v
              (p.e.used && (t.row (rowKey sub p.e.rowbase)).getLsbD col)
            let at_ (x sub : Nat) : Nat := rowKey sub (p.d.rowbase + x)
            let Kept (x len : Nat) : Prop := ∀ r, (∀ sub ∈ subs, r < at_ x sub ∨ at_ x sub + len ≤ r) → u.row r = t.row r
            let Goes : Prop := u.ctxs = (t.updOp k stack fun o => { o with rounds := o.rounds + 1, moved := 0 }).ctxs ∧ u.mem = t.mem
            let Done : Prop := u.ctxs = (t.endBatch k stack).ctxs ∧ u.mem = t.mem
            (p.rounds < p.formRounds f → (p.checked && up) = false →
              (p.asAdd g = true → p.a.width = p.d.width → (p.b.used = true → p.b.width = p.d.width ∧ v = none) → p.d.width ≤ 16 →
                Goes ∧ Kept p.rounds 1 ∧ ∀ sub ∈ subs, ∀ col, col < 8192 →
                  (u.row (at_ p.rounds sub)).getLsbD col = (d sub col).testBit p.rounds) ∧
              (p.asMul g = true → let m := mulPlace p.d.width p.rounds (p.d.width - 1)
                Goes ∧ Kept (m.1 + m.2) 1 ∧ ∀ sub ∈ subs, ∀ col, col < 8192 →
                  (u.row (at_ (m.1 + m.2) sub)).getLsbD col =
                    (t.column p.a sub col * (t.column p.b sub col % 2 ^ (m.1 + 1))).testBit (m.1 + m.2)) ∧
              (p.asCompare g = true → Goes ∧ u.rows = t.rows) ∧
              (p.asAdd g = false → p.asMul g = false → p.asCompare g = false →
                u = (t.freeRows subs p.destRows).updOp k stack fun o => { o with rounds := o.rounds + 1, moved := 0 })) ∧
            (p.formRounds f ≤ p.rounds → (p.checked = false ∨ up = false ∧ (p.byResidue g = true →
                ∀ sub ∈ subs, t.stale p.a sub 8192 = false ∧ t.stale p.b sub 8192 = false)) →
              (p.asMul g = true → Done ∧ u.rows = t.rows) ∧
              (p.asAdd g = true → p.a.width = p.d.width → (p.b.used = true → p.b.width = p.d.width ∧ v = none) →
                Done ∧ Kept p.d.width 2 ∧ ∀ sub ∈ subs, ∀ col, col < 8192 →
                  t.code p.a sub col = t.column p.a sub col % 3 →
                  (p.b.used = true → t.code p.b sub col = t.column p.b sub col % 3) → u.code p.d sub col = d sub col % 3) ∧
              (p.asMul g = false → p.asAdd g = false → Done ∧ Kept 0 (p.d.width + 2) ∧
                ∀ sub ∈ subs, ∀ col, col < 8192 → u.column p.d sub col = d sub col % 2 ^ p.d.width ∧
                  (p.d.residue = true → p.byResidue g = false → u.code p.d sub col = d sub col % 3))))) ∧
        (∀ ws, p.kind = .prun ws → exec (.carriageRound c stack up) s =
          .next ((t.swatchRound k stack ws up (t.stopAt.getD (2 ^ 22))).noteOwn t k 8))) ∧
      (s.roundReady k o = true → o.checked = true → o.verified = false →
        let t := s.startBatch k o
        exec (.sourceVerify c stack false) s = .next (t.updOp k stack fun o => { o with verified := true }) ∧
        exec (.sourceVerify c stack true) s = .next (t.planeFail k ((t.headOp k stack).getD o))) ∧
      (o.left = [] → o.batch = [] → exec (.planeRetire c stack) s = .next (s.updAt k fun x =>
        { x with planes := changeFirst (fun p => p.stack == stack) (fun _ => none) x.planes })) ∧
      (∀ m rest, o.left = m :: rest → s.opReady k o = true → s.refreshDue (s.physical o [m]) = false →
        s.batchTaken k (s.physical o [m]) = false →
        let moved (u : State) (ok : Bool) : State :=
          (if ok then u.transferred k stack m (s.toMove o m).length else u.planeFail k o).noteOwn s k 8
        (∀ base u ok, o.kind = .pxin base → s.pxinOn (s.partOf k) o base m = (u, ok) →
          exec (.subarrayTransfer c stack n) s = .next (moved u ok)) ∧
        (∀ base u ok, o.kind = .pxout base → (o.checked = true → o.d.residue = true →
            n < 2 ∧ ∀ sub ∈ s.physical o [m], s.staleAt o.d sub (s.toMove o m) = false) →
          s.pxoutOn (s.partOf k) o base m = (u, ok) →
          exec (.subarrayTransfer c stack n) s = .next (moved u ok)))) ∧
    (∀ a rest, (s.ctxs.get k).planeErr = a :: rest → s.movable k = true → s.active = true →
      exec (.detectedPlaneError c) s = .next (({ s with cur := k }.upd fun x => { x with planeErr := rest }).raise 0x16 a)) ∧
    (let r := s.refreshAt vault
     r.due ≤ s.now → ∃ j, let due := r.due + (j + 1) * s.refreshInterval (vault / 32)
       r.due + j * s.refreshInterval (vault / 32) ≤ s.now ∧ s.now < due ∧
       exec (.refresh vault) s = .next { s with
         refresh := VaultRefresh.mk vault due s.now :: s.refresh.filter fun x => x.vault != vault })

/-- An open queue whose head entry may be taken, the oldest such of its priority, gives it up, and stops where the
entry cannot be read; dependence words that have reached their values are met; the best launch starts a tile on this
core while it is idle, and on another one; a tile whose needle has stopped ends; a launch whose tiles have all ended
completes; a context of a stopping tile is saved at its point; a frozen tile goes on, and the saved tile that is next
comes back where no launch of higher priority has a tile to start; a T level whose start or end the needle fetches is
entered or goes on; PREFETCH changes nothing; the arbiter moves a lane group from a producer that stalled half the
period; a lane group passes to the next stitch in turn; rows spill where a landing has been blocked for 1 us. Model's
choice, no rule of the spec: which agent moves next, one move of the schedule at a time (log 3); which pending stores
a release performs and which reads ahead an acquire forgets (log 5); what counts as a cycle and as the enqueue of an
entry (log 6); the privilege at which engines access memory (log 8); how rows are counted and landings wait for them
(log 20); what of a context stays beside its record (log 21); the limits of a queue header and the info of a LAUNCH
fault (log 39); how tiles are placed (log 43); that a record, signal or handle word which cannot be written is skipped
(log 44); that a head word which cannot be written stops its queue (log 45); what other cores do (log 48); that a RET
command waits for the pre-emption points (log 58); the lane groups that limit 1 leaves (log 59); tiles that are frozen
while pre-emption asks them to leave, and granules never filled (log 77); the priority of a guest and the scope of the
acquire that ends a lock stall (log 84); open points of stage queues, returning tiles and CHDECL (log 86). (R13, R16,
R17, R30, R35, R47, R92, R322, R329, R330, R331, R344) -/
def Obligations.LaunchEventsRun : Prop :=
  ∀ (s : State) (q launch slot c : Nat), s.active = true → s.mgmt.entering = none →
    (let p := partIx (q / 64)
     ∀ h, (s.part p).on = true → s.queueOpen p (q % 64) = some h → s.headWaits p (q % 64) h = true →
       s.queueFirst p (q % 64) h = true →
       (∀ e, s.engineRead p 1 (h.entryAddr h.head) 32 = .error e →
         exec (.queueEntryAccept q) s = .next (s.stopQueue p (q % 64) (h.entryAddr h.head))) ∧
       (∀ e, s.engineRead p 1 (h.entryAddr h.head) 32 = .ok e → s.previousLaunch p (q % 64) = none →
         exec (.queueEntryAccept q) s = .next (s.takeEntry p (q % 64) h e))) ∧
    exec (.prefetch launch) s = .next s ∧
    (∀ l ∈ s.launches, l.id = launch → (∀ o ∈ s.launches, o.id = launch → o = l) →
      (∀ d ∈ l.desc.deps, d.met = true ∨ ∃ ph, s.xlate (partIx l.part) 1 .load d.addr = .ok ph ∧ ph.cls ≠ .plane ∧
        ph.key / 2 ^ 58 ≠ 1 ∧ d.value ≤ s.readN ph.key 8) →
      ∃ (t : State) (m : Launch), exec (.launchReady launch) s = .next t ∧ m ∈ t.launches ∧ m.id = launch ∧ m.ready = true ∧
        (∀ d ∈ m.desc.deps, d.met = true) ∧ m.shares = l.shares ∧ t.ctxs = s.ctxs ∧ t.mem = s.mem) ∧
    (∀ l n, s.startable launch s.stack.toNat = some (l, n) → s.idleCore s.coreId = true →
      exec (.tileStart launch 0) s = .next (s.clearShared.startTile l n 0 0 (s.laneGroups l.prio))) ∧
    (∀ core, exec (.tileStart launch (2 + 2 * core)) s = .next (s.startRemote launch core 0)) ∧
    (∀ t, slot < 2 → s.tileAt slot = some t → t.ended = true →
      exec (.tileEnd slot t.launch) s = .next (s.endTile slot false)) ∧
    (∀ l, s.launches.find? (fun l => l.id == launch) = some l → s.mayComplete l = true →
      exec (.launchComplete launch) s = .next (s.completeLaunch l)) ∧
    (∀ t, c < 12 → s.tileOf (ctxIx c) = some t → ctxIx c ∈ tileCtxs (s.slotOf (ctxIx c)) t → t.stopping = true → t.frozen = false →
      (s.ctxs.get (ctxIx c)).saved = false → s.atPoint (ctxIx c) = true →
      exec (.contextSave c) s = .next ((s.saveCtx (ctxIx c)).tileSaved (s.slotOf (ctxIx c)))) ∧
    (∀ t, s.tileAt (slot % 2) = some t → t.frozen = true → t.stopping = false → t.leaving = false →
      exec (.tileRestore slot) s =
        .next ((s.setTile (slot % 2) (some { t with frozen := false })).resume (slot % 2) t 2)) ∧
    (∀ e, s.tileAt (slot % 2) = none → s.nextBack (slot % 2) = some e →
      (∀ l, s.bestLaunch s.stack.toNat = some l → l.prio ≤ e.tile.prio) →
      let u := (s.bringBack e).resume (slot % 2) e.tile 2
      ∀ t, u.tileAt (slot % 2) = some t →
        let g := match u.tileAt (1 - slot % 2) with
          | some o => u.secondGroups o t.prio (u.nominal o)
          | none => u.laneGroups t.prio
        exec (.tileRestore slot) s =
          .next ((u.setTile (slot % 2) (some { t with share := g })).shareLanes { t with share := g } g)) ∧
    (∀ p, s.startingLevel slot = some p →
      exec (.tLevelActivate slot) s = .next (s.updAt (ctxIx (slot % 2)) fun c => c.startLevel p.1 p.2)) ∧
    (∀ p, s.endingLevel slot = some p →
      exec (.tLevelRedirect slot) s = .next (s.updAt (ctxIx (slot % 2)) fun c => c.endLevel p.1 p.2)) ∧
    (∀ (t : Tile) (blocked occ starved : List Nat) (a : StageQueue), s.tileAt (slot % 2) = some t →
      t.desc.squeues = [a] → a.producer < 4 → a.consumer < 4 → a.producer ≠ a.consumer →
      t.desc.mask a.producer ≠ 0 → t.desc.mask a.consumer ≠ 0 → 525 ≤ blocked.headD 0 →
      exec (.stageArbiterPeriod slot blocked occ starved) s = .next (s.moveGroup t a.producer a.consumer)) ∧
    (∀ giver taker, let g := ctxIx (2 + giver % 8)
      let t := ctxIx (2 + taker % 8)
      let held (c : Fin 12) : Bool := kindOf c == .stitch && (s.ctxs.get c).alc == 0 && (s.ctxs.get c).runnable &&
        (s.tileOf c).any fun x => x.holds (numOf c)
      (s.inTurn g).find? held = some t → s.prioOf t = 7 ∨ s.prioOf g ≠ 7 ∨ s.cappedGroups < s.laneCap.toNat →
      4 ≤ (s.ctxs.get g).alc.toNat → exec (.laneSharingTurn giver taker) s =
        .next ((s.updAt g fun c => { c with alc := c.alc - 4 }).updAt t fun c => { c with alc := 4 })) ∧
    (∀ stitch gs b, (∃ t, s.landSince = some t ∧ t + 1050 ≤ s.now) ∨
        (∃ k l f m n since, (s.ctxs.get k).wait = some (.push l f m n since) ∧ since + 1050 ≤ s.now ∧ s.freeRowCount < n) →
      (s.ctxs.get (ctxIx (2 + stitch % 8))).wait = some (.granules gs b) →
      exec (.rowSpill stitch) s = .next (s.updAt (ctxIx (2 + stitch % 8)) fun c => { c with spilled := true }))

/-- While no entry into RET is under way: at an instruction boundary the needle takes the machine check of the lowest
code first, an interrupt next and its first event last, a stitch fault as an acquire after what the stitch did; a wait
whose condition is true runs again with the acquire of its scope, a late CATCH and a wait on a peer word run again;
the timer interrupt pends once cycle has reached stimecmp; the watchdog warns, freezes and resets, and ends a guest; a
CAST whose stitches have stopped is delivered; a push from another core lands; a load stream fetches its next group, a
store stream writes one, a channel fills a granule, a consumer reads its word again; a throw starts as a guest, is
passed on, is answered, and one of another module goes to the home that its message names, or nowhere; what collective
members bring is kept and a complete one ends. Model's choice, no rule of the spec: which agent moves next, one move
of the schedule at a time (log 3); which pending stores a release performs and which reads ahead an acquire forgets
(log 5); the privilege at which engines access memory (log 8); that a 0x37 without an M handler stays pending, once
(log 9); what becomes of a delivered element that is refused later (log 17); how rows are counted and landings wait
for them (log 20); when collectives read, write and abort (log 25); that a second IPI replaces the sender (log 30);
the needle that takes a machine check of its core (log 36); that a core reset leaves the tiles which pre-emption took
off (log 47); what other cores do (log 48); the window of a watchdog and its second report (log 49); how far a stream
fetches ahead (log 50); the info of interrupts and the moment of TM (log 66); the order of a thread's throws to one
home (log 76); the priority of a guest and the scope of the acquire that ends a lock stall (log 84). (R36, R114, R247,
R260, R274, R280, R283, R285, R301, R303, R315, R370) -/
def Obligations.TrapAndWaitEventsRun : Prop :=
  ∀ (s : State) (c slot n : Nat), s.active = true → s.mgmt.entering = none →
    let k := ctxIx c
    let x := s.ctxs.get k
    let guarded := s.guarded k = true
    (s.atBoundary (slot % 2) = true →
      let y := s.ctxs.get (ctxIx (slot % 2))
      (∀ m, y.priv.toNat < 2 → s.nextCheck (slot % 2) = some m → exec (.pendingTrapTake slot) s =
        .next ({ s with checks := s.checks.erase m }.enter (ctxIx (slot % 2)) 2 m.code 0xFF y.pc m.info)) ∧
      (∀ j, (y.priv.toNat < 2 → s.nextCheck (slot % 2) = none) → s.nextInterrupt (slot % 2) = some j → j ≠ 2 →
        exec (.pendingTrapTake slot) s =
          .next (s.enter (ctxIx (slot % 2)) 1 (BitVec.ofNat 8 (0x20 + j)) 0xFF y.pc (s.interruptInfo (slot % 2) j))) ∧
      (∀ e rest, (y.priv.toNat < 2 → s.nextCheck (slot % 2) = none) → s.nextInterrupt (slot % 2) = none →
        y.events = e :: rest → s.eventTakable (slot % 2) = true →
        exec (.pendingTrapTake slot) s = .next (((s.afterFault (slot % 2) e).updAt (ctxIx (slot % 2)) fun x =>
            { x with events := x.events.drop 1 }).enter (ctxIx (slot % 2)) (if y.sys.uevec = 0 then 1 else 0) e.code e.src y.pc e.info) ∧
          (e.code = 0x11 → s.afterFault (slot % 2) e = (s.releasesBy
            (ctxIx (2 + ((s.tileAt (slot % 2)).map (·.base)).getD 0 + e.src.toNat)) 1).acquiresBy (ctxIx (slot % 2)) 1))) ∧
    (∀ w, x.wait = some w → x.run = .waiting → x.saved = false → s.waitMet k w = true →
      s.wakesFirst k = true → exec (.architecturalWaitEnd c) s =
        .next ((s.acquiresBy k (s.waitScope w)).updAt k fun x => { x with run := .running })) ∧
    (∀ ticket, x.wait = some (.reply ticket) → ticket.toNat % 8 = n % 8 → x.run = .waiting → x.saved = false →
      let t := x.tickets.get (Fin.ofNat 8 n)
      t.used = true → t.reply = none → s.ticketLate t = true →
      exec (.throwTimeout c n) s = .next (s.updAt k fun x => { x with run := .running })) ∧
    (∀ a v ph, x.wait = some (.signal a v) → x.run = .waiting → x.saved = false →
      s.xlate (s.partOf k) (s.privOf k) .load a.toNat = .ok ph → ph.cls = .peer →
      exec (.peerWake c) s = .next (s.wakeCtx k)) ∧
    ((s.ctxs.get (ctxIx (slot % 2))).sys.stimecmp.toNat ≤ s.now →
      exec (.timerInterrupt slot) s =
        .next (s.updAt (ctxIx (slot % 2)) fun c => { c with sys := { c.sys with timer := true } })) ∧
    (guarded → x.passed 1 = true → x.warned = 0 →
      let e : PendEvent := PendEvent.mk 0x12 (s.warnSource k) ((s.ident k).setWidth 64)
      exec (.watchdogWarning c) s = .next ((s.updAt k fun x => { x with warned := 1 }).updAt (ctxIx (s.slotOf k)) fun n =>
        { n with events := n.events ++ [e] })) ∧
    (guarded → x.passed 2 = true → x.warned = 1 →
      let u := (s.freezeTile (s.slotOf k)).updAt k fun x => { x with warned := 2 }
      let v := u.setTile (s.slotOf k) ((u.tileAt (s.slotOf k)).map fun t =>
        { t with watchdog := true, resetBy := some (t.resetBy.getD (u.now + 100 * 1050)) })
      exec (.watchdogFreeze c) s = .next (v.updPart v.corePart fun p => p.queueReport (reportOf 0 (v.ident k)))) ∧
    (∀ due, (s.tileOf k).bind (·.resetBy) = some due → due ≤ s.now → x.warned = 2 →
      let u := s.resetCore.updPart s.corePart fun p => p.reportReset (s.ident k)
      exec (.watchdogCoreReset c) s = .next (if resetCheckCore u.coreId = u.coreId then u.check 0
        0x35 ((mkIdent u.coreId 0 0).setWidth 64)
        else u.send (.check (resetCheckCore u.coreId) 0x35 ((mkIdent u.coreId 0 0).setWidth 64)))) ∧
    (x.guest.isSome = true → x.passed 1 = true → ∃ info, exec (.guestWatchdogExpiry c) s =
      .next ({ s with draws := s.draws + 1 }.endGuest k (Reply.mk (some 0x0E) info []))) ∧
    (∀ w u r, let t := { s with cur := ctxIx (slot % 2) }
      s.movable t.cur = true → fetchBits t = .ok w u → isCast w = true → s.endingLevel (slot % 2) = none →
      s.startingLevel (slot % 2) = none → s.trapPending (slot % 2) = false → (s.ctxs.get (ctxIx (slot % 2))).planeErr = [] →
      1 ≤ bitsAt w 17 7 → bitsAt w 17 7 ≤ 64 → castBlock (BitVec.ofNat 8 (w / 2 ^ 24)) (bitsAt w 17 7) u = .ok () r → exec (.castDelivery slot) s = .next r) ∧
    (∀ (stitch : Nat) (reg : BitVec 5) (imgs : List VImage) t, let d := ctxIx (2 + stitch % 8)
      s.tileOf d = some t → t.holds (stitch % 8) = true → (s.ctxs.get d).saved = false → 1 ≤ imgs.length → imgs.length ≤ 8 →
      reg.toNat % imgs.length = 0 → (s.ctxs.get d).landingFree reg.toNat imgs.length = true →
      imageRows imgs ≤ s.freeRowCount →
      exec (.pushLanding stitch reg imgs) s = .next { s.landAt d reg.toNat imgs with landSince := none }) ∧
    (∀ q, x.sq.get (Fin.ofNat 8 n) = some q → s.enginesOn k = true →
      (q.store = false →
        exec (.streamFetch c n) s = .next (s.engineRun k (fetchAhead n q q.ahead (16 - q.ahead % 16)))) ∧
      (∀ d ds, q.deliveries = d :: ds → exec (.streamWrite c n) s = .next (s.engineRun k (deliverGroup n q
        (q.deliveries.takeWhile fun e => e.element / 16 == d.element / 16))))) ∧
    (∀ w, s.wm.get (Fin.ofNat 16 n) = some w →
      (w.role = .channel → w.kicked = true → s.enginesOn (ctxIx w.owner) = true →
        s.engineFree w.stripNow.1 [] [w.stripNow.2] = true → exec (.stripWrite n) s = .next ((stripRun n (w.place w.filled / 16) 16 s).freeChannel n)) ∧
      (∀ v, w.role = .consumer → s.peek (ctxIx w.owner) (BitVec.ofNat 64 w.word) 8 = some v →
        exec (.watermarkReread n) s =
          .next (s.setWm (Fin.ofNat 16 n) (some { w with value := max w.value (min v w.count) })))) ∧
    (∀ i at_ m, (s.ctxs.get (ctxIx 10)).guest = none → s.nextThrow = some i → s.throws[i]? = some (at_, m) →
      exec (.guestStart 0) s =
        .next ({ s with throws := s.throws.take i ++ s.throws.drop (i + 1) }.updAt (ctxIx 10) fun _ =>
          guestStart at_ m (s.part s.corePart).wdctl)) ∧
    (∀ ticket info v0 v1 v2 v3, exec (.replyArrival c ticket none info [v0, v1, v2, v3]) s =
      (let r : Reply := Reply.mk none 0 [v0, v1, v2, v3]
       let u := { s with replies := s.replies.erase (k, ticket, r),
                         forwards := s.forwards.filter fun f => !(f.1 == s.farIdent k && f.2 == ticket) }
       .next ((u.updAt k fun x => x.hear ticket r).hearSaved k.val ticket r))) ∧
    (∀ msg, exec (.throwMessage ⟨msg, none⟩) s = .next (s.dispatchThrow msg (.here msg.homeStack msg.homeVault)) ∧
      ∀ home, exec (.throwMessage ⟨msg, some home⟩) s = .next (match s.throwFrom msg home with
        | some m => s.dispatchThrow m (.here m.homeStack m.homeVault)
        | none => s)) ∧
    (∀ mem : CollMember, (∀ m ∈ s.collMembers, ¬ (m.team = mem.team ∧ m.seq = mem.seq ∧ m.rank = mem.rank)) →
      exec (.collExchange mem) s = .next { s with collMembers := mem :: s.collMembers }) ∧
    (∀ o, x.colls[n]? = some o → (∀ m ∈ s.knownMembers o.mem, collDiffers m o.mem = false ∧ m.aborted = false) →
      (∀ r, r < o.mem.p → ∃ m ∈ s.knownMembers o.mem, m.rank = r) →
      exec (.collComplete c n) s = .next (s.runColl k n o))

/-- A command at the head of the queue of the partition, of a legal record, runs by its op and ends with its status, a
GRANT or ENDGRANT once its chunks have moved; a copy that ends with at most 256 blocks recorded switches the residence
and counts the move, with more it starts again, and after three copies the move is abandoned, counted and ends with
status 5; access counters halve after the epoch; a hot chunk in LPDDR 6 moves to a stack with room; expired grants end
once drained; the host reads and writes what its names reach, gets all ones and a record from others, and holds the
lines that it reads through HDM; a snoop moves a line to its state; a peer request inside its partition is performed
and answered, a watch registered, one outside refused; the access that a context makes next to the address of a
poisoned or missing completion raises its cause, a store that the peer rejects or does not complete is discarded
before any agent has seen it; the fabric manager of a module whose domain feature is accepted sets its number, the
highest number, its PBR identifier and the pairings. Model's choice, no rule of the spec: which agent moves next, one
move of the schedule at a time (log 3); which pending stores a release performs and which reads ahead an acquire
forgets (log 5); the fields of log records that no rule fixes (log 18); which command queue this core advances, and
empty masks (log 24); what access counters count (log 31); that a record, signal or handle word which cannot be
written is skipped (log 44); what the rows of a region hold (log 53); what migstat counts (log 54); that a request for
a host line is granted at once (log 64). (R354, R355, R356, R357, R358, R359, R363, R364, R369, R370, R372, R401) -/
def Obligations.MemoryEventsRun : Prop :=
  ∀ s : State, s.active = true →
    (∀ cm rest, (s.part s.corePart).commands = cm :: rest → cmdClean cm = true →
      let op := cmdField cm 0 1
      let stack := cmdField cm 1 1
      let n := cmdField cm 32 8 % 2 ^ 63
      let h := cmdField cm 26 2
      (∀ t st, op = 1 → s.regroupHeld = false → s.grantVaults cm = some (t, st) →
        exec .grantVaults s = .next (if t.regroupHeld then t else t.endCmd cm st)) ∧
      (let vs := maskVaults (cmdField cm 8 4)
       op = 2 → s.cmdStack cm = true → (∀ v ∈ vs, s.granted? s.corePart stack v = true) → s.drained stack vs = true →
         vs ≠ [] → s.regroupHeld = false → s.regrouping stack (2 ^ 63) = false →
         let u := s.takeBack s.corePart.val stack vs true
         exec .endGrant s = .next (if u.regroupHeld then u else u.endCmd cm 0) ∧
         u.grants = s.grants.filter (fun g => !(g.stack == stack && vs.contains g.vault)) ∧
         (∀ r ∈ s.regions, r ∈ u.regions ↔ (r.stack = stack → ∀ v ∈ r.vaults, v ∉ vs)) ∧ u.mem = s.mem ∧ u.ctxs = s.ctxs) ∧
      (∀ t st, op = 3 → s.makeRegion cm = some (t, st) → exec .mkRegion s = .next (t.endCmd cm st)) ∧
      (∀ r, op = 4 → s.region? s.corePart h = some r → s.regionIdle h = true →
        exec .freeRegion s = .next (State.endCmd { s with regions := s.regions.filter fun r => r.handle != h } cm 0)) ∧
      (op = 5 → s.cmdChunk cm = true → (s.chunk stack n).moving = false → (s.chunk stack n).pinned = false →
        s.regrouping stack n = false → (s.chunk stack n).tier = true → bitsAt (cmdField cm 32 8) 63 1 = 0 → s.stackRoom stack = true →
        exec .moveChunk s = .next (s.startMove stack n true)) ∧
      (op = 6 → s.cmdChunk cm = true →
        exec .pinChunk s = .next ((s.updChunk stack (cmdField cm 32 8) fun x => { x with pinned := true }).endCmd cm 0)) ∧
      (op = 7 → s.cmdChunk cm = true →
        exec .unpinChunk s = .next ((s.updChunk stack (cmdField cm 32 8) fun x => { x with pinned := false }).endCmd cm 0))) ∧
    (∀ stack chunk others, (s.chunk stack chunk).moving = true →
      let recorded := (s.chunk stack chunk).blocks.length + others
      let p := (s.ownerOf stack).getD 0
      let ended (u : State) (status : Nat) : State := ((s.movingCmd stack chunk).map fun k => u.endCmd k status).getD u
      (recorded ≤ 256 → exec (.migrationSwitch stack chunk others) s =
        .next (ended ((s.updChunk stack chunk fun c =>
          { c with tier := !c.tier, moving := false, copies := 0, commanded := false, blocks := [] }).updPart p
            fun x => { x with migstat := x.migstat + (1 <<< 32) }) 0)) ∧
      (256 < recorded → (s.chunk stack chunk).copies < 3 → exec (.migrationSwitch stack chunk others) s =
        .next (s.updChunk stack chunk fun c => { c with copies := c.copies + 1, blocks := [] })) ∧
      (256 < recorded → 3 ≤ (s.chunk stack chunk).copies → ∃ u : State, exec (.migrationSwitch stack chunk others) s = .next (ended u 5) ∧
        (u.chunk stack chunk).moving = false ∧ (u.chunk stack chunk).tier = (s.chunk stack chunk).tier ∧
        (u.part p).migstat = (s.part p).migstat.extractLsb' 32 32 ++ ((s.part p).migstat.setWidth 32 + 1) ∧ u.mem = s.mem)) ∧
    (∀ stack chunk others g, (s.chunk stack chunk).moving = false →
      (s.regroups.find? fun g => g.stack == stack && s.nextRegroup g == some chunk) = some g →
      exec (.migrationSwitch stack chunk others) s = .next (s.regroup g (chunk + 1))) ∧
    (let p := s.part s.corePart
     let ep := slice p.migctl 32 10
     ep ≠ 0 → p.halvedAt + ep * 1050000 ≤ s.now → ∃ t : State, exec .accessCounterHalving s = .next t ∧
       t.chunks = s.chunks.map (fun c => if c.stack ∈ p.ownStacks then { c with counter := c.counter / 2 } else c) ∧
       (t.part s.corePart).halvedAt = p.halvedAt + ep * 1050000 ∧ t.ctxs = s.ctxs ∧ t.mem = s.mem) ∧
    (∀ stack chunk, let m := (s.part ((s.ownerOf stack).getD 0)).migctl
      let c := s.chunk stack chunk
      slice m 0 2 = 1 → c.tier = true → c.pinned = false → c.moving = false → s.regrouping stack chunk = false →
      slice m 16 16 ≤ c.counter →
      s.stackRoom stack = true → exec (.automaticMove stack chunk) s = .next (s.startMove stack chunk false)) ∧
    (∀ stack vault, let passed := s.grants.filter fun g => g.stack == stack && g.ends.any (· ≤ s.now)
      (∃ g ∈ passed, g.vault = vault) → s.drained stack (passed.map (·.vault)) = true → s.regrouping stack (2 ^ 63) = false →
      exec (.grantPeriodExpiry stack vault) s =
        .next (s.takeBack ((s.ownerOf stack).getD 0).val stack (passed.map (·.vault)) false)) ∧
    (∀ (fn : Option Nat) (addr size : Nat) (data : List Byte),
      let lines (n : Nat) : List Nat := s.hdmSpan fn addr n
      let t := { s with hdmLines := (lines size).foldl (fun l x => setAdd x l) s.hdmLines }
      let w := { s with hdmLines := s.hdmLines.filter fun l => !(lines data.length).contains l }
      (s.hostReach fn addr size = true → exec (.hostRead fn 2 addr size) s =
        .next ((t.countAccess addr).send (.hostData (s.readBytes addr size)))) ∧
      (s.hostReach fn addr size = false → exec (.hostRead fn 2 addr size) s =
        .next ((t.send (.hostData ((List.range size).map fun i => ((s.hostByte fn (addr + i)).map s.byte).getD 0xFF))).badName fn addr)) ∧
      (s.hostReach fn addr data.length = true → exec (.hostWrite fn 2 addr data) s = .next ((w.outsidePut addr data).noteFar s 6)) ∧
      (data.length = 1 → s.hostByte fn addr = none →
        exec (.hostWrite fn 2 addr data) s = .next ((w.badName fn addr).noteFar s 6))) ∧
    (∀ line st, s.line? line = some st →
      let t := if st = .modified then s.send (.hostData (s.readBytes (2 ^ 52 + line * 64) 64)) else s
      exec (.snpinv line) s = .next (t.setLine line none) ∧
      exec (.snpdata line) s = .next (t.setLine line (some .shared)) ∧
      exec (.snpcur line) s = .next (t.setLine line (some st))) ∧
    (∀ c (addr : Word) port, s.movable (ctxIx c) = true →
      let arm (poisoned : Bool) : State :=
        { s with failing := FailArm.mk (ctxIx c).val addr.toNat poisoned port :: s.failing.filter fun f => f.ctx != (ctxIx c).val }
      exec (.poisonedCompletion c ⟨addr, port⟩) s = .next (arm true) ∧
      exec (.peerTimeout c ⟨addr, port⟩ false) s = .next (arm false) ∧
      ∀ acc ph,
        (ph.cls = .host → completionCheck acc addr.toNat ph { arm true with cur := ctxIx c } =
          .error (.trap 0x05 addr) { arm true with cur := ctxIx c }) ∧
        (ph.cls = .peer → acc ≠ .store → completionCheck acc addr.toNat ph { arm false with cur := ctxIx c } =
          .error (.trap 0x04 addr) { arm false with cur := ctxIx c }) ∧
        (ph.cls ≠ .host → ph.cls ≠ .peer → completionCheck acc addr.toNat ph { arm false with cur := ctxIx c } =
          .ok () { arm false with cur := ctxIx c })) ∧
    (∀ addr port before p after, s.pending = before ++ p :: after → p.peer = true → p.addr = addr.toNat →
      (∀ e ∈ before, e.peer = true → e.addr ≠ addr.toNat) →
      let u := { s with pending := before ++ after }.linkCheck port (s.partNumber p.ctx) addr.toNat
      exec (.peerRejection ⟨addr, port⟩) s = .next u ∧ (∀ a, a < 2 ^ 58 → u.byte a = s.byte a) ∧
      (∀ c, p.ctx = (ctxIx c).val → exec (.peerTimeout c ⟨addr, port⟩ true) s = .next u)) ∧
    (s.mgmt.accepted.getLsbD 1 = true → ∀ req : PeerReq,
      let inside : Prop := s.ownsGeneral (partIx req.part) req.stack req.name = true ∧ (s.part (partIx req.part)).on = true ∧
        req.name < 2 ^ 40 ∧ req.stack < 16 ∧ 1 ≤ req.size ∧ req.size ≤ 64 ∧ req.name % req.size = 0
      let key := generalKey req.stack req.name
      let r := s.peerDo req key
      (inside → exec (.peerRequest req) s = .next ((r.1.noteFar s 5).send (.peerData r.2)) ∧
        (req.op = .watch → r.1.watches = s.watches.erase (req.module % 64, key) ++ [(req.module % 64, key)])) ∧
      (¬inside → exec (.peerRequest req) s = .next (s.send .peerRefused))) ∧
    (∀ part number top pbr paired, number < 64 → top < 64 →
      (s.mgmt.accepted.getLsbD 1 = true → ∃ t : State,
        exec (.fabricManagerAssignment part ⟨number, pbr⟩ top paired) s = .next t ∧ t.mgmt.moduleNumber = number ∧
        t.mgmt.topModule = top ∧ t.mgmt.pbrId = pbr ∧ (t.part (partIx part)).paired = paired ∧
        ((t.part (partIx part)).on = true → (t.part (partIx part)).dominfo = BitVec.ofNat 64 (2 ^ 22 + number * 2 ^ 16 + top)) ∧
        t.ctxs = s.ctxs ∧ t.mem = s.mem) ∧
      (s.mgmt.accepted.getLsbD 1 = false → exec (.fabricManagerAssignment part ⟨number, pbr⟩ top paired) s = .next s))

/-- A detected error is logged with its machine check, freezes the tile of its victim or ends the tile whose save it
touches, and a control error resets its core or vault unit; a scrub and a link failure log 0x31 and 0x33; a sample of
every sensor is stored, sets limit 1 and checks the operating limits; a trip, a supply loss and a warning of 50 ms
start an emergency save; a warning engages the clamp, which lifts 1 ms after it clears; returning rails resume what
verifies; an expired lease puts the floor in force; a reset leaves the reset state beside host memory, flash and the
log, with training still to end; a posted slot goes to S or is answered; each operation of M answers with its status
and reply; the module answers SPDM. Model's choice, no rule of the spec: the values at reset that no rule states (log
2); that open values are free constants of Config (log 4); the fields of log records that no rule fixes (log 18); the
places of two mailbox payloads (log 26); which state commands a limit refuses (log 27); the needle that takes a
machine check of its core (log 36); what the event tells of a firmware image (log 51); the limits of MKPART (log 52);
what an emergency save keeps (log 57); that a RET command waits for the pre-emption points (log 58); the lane groups
that limit 1 leaves (log 59); that a VF's mailbox may address M (log 60); the host window that a new partition is
granted (log 75); where the checks of a unit go and what a reset vault unit loses (log 82); how the coolant's state
comes with a sample (log 83); the mask bits of MSI-X and the places of SPDM fields (log 87); the trailer of a core's
shared state (log 88). (R366, R379, R383, R384, R385, R388, R390, R391, R394, R395, R397, R398) -/
def Obligations.ModuleEventsRun : Prop :=
  ∀ s : State, s.active = true → s.answers = true → s.mgmt.entering = none →
    (∀ cls unit place (addr syn : Word) (victim : Option Nat) source,
      let tile := victim.bind fun c => s.tileOf (ctxIx c)
      let f := LogFields.mk cls unit (place % 65536) ((tile.map (·.part)).getD 0xFF) addr.toNat syn.toNat 0
        ((tile.map (·.descAddr)).getD 0)
      let run := exec (.errorDetected cls unit ⟨place, source⟩ addr syn victim) s
      let u := s.logCheck f (s.checkCores source place)
      let core := placeCore place
      (cls = 0x30 → run = .next (s.corrected f source)) ∧
      (∀ c, cls = 0x31 ∨ cls = 0x34 → victim = some c → run = .next (u.freezeOf c)) ∧
      (cls = 0x31 ∨ cls = 0x34 → victim = none → run = .next (u.saveError addr.toNat)) ∧
      (cls = 0x32 → unit = 5 → source = .core → run = .next (State.logCheck
        (if core = s.coreId then s.resetCore else s.resetRemote core) f [resetCheckCore core])) ∧
      (cls = 0x32 → unit = 5 → source = .vault →
        run = .next ((s.resetVault (core / 128) (core / 4 % 32)).logCheck f [stackCore (core / 128)]))) ∧
    (∀ unit place addr source, exec (.patrolScrub unit ⟨place, source⟩ addr true) s = .next (s.logCheck
      (LogFields.mk 0x31 unit (place % 65536) 0xFF addr.toNat 0 0 0) (s.checkCores source place))) ∧
    (∀ port (addr : Word), (∀ p ∈ s.pending, p.peer = true → p.addr ≠ addr.toNat) →
      exec (.linkReplayFailure port addr) s = .next ((List.range 12).foldl
        (fun u n => u.failAccess (ctxIx n) false port addr) (s.linkCheck port 0xFF addr.toNat))) ∧
    (∀ port (addr : Word) before p after, s.pending = before ++ p :: after → p.peer = true → p.addr = addr.toNat →
      (∀ e ∈ before, e.peer = true → e.addr ≠ addr.toNat) → exec (.linkReplayFailure port addr) s =
        .next ({ s with pending := before ++ after }.linkCheck port (s.partNumber p.ctx) addr.toNat)) ∧
    (∀ rs inlet flow, rs.length = 576 → let u := (List.range 16).foldl (fun s k =>
        s.switchRefresh k (hotAfter (s.mgmt.hot.contains k) (stackHeat rs k))) s
      let v := { u with mgmt := { u.mgmt with samples := rs, sampledAt := u.now, limit1 := limitTripped rs } }
      exec (.sensorSample ⟨rs, inlet, flow⟩) s =
        .next ((if u.mgmt.limit1 = limitTripped rs then v else v.applyLimit).checkLimits rs inlet flow)) ∧
    (tripPoint s.mgmt.samples = true → exec .thermalTrip s =
      .next (State.emergencySave { s with mgmt := { s.mgmt with tripped := true } } 7)) ∧
    exec .supplyLoss s = .next (s.emergencySave 8) ∧
    exec .powerFailWarning s = .next { s with mgmt := { s.mgmt with
      clamp := true, warning := some (s.mgmt.warning.getD s.now), clearing := none } } ∧
    (∀ t, s.mgmt.warning = some t →
      exec .powerFailClear s = .next { s with mgmt := { s.mgmt with warning := none, clearing := some s.now } } ∧
      (t + 50 * 1050000 ≤ s.now → exec .powerFailTimeout s = .next (s.emergencySave 8))) ∧
    (∀ t, s.mgmt.clearing = some t → t + 1050000 ≤ s.now →
      exec .clampLift s = .next { s with mgmt := { s.mgmt with clamp := false, clearing := none } }) ∧
    (∀ (u : State) (ids : List Nat), u.mgmt.railsOff = true →
      let ok (c : Fin 12) : Bool := ids.contains c.val && ids.contains 12
      let back (ok : Fin 12 → Bool) : State := ({ u with mgmt := { u.mgmt with
        railsOff := false, clamp := false, warning := none, clearing := none } }.resumeTile ok 0).resumeTile ok 1
      exec (.logicRailsReturn true ids) u = .next (((back ok).remote.filter fun t =>
        !ids.contains (13 + 2 * t.core + t.slot)).foldl State.endRemote (back ok)) ∧
      (let v := (back fun _ => false).remote.foldl State.endRemote (back fun _ => false)
       exec (.logicRailsReturn false ids) u = .next (v.savedTiles.foldl State.endSaved v))) ∧
    (∀ t, s.mgmt.leaseEnd = some t → t ≤ s.now → ∃ u : State, exec .leaseExpiry s = .next u ∧ u.mgmt.rackCap = none ∧
      u.mgmt.leaseEnd = none ∧ u.mgmt.onFloor = true ∧ u.ctxs = s.ctxs ∧ u.mem = s.mem) ∧
    (∃ t : State, exec .moduleReset s = .next t ∧ t.ctxs = State.reset.ctxs ∧ t.tiles = State.reset.tiles ∧
      t.parts = State.reset.parts ∧ t.launches = [] ∧ t.rows = [] ∧ t.stack = s.stack ∧ t.vault = s.vault ∧ t.core = s.core ∧
      (t.mem = s.mem.filter fun c => 2 ^ 52 ≤ c.1 && c.1 < 2 ^ 54) ∧
      t.mgmt.log = s.mgmt.log ∧ t.mgmt.fuse = s.mgmt.fuse ∧ t.mgmt.acceptDone = false ∧ t.mgmt.training = !t.mgmt.halted ∧
      (t.mgmt.halted = true ↔ s.mgmt.passes true = false ∧ s.mgmt.passes false = false)) ∧
    (∀ (u : State) failed, u.mgmt.training = true →
      let v := u.trained failed
      v.mgmt.training = false ∧ v.mgmt.leftOut = failed.map (fun u => (u.1, u.2 % 65536)) ∧
      v.mgmt.nextSeq = u.mgmt.nextSeq + failed.length ∧ v.parts = u.parts) ∧
    (∀ slot, slot < 64 → s.slotState slot = 1 →
      (s.mFirst slot = true → s.slotTarget slot ≠ 1 ∨ mailOps.contains (s.slotOp slot) = false →
        exec (.mailboxPost none slot) s = .next (s.answerSlot slot 1 [])) ∧
      (∀ k, k < 16 → (s.part (partIx k)).on = true → s.slotState (64 * (k + 1) + slot) = 1 →
        s.slotTarget (64 * (k + 1) + slot) = 0 → exec (.mailboxPost (some k) slot) s =
          .next (s.updPart (partIx k) fun p => { p with mail := setAdd slot p.mail, posted := true }))) ∧
    (∀ slot, slot < 64 → slot ∈ (s.part s.corePart).mail → s.byte (mailKey s.corePart.val (64 * slot)) = 2 →
      exec (.mailboxAnswer slot) s = .next ((s.updPart s.corePart fun x => { x with mail := setDrop x.mail slot }).msix
        (some s.corePart.val) 0)) ∧
    (∀ slot, s.payloadOk slot [] = true →
      (s.mTurn slot 1 = true → exec (.features slot) s = .next (s.answerSlot slot 0
        [(16, leBytes 32 (Config.offered s.mgmt.booted.version).toNat)])) ∧
      (s.mTurn slot 0x31 = true →
        let fuse := max s.mgmt.fuse (min 64 s.mgmt.booted.version)
        exec (.fwcommit slot) s = .next (State.answerSlot { s with mgmt := { s.mgmt with fuse := fuse } } slot 0
          [(9, [BitVec.ofNat 8 fuse])]))) ∧
    (∀ slot, s.mgmt.training = false → s.mTurn slot 2 = true → s.payloadOk slot [(8, 32), (40, 2), (42, 1)] = true → s.mgmt.acceptDone = false →
      let bits := s.slotField slot 8 32
      let offered := (Config.offered s.mgmt.booted.version).toNat
      let floor := s.slotField slot 40 2
      Nat.lor bits offered = offered → 700 ≤ floor → floor ≤ 4000 → exec (.accept slot) s =
        .next (State.answerSlot { s with mgmt := { s.mgmt with
          accepted := BitVec.ofNat 256 bits, acceptDone := true, floor := floor,
          ports := BitVec.ofNat 8 (s.slotField slot 42 1) } } slot 0 [])) ∧
    (s.mgmt.acceptDone = true → s.mgmt.training = false →
      (∀ slot, s.mTurn slot 3 = true → s.payloadOk slot [(8, 1), (10, 2), (12, 4), (16, 4), (20, 2)] = true →
        let n := s.slotField slot 8 1
        let ownStacks := (List.range 16).filter fun k => bitsAt (s.slotField slot 10 2) k 1 == 1
        let chunks := s.slotField slot 12 4
        n ≤ 15 → ownStacks ≠ [] → chunks ≠ 0 → (s.part (partIx n)).on = false → (∀ k ∈ ownStacks, s.ownerOf k = none) →
        s.sharesFit ownStacks chunks (s.slotField slot 16 4) (s.slotField slot 20 2) = true →
        ∃ (t : State) (p : Part), exec (.mkpart slot) s = .next (t.answerSlot slot 0 []) ∧
          p = s.newPart n ownStacks chunks (s.slotField slot 16 4) (s.slotField slot 20 2) ∧
          t.parts = s.parts.set (partIx n).val p (partIx n).isLt ∧ t.ctxs = s.ctxs) ∧
      (∀ slot, s.mTurn slot 4 = true → s.payloadOk slot [(8, 1)] = true →
        let n := s.slotField slot 8 1
        n ≤ 15 → (s.part (partIx n)).on = true → s.partIdle n = true →
        ∃ t : State, exec (.rmpart slot) s = .next (t.answerSlot slot 0 []) ∧
          t.parts = s.parts.set (partIx n).val Part.reset (partIx n).isLt ∧
          t.grants = s.grants.filter (fun g => g.part != n) ∧ t.regions = s.regions.filter (fun r => r.part != n)) ∧
      (∀ slot target, s.mTurn slot 0x10 = true → powerOf (s.slotField slot 8 1) = some target → s.mayGo target = true →
        s.limitRefuses target = false → (target = .ret → s.mayRetain = true) →
        exec (.stateCommand slot) s = .next ((s.answerSlot slot 0 []).goPower target)) ∧
      (∀ slot, s.mTurn slot 0x10 = true → powerOf (s.slotField slot 8 1) = some .ret → s.mayRetain = false →
        exec (.stateCommand slot) s = .next { s with mgmt := { s.mgmt with entering := some slot } }) ∧
      (∀ slot (u : State), u.mgmt.entering = some slot → u.mayRetain = true →
        exec (.stateCommand slot) u = .next ((u.answerSlot slot 0 []).goPower .ret)) ∧
      (∀ slot, s.mTurn slot 0x11 = true → s.payloadOk slot [(8, 16)] = true →
        let cap := s.slotField slot 16 4
        let lease := s.slotField slot 20 4
        700 ≤ cap → cap ≤ 4000 → 1 ≤ lease → lease ≤ 60000 → (∀ n, s.mgmt.rackSeq = some n → n < s.slotField slot 8 8) →
        ∃ t : State, exec (.rackCap slot) s = .next (t.answerSlot slot 0 []) ∧ t.mgmt.rackCap = some cap ∧
          t.mgmt.rackSeq = some (s.slotField slot 8 8) ∧ t.mgmt.leaseEnd = some (s.now + lease * 1050000) ∧
          t.mgmt.onFloor = false ∧ t.ctxs = s.ctxs)) ∧
    (∀ slot r, s.mTurn slot 0x20 = true → s.payloadOk slot [(8, 8)] = true →
      let seq := s.slotField slot 8 8
      seq ≠ 0 → seq < s.mgmt.nextSeq → s.mgmt.log.find? (fun r => r.seq == seq) = some r →
      exec (.logread slot) s = .next (s.answerSlot slot 0 [(16, r.bytes.take 48)])) ∧
    (∀ slot v, s.mTurn slot 0x21 = true → s.payloadOk slot [(8, 2)] = true → s.slotField slot 8 2 ≤ 575 →
      s.mgmt.samples[s.slotField slot 8 2]? = some v → exec (.sensors slot) s =
        .next (s.answerSlot slot 0 [(16, leBytes 8 v.toNat), (24, leBytes 8 s.mgmt.sampledAt)])) ∧
    (∀ slot version, s.mTurn slot 0x30 = true → s.payloadOk slot [(8, 8), (16, 4)] = true → s.slotField slot 16 4 ≠ 0 →
      (s.mgmt.fwWriting = none → exec (.fwwrite slot version true) s =
        .next { s with mgmt := { s.mgmt.putImage (FwImage.mk false 0) with fwWriting := some slot } }) ∧
      (∀ k, s.mgmt.fwWriting = some k → k ≠ slot → exec (.fwwrite slot version true) s = .next (s.answerSlot slot 3 []))) ∧
    (∀ slot version ok, s.mgmt.fwWriting = some slot → ∃ t : State,
      exec (.fwwrite slot version ok) s = .next (t.answerSlot slot (if ok then 0 else 1) []) ∧
      t.mgmt.activeA = (if ok then !s.mgmt.activeA else s.mgmt.activeA) ∧ t.mgmt.fwWriting = none ∧
      (if s.mgmt.activeA then t.mgmt.imageB else t.mgmt.imageA) = FwImage.mk ok version ∧
      (if s.mgmt.activeA then t.mgmt.imageA else t.mgmt.imageB) = (if s.mgmt.activeA then s.mgmt.imageA else s.mgmt.imageB) ∧
      t.mgmt.booted = s.mgmt.booted ∧ t.ctxs = s.ctxs) ∧
    (let answer (version code req arg : Nat) (fixed : List Byte) : Host.Outcome State Fault Refusal := .next (s.send (.spdm
       ([BitVec.ofNat 8 version, BitVec.ofNat 8 code] ++ fixed ++
         (List.range (Config.spdmLength req arg)).map fun i => Config.spdmByte req arg i)))
     exec .getVersion s = answer 0x10 0x04 0x84 0 [0, 0, 0, 1, 0x00, 0x13] ∧
     exec .getCapabilities s = answer 0x13 0x61 0xE1 0 [0, 0] ∧
     exec .negotiateAlgorithms s = answer 0x13 0x63 0xE3 0
       [0, 0, 36, 0, 1, 0, 4, 0, 0, 0, 0x80, 0, 0, 0, 2, 0, 0, 0] ∧
     exec .getDigests s = answer 0x13 0x01 0x81 0 [] ∧
     (∀ slot, exec (.getCertificate slot) s = answer 0x13 0x02 0x82 slot []) ∧
     (∀ nonce, exec (.challenge nonce) s = answer 0x13 0x03 0x83
       (nonce * 2 ^ 320 + s.mgmt.accepted.toNat * 2 ^ 64 + s.mgmt.booted.version) []) ∧
     (∀ i, i ≠ 4 → exec (.getMeasurements i) s = answer 0x13 0x60 0xE0 (s.measured i * 256 + i) [0, 0]) ∧
     exec (.getMeasurements 4) s = answer 0x13 0x60 0xE0 (s.mgmt.accepted.toNat * 256 + 4)
       ([0, 0, 1, 39, 0, 0, 4, 1, 35, 0, 0x83, 32, 0] ++ leBytes 32 s.mgmt.accepted.toNat))
end

