-- ==== Sys2Proof/Laws/Cells.lean ====
section
/-!
SUPPORT. The canonical form of sparse stores: what putting, erasing and filtering keep, and reading after a put.
-/
namespace Sys2Proof.Machine

variable [DecidableEq α] {d : α}

/-- A lower bound may be lowered. -/
theorem cellsFrom_mono {l : List (Nat × α)} {lo hi : Nat} (h : lo ≤ hi) (w : cellsFrom d hi l = true) :
    cellsFrom d lo l = true := by
  cases l with
  | nil => rfl
  | cons p t =>
    simp only [cellsFrom, Bool.and_eq_true, decide_eq_true_eq] at w ⊢
    exact ⟨⟨by omega, w.1.2⟩, w.2⟩

/-- A filtered store is canonical. -/
theorem cellsFrom_filter (p : Nat × α → Bool) {l : List (Nat × α)} :
    ∀ {lo : Nat}, cellsFrom d lo l = true → cellsFrom d lo (l.filter p) = true := by
  induction l with
  | nil => intros; rfl
  | cons a t ih =>
    intro lo w
    simp only [cellsFrom, Bool.and_eq_true, decide_eq_true_eq] at w
    rw [List.filter_cons]
    split
    · simp only [cellsFrom, Bool.and_eq_true, decide_eq_true_eq]
      exact ⟨w.1, ih w.2⟩
    · exact cellsFrom_mono (by omega) (ih w.2)

/-- Filtering keeps the canonical form. -/
theorem cellsWf_filter (p : Nat × α → Bool) {l : List (Nat × α)} (w : cellsWf d l = true) :
    cellsWf d (l.filter p) = true := cellsFrom_filter p w

/-- Erasing keeps the canonical form. -/
theorem cellsWf_erase (k : Nat) {l : List (Nat × α)} (w : cellsWf d l = true) : cellsWf d (cellErase k l) = true :=
  cellsFrom_filter _ w

/-- An insertion of a key that no entry has keeps the canonical form. -/
theorem cellsFrom_insert {v : α} (hv : v ≠ d) (k : Nat) {l : List (Nat × α)} :
    ∀ {lo : Nat}, lo ≤ k → (∀ p ∈ l, p.1 ≠ k) → cellsFrom d lo l = true → cellsFrom d lo (cellInsert k v l) = true := by
  induction l with
  | nil =>
    intro lo h _ _
    simp [cellInsert, cellsFrom, h, hv]
  | cons a t ih =>
    intro lo h n w
    simp only [cellsFrom, Bool.and_eq_true, decide_eq_true_eq] at w
    have ha := n a (by simp)
    unfold cellInsert
    split
    · simp only [cellsFrom, Bool.and_eq_true, decide_eq_true_eq]
      exact ⟨⟨h, by simpa using hv⟩, ⟨by omega, w.1.2⟩, w.2⟩
    · simp only [cellsFrom, Bool.and_eq_true, decide_eq_true_eq]
      exact ⟨w.1, ih (by omega) (fun p hp => n p (by simp [hp])) w.2⟩

/-- A put keeps the canonical form. -/
theorem cellsWf_put (k : Nat) (v : α) {l : List (Nat × α)} (w : cellsWf d l = true) :
    cellsWf d (cellPut d l k v) = true := by
  unfold cellPut
  split
  · exact cellsWf_erase k w
  · refine cellsFrom_insert ‹_› k (Nat.zero_le k) (fun p hp => ?_) (cellsWf_erase k w)
    simpa using (List.mem_filter.mp hp).2

omit [DecidableEq α] in
/-- A key erased reads as unlisted. -/
theorem cellGet_erase_same (k : Nat) (l : List (Nat × α)) : cellGet d (cellErase k l) k = d := by
  induction l with
  | nil => rfl
  | cons a t ih =>
    unfold cellErase at ih ⊢
    rw [List.filter_cons]
    by_cases h : a.1 = k
    · simpa [h] using ih
    · simpa [h, cellGet] using ih

omit [DecidableEq α] in
/-- Every other key reads as before an erasure. -/
theorem cellGet_erase_other {k j : Nat} (h : j ≠ k) (l : List (Nat × α)) : cellGet d (cellErase k l) j = cellGet d l j := by
  induction l with
  | nil => rfl
  | cons a t ih =>
    unfold cellErase at ih ⊢
    rw [List.filter_cons]
    by_cases hk : a.1 = k
    · have : ¬ a.1 = j := fun e => h (e.symm.trans hk)
      have hj : ¬ k = j := fun e => h e.symm
      simpa [hk, cellGet, hj] using ih
    · simp only [bne_iff_ne, ne_eq, hk, not_false_eq_true, if_true, cellGet]
      rw [ih]

omit [DecidableEq α] in
/-- An insertion reads back. -/
theorem cellGet_insert_same (k : Nat) (v : α) {l : List (Nat × α)} (n : ∀ p ∈ l, p.1 ≠ k) :
    cellGet d (cellInsert k v l) k = v := by
  induction l with
  | nil => simp [cellInsert, cellGet]
  | cons a t ih =>
    unfold cellInsert
    split
    · simp [cellGet]
    · have := n a (by simp)
      simp only [cellGet, beq_iff_eq, this, if_false]
      exact ih fun p hp => n p (by simp [hp])

omit [DecidableEq α] in
/-- Every other key reads as before an insertion. -/
theorem cellGet_insert_other {k j : Nat} (h : j ≠ k) (v : α) (l : List (Nat × α)) :
    cellGet d (cellInsert k v l) j = cellGet d l j := by
  have hk : ¬ k = j := fun e => h e.symm
  induction l with
  | nil => simp [cellInsert, cellGet, hk]
  | cons a t ih =>
    unfold cellInsert
    split
    · simp [cellGet, hk]
    · simp only [cellGet]
      rw [ih]

/-- A put reads back. -/
@[simp] theorem cellGet_put_same (l : List (Nat × α)) (k : Nat) (v : α) : cellGet d (cellPut d l k v) k = v := by
  unfold cellPut
  split
  · rw [cellGet_erase_same]; exact ‹v = d›.symm
  · exact cellGet_insert_same k v fun p hp => by simpa using (List.mem_filter.mp hp).2

/-- Every other key reads as before a put. -/
theorem cellGet_put_other (l : List (Nat × α)) {k j : Nat} (h : j ≠ k) (v : α) :
    cellGet d (cellPut d l k v) j = cellGet d l j := by
  unfold cellPut
  split
  · exact cellGet_erase_other h l
  · rw [cellGet_insert_other h, cellGet_erase_other h]

end Sys2Proof.Machine
end

