-- ==== Sys2Proof/Laws/State.lean ====
section
/-!
SUPPORT. What each update of a state or a context leaves, one lemma for each field, and what it puts in the field it
changes. No later proof unfolds a record update.
-/
namespace Sys2Proof.Machine

/-! ### The state -/

@[simp] theorem State.updAt_cur (s : State) (c : Fin 12) (f : Ctx → Ctx) : (s.updAt c f).cur = s.cur := rfl
@[simp] theorem State.updAt_ir (s : State) (c : Fin 12) (f : Ctx → Ctx) : (s.updAt c f).ir = s.ir := rfl
@[simp] theorem State.updAt_stack (s : State) (c : Fin 12) (f : Ctx → Ctx) : (s.updAt c f).stack = s.stack := rfl
@[simp] theorem State.updAt_vault (s : State) (c : Fin 12) (f : Ctx → Ctx) : (s.updAt c f).vault = s.vault := rfl
@[simp] theorem State.updAt_core (s : State) (c : Fin 12) (f : Ctx → Ctx) : (s.updAt c f).core = s.core := rfl
@[simp] theorem State.updAt_tiles (s : State) (c : Fin 12) (f : Ctx → Ctx) : (s.updAt c f).tiles = s.tiles := rfl
@[simp] theorem State.updAt_savedTiles (s : State) (c : Fin 12) (f : Ctx → Ctx) : (s.updAt c f).savedTiles = s.savedTiles := rfl
@[simp] theorem State.updAt_remote (s : State) (c : Fin 12) (f : Ctx → Ctx) : (s.updAt c f).remote = s.remote := rfl
@[simp] theorem State.updAt_sd (s : State) (c : Fin 12) (f : Ctx → Ctx) : (s.updAt c f).sd = s.sd := rfl
@[simp] theorem State.updAt_acc (s : State) (c : Fin 12) (f : Ctx → Ctx) : (s.updAt c f).acc = s.acc := rfl
@[simp] theorem State.updAt_wm (s : State) (c : Fin 12) (f : Ctx → Ctx) : (s.updAt c f).wm = s.wm := rfl
@[simp] theorem State.updAt_full (s : State) (c : Fin 12) (f : Ctx → Ctx) : (s.updAt c f).full = s.full := rfl
@[simp] theorem State.updAt_present (s : State) (c : Fin 12) (f : Ctx → Ctx) : (s.updAt c f).present = s.present := rfl
@[simp] theorem State.updAt_restoreFull (s : State) (c : Fin 12) (f : Ctx → Ctx) : (s.updAt c f).restoreFull = s.restoreFull := rfl
@[simp] theorem State.updAt_emptied (s : State) (c : Fin 12) (f : Ctx → Ctx) : (s.updAt c f).emptied = s.emptied := rfl
@[simp] theorem State.updAt_outside (s : State) (c : Fin 12) (f : Ctx → Ctx) : (s.updAt c f).outside = s.outside := rfl
@[simp] theorem State.updAt_laneCap (s : State) (c : Fin 12) (f : Ctx → Ctx) : (s.updAt c f).laneCap = s.laneCap := rfl
@[simp] theorem State.updAt_checks (s : State) (c : Fin 12) (f : Ctx → Ctx) : (s.updAt c f).checks = s.checks := rfl
@[simp] theorem State.updAt_resetAt (s : State) (c : Fin 12) (f : Ctx → Ctx) : (s.updAt c f).resetAt = s.resetAt := rfl
@[simp] theorem State.updAt_landSince (s : State) (c : Fin 12) (f : Ctx → Ctx) : (s.updAt c f).landSince = s.landSince := rfl
@[simp] theorem State.updAt_forwards (s : State) (c : Fin 12) (f : Ctx → Ctx) : (s.updAt c f).forwards = s.forwards := rfl
@[simp] theorem State.updAt_mem (s : State) (c : Fin 12) (f : Ctx → Ctx) : (s.updAt c f).mem = s.mem := rfl
@[simp] theorem State.updAt_rows (s : State) (c : Fin 12) (f : Ctx → Ctx) : (s.updAt c f).rows = s.rows := rfl
@[simp] theorem State.updAt_latches (s : State) (c : Fin 12) (f : Ctx → Ctx) : (s.updAt c f).latches = s.latches := rfl
@[simp] theorem State.updAt_redTags (s : State) (c : Fin 12) (f : Ctx → Ctx) : (s.updAt c f).redTags = s.redTags := rfl
@[simp] theorem State.updAt_hostLines (s : State) (c : Fin 12) (f : Ctx → Ctx) : (s.updAt c f).hostLines = s.hostLines := rfl
@[simp] theorem State.updAt_hdmLines (s : State) (c : Fin 12) (f : Ctx → Ctx) : (s.updAt c f).hdmLines = s.hdmLines := rfl
@[simp] theorem State.updAt_watches (s : State) (c : Fin 12) (f : Ctx → Ctx) : (s.updAt c f).watches = s.watches := rfl
@[simp] theorem State.updAt_failing (s : State) (c : Fin 12) (f : Ctx → Ctx) : (s.updAt c f).failing = s.failing := rfl
@[simp] theorem State.updAt_failed (s : State) (c : Fin 12) (f : Ctx → Ctx) : (s.updAt c f).failed = s.failed := rfl
@[simp] theorem State.updAt_pending (s : State) (c : Fin 12) (f : Ctx → Ctx) : (s.updAt c f).pending = s.pending := rfl
@[simp] theorem State.updAt_late (s : State) (c : Fin 12) (f : Ctx → Ctx) : (s.updAt c f).late = s.late := rfl
@[simp] theorem State.updAt_refresh (s : State) (c : Fin 12) (f : Ctx → Ctx) : (s.updAt c f).refresh = s.refresh := rfl
@[simp] theorem State.updAt_parts (s : State) (c : Fin 12) (f : Ctx → Ctx) : (s.updAt c f).parts = s.parts := rfl
@[simp] theorem State.updAt_launches (s : State) (c : Fin 12) (f : Ctx → Ctx) : (s.updAt c f).launches = s.launches := rfl
@[simp] theorem State.updAt_nextLaunch (s : State) (c : Fin 12) (f : Ctx → Ctx) : (s.updAt c f).nextLaunch = s.nextLaunch := rfl
@[simp] theorem State.updAt_throws (s : State) (c : Fin 12) (f : Ctx → Ctx) : (s.updAt c f).throws = s.throws := rfl
@[simp] theorem State.updAt_replies (s : State) (c : Fin 12) (f : Ctx → Ctx) : (s.updAt c f).replies = s.replies := rfl
@[simp] theorem State.updAt_collMembers (s : State) (c : Fin 12) (f : Ctx → Ctx) : (s.updAt c f).collMembers = s.collMembers := rfl
@[simp] theorem State.updAt_tlb (s : State) (c : Fin 12) (f : Ctx → Ctx) : (s.updAt c f).tlb = s.tlb := rfl
@[simp] theorem State.updAt_grants (s : State) (c : Fin 12) (f : Ctx → Ctx) : (s.updAt c f).grants = s.grants := rfl
@[simp] theorem State.updAt_regroups (s : State) (c : Fin 12) (f : Ctx → Ctx) : (s.updAt c f).regroups = s.regroups := rfl
@[simp] theorem State.updAt_regions (s : State) (c : Fin 12) (f : Ctx → Ctx) : (s.updAt c f).regions = s.regions := rfl
@[simp] theorem State.updAt_nextHandle (s : State) (c : Fin 12) (f : Ctx → Ctx) : (s.updAt c f).nextHandle = s.nextHandle := rfl
@[simp] theorem State.updAt_chunks (s : State) (c : Fin 12) (f : Ctx → Ctx) : (s.updAt c f).chunks = s.chunks := rfl
@[simp] theorem State.updAt_mgmt (s : State) (c : Fin 12) (f : Ctx → Ctx) : (s.updAt c f).mgmt = s.mgmt := rfl
@[simp] theorem State.updAt_history (s : State) (c : Fin 12) (f : Ctx → Ctx) : (s.updAt c f).history = s.history := rfl
@[simp] theorem State.updAt_codeNew (s : State) (c : Fin 12) (f : Ctx → Ctx) : (s.updAt c f).codeNew = s.codeNew := rfl
@[simp] theorem State.updAt_codeLaunch (s : State) (c : Fin 12) (f : Ctx → Ctx) : (s.updAt c f).codeLaunch = s.codeLaunch := rfl
@[simp] theorem State.updAt_now (s : State) (c : Fin 12) (f : Ctx → Ctx) : (s.updAt c f).now = s.now := rfl
@[simp] theorem State.updAt_counted (s : State) (c : Fin 12) (f : Ctx → Ctx) : (s.updAt c f).counted = s.counted := rfl
@[simp] theorem State.updAt_outbox (s : State) (c : Fin 12) (f : Ctx → Ctx) : (s.updAt c f).outbox = s.outbox := rfl
@[simp] theorem State.updAt_sched (s : State) (c : Fin 12) (f : Ctx → Ctx) : (s.updAt c f).sched = s.sched := rfl
@[simp] theorem State.updAt_stopAt (s : State) (c : Fin 12) (f : Ctx → Ctx) : (s.updAt c f).stopAt = s.stopAt := rfl
@[simp] theorem State.updAt_draws (s : State) (c : Fin 12) (f : Ctx → Ctx) : (s.updAt c f).draws = s.draws := rfl

@[simp] theorem State.upd_cur (s : State) (f : Ctx → Ctx) : (s.upd f).cur = s.cur := rfl
@[simp] theorem State.upd_ir (s : State) (f : Ctx → Ctx) : (s.upd f).ir = s.ir := rfl
@[simp] theorem State.upd_stack (s : State) (f : Ctx → Ctx) : (s.upd f).stack = s.stack := rfl
@[simp] theorem State.upd_vault (s : State) (f : Ctx → Ctx) : (s.upd f).vault = s.vault := rfl
@[simp] theorem State.upd_core (s : State) (f : Ctx → Ctx) : (s.upd f).core = s.core := rfl
@[simp] theorem State.upd_tiles (s : State) (f : Ctx → Ctx) : (s.upd f).tiles = s.tiles := rfl
@[simp] theorem State.upd_savedTiles (s : State) (f : Ctx → Ctx) : (s.upd f).savedTiles = s.savedTiles := rfl
@[simp] theorem State.upd_remote (s : State) (f : Ctx → Ctx) : (s.upd f).remote = s.remote := rfl
@[simp] theorem State.upd_sd (s : State) (f : Ctx → Ctx) : (s.upd f).sd = s.sd := rfl
@[simp] theorem State.upd_acc (s : State) (f : Ctx → Ctx) : (s.upd f).acc = s.acc := rfl
@[simp] theorem State.upd_wm (s : State) (f : Ctx → Ctx) : (s.upd f).wm = s.wm := rfl
@[simp] theorem State.upd_full (s : State) (f : Ctx → Ctx) : (s.upd f).full = s.full := rfl
@[simp] theorem State.upd_present (s : State) (f : Ctx → Ctx) : (s.upd f).present = s.present := rfl
@[simp] theorem State.upd_restoreFull (s : State) (f : Ctx → Ctx) : (s.upd f).restoreFull = s.restoreFull := rfl
@[simp] theorem State.upd_emptied (s : State) (f : Ctx → Ctx) : (s.upd f).emptied = s.emptied := rfl
@[simp] theorem State.upd_outside (s : State) (f : Ctx → Ctx) : (s.upd f).outside = s.outside := rfl
@[simp] theorem State.upd_laneCap (s : State) (f : Ctx → Ctx) : (s.upd f).laneCap = s.laneCap := rfl
@[simp] theorem State.upd_checks (s : State) (f : Ctx → Ctx) : (s.upd f).checks = s.checks := rfl
@[simp] theorem State.upd_resetAt (s : State) (f : Ctx → Ctx) : (s.upd f).resetAt = s.resetAt := rfl
@[simp] theorem State.upd_landSince (s : State) (f : Ctx → Ctx) : (s.upd f).landSince = s.landSince := rfl
@[simp] theorem State.upd_forwards (s : State) (f : Ctx → Ctx) : (s.upd f).forwards = s.forwards := rfl
@[simp] theorem State.upd_mem (s : State) (f : Ctx → Ctx) : (s.upd f).mem = s.mem := rfl
@[simp] theorem State.upd_rows (s : State) (f : Ctx → Ctx) : (s.upd f).rows = s.rows := rfl
@[simp] theorem State.upd_latches (s : State) (f : Ctx → Ctx) : (s.upd f).latches = s.latches := rfl
@[simp] theorem State.upd_redTags (s : State) (f : Ctx → Ctx) : (s.upd f).redTags = s.redTags := rfl
@[simp] theorem State.upd_hostLines (s : State) (f : Ctx → Ctx) : (s.upd f).hostLines = s.hostLines := rfl
@[simp] theorem State.upd_hdmLines (s : State) (f : Ctx → Ctx) : (s.upd f).hdmLines = s.hdmLines := rfl
@[simp] theorem State.upd_watches (s : State) (f : Ctx → Ctx) : (s.upd f).watches = s.watches := rfl
@[simp] theorem State.upd_failing (s : State) (f : Ctx → Ctx) : (s.upd f).failing = s.failing := rfl
@[simp] theorem State.upd_failed (s : State) (f : Ctx → Ctx) : (s.upd f).failed = s.failed := rfl
@[simp] theorem State.upd_pending (s : State) (f : Ctx → Ctx) : (s.upd f).pending = s.pending := rfl
@[simp] theorem State.upd_late (s : State) (f : Ctx → Ctx) : (s.upd f).late = s.late := rfl
@[simp] theorem State.upd_refresh (s : State) (f : Ctx → Ctx) : (s.upd f).refresh = s.refresh := rfl
@[simp] theorem State.upd_parts (s : State) (f : Ctx → Ctx) : (s.upd f).parts = s.parts := rfl
@[simp] theorem State.upd_launches (s : State) (f : Ctx → Ctx) : (s.upd f).launches = s.launches := rfl
@[simp] theorem State.upd_nextLaunch (s : State) (f : Ctx → Ctx) : (s.upd f).nextLaunch = s.nextLaunch := rfl
@[simp] theorem State.upd_throws (s : State) (f : Ctx → Ctx) : (s.upd f).throws = s.throws := rfl
@[simp] theorem State.upd_replies (s : State) (f : Ctx → Ctx) : (s.upd f).replies = s.replies := rfl
@[simp] theorem State.upd_collMembers (s : State) (f : Ctx → Ctx) : (s.upd f).collMembers = s.collMembers := rfl
@[simp] theorem State.upd_tlb (s : State) (f : Ctx → Ctx) : (s.upd f).tlb = s.tlb := rfl
@[simp] theorem State.upd_grants (s : State) (f : Ctx → Ctx) : (s.upd f).grants = s.grants := rfl
@[simp] theorem State.upd_regroups (s : State) (f : Ctx → Ctx) : (s.upd f).regroups = s.regroups := rfl
@[simp] theorem State.upd_regions (s : State) (f : Ctx → Ctx) : (s.upd f).regions = s.regions := rfl
@[simp] theorem State.upd_nextHandle (s : State) (f : Ctx → Ctx) : (s.upd f).nextHandle = s.nextHandle := rfl
@[simp] theorem State.upd_chunks (s : State) (f : Ctx → Ctx) : (s.upd f).chunks = s.chunks := rfl
@[simp] theorem State.upd_mgmt (s : State) (f : Ctx → Ctx) : (s.upd f).mgmt = s.mgmt := rfl
@[simp] theorem State.upd_history (s : State) (f : Ctx → Ctx) : (s.upd f).history = s.history := rfl
@[simp] theorem State.upd_codeNew (s : State) (f : Ctx → Ctx) : (s.upd f).codeNew = s.codeNew := rfl
@[simp] theorem State.upd_codeLaunch (s : State) (f : Ctx → Ctx) : (s.upd f).codeLaunch = s.codeLaunch := rfl
@[simp] theorem State.upd_now (s : State) (f : Ctx → Ctx) : (s.upd f).now = s.now := rfl
@[simp] theorem State.upd_counted (s : State) (f : Ctx → Ctx) : (s.upd f).counted = s.counted := rfl
@[simp] theorem State.upd_outbox (s : State) (f : Ctx → Ctx) : (s.upd f).outbox = s.outbox := rfl
@[simp] theorem State.upd_sched (s : State) (f : Ctx → Ctx) : (s.upd f).sched = s.sched := rfl
@[simp] theorem State.upd_stopAt (s : State) (f : Ctx → Ctx) : (s.upd f).stopAt = s.stopAt := rfl
@[simp] theorem State.upd_draws (s : State) (f : Ctx → Ctx) : (s.upd f).draws = s.draws := rfl

@[simp] theorem State.done_cur (s : State) (n : Nat) : (s.done n).cur = s.cur := rfl
@[simp] theorem State.done_ir (s : State) (n : Nat) : (s.done n).ir = s.ir := rfl
@[simp] theorem State.done_stack (s : State) (n : Nat) : (s.done n).stack = s.stack := rfl
@[simp] theorem State.done_vault (s : State) (n : Nat) : (s.done n).vault = s.vault := rfl
@[simp] theorem State.done_core (s : State) (n : Nat) : (s.done n).core = s.core := rfl
@[simp] theorem State.done_tiles (s : State) (n : Nat) : (s.done n).tiles = s.tiles := rfl
@[simp] theorem State.done_savedTiles (s : State) (n : Nat) : (s.done n).savedTiles = s.savedTiles := rfl
@[simp] theorem State.done_remote (s : State) (n : Nat) : (s.done n).remote = s.remote := rfl
@[simp] theorem State.done_sd (s : State) (n : Nat) : (s.done n).sd = s.sd := rfl
@[simp] theorem State.done_acc (s : State) (n : Nat) : (s.done n).acc = s.acc := rfl
@[simp] theorem State.done_wm (s : State) (n : Nat) : (s.done n).wm = s.wm := rfl
@[simp] theorem State.done_full (s : State) (n : Nat) : (s.done n).full = s.full := rfl
@[simp] theorem State.done_present (s : State) (n : Nat) : (s.done n).present = s.present := rfl
@[simp] theorem State.done_restoreFull (s : State) (n : Nat) : (s.done n).restoreFull = s.restoreFull := rfl
@[simp] theorem State.done_emptied (s : State) (n : Nat) : (s.done n).emptied = s.emptied := rfl
@[simp] theorem State.done_outside (s : State) (n : Nat) : (s.done n).outside = s.outside := rfl
@[simp] theorem State.done_laneCap (s : State) (n : Nat) : (s.done n).laneCap = s.laneCap := rfl
@[simp] theorem State.done_checks (s : State) (n : Nat) : (s.done n).checks = s.checks := rfl
@[simp] theorem State.done_resetAt (s : State) (n : Nat) : (s.done n).resetAt = s.resetAt := rfl
@[simp] theorem State.done_landSince (s : State) (n : Nat) : (s.done n).landSince = s.landSince := rfl
@[simp] theorem State.done_forwards (s : State) (n : Nat) : (s.done n).forwards = s.forwards := rfl
@[simp] theorem State.done_mem (s : State) (n : Nat) : (s.done n).mem = s.mem := rfl
@[simp] theorem State.done_rows (s : State) (n : Nat) : (s.done n).rows = s.rows := rfl
@[simp] theorem State.done_latches (s : State) (n : Nat) : (s.done n).latches = s.latches := rfl
@[simp] theorem State.done_redTags (s : State) (n : Nat) : (s.done n).redTags = s.redTags := rfl
@[simp] theorem State.done_hostLines (s : State) (n : Nat) : (s.done n).hostLines = s.hostLines := rfl
@[simp] theorem State.done_hdmLines (s : State) (n : Nat) : (s.done n).hdmLines = s.hdmLines := rfl
@[simp] theorem State.done_watches (s : State) (n : Nat) : (s.done n).watches = s.watches := rfl
@[simp] theorem State.done_failing (s : State) (n : Nat) : (s.done n).failing = s.failing := rfl
@[simp] theorem State.done_failed (s : State) (n : Nat) : (s.done n).failed = s.failed := rfl
@[simp] theorem State.done_pending (s : State) (n : Nat) : (s.done n).pending = s.pending := rfl
@[simp] theorem State.done_late (s : State) (n : Nat) : (s.done n).late = s.late := rfl
@[simp] theorem State.done_refresh (s : State) (n : Nat) : (s.done n).refresh = s.refresh := rfl
@[simp] theorem State.done_parts (s : State) (n : Nat) : (s.done n).parts = s.parts := rfl
@[simp] theorem State.done_launches (s : State) (n : Nat) : (s.done n).launches = s.launches := rfl
@[simp] theorem State.done_nextLaunch (s : State) (n : Nat) : (s.done n).nextLaunch = s.nextLaunch := rfl
@[simp] theorem State.done_throws (s : State) (n : Nat) : (s.done n).throws = s.throws := rfl
@[simp] theorem State.done_replies (s : State) (n : Nat) : (s.done n).replies = s.replies := rfl
@[simp] theorem State.done_collMembers (s : State) (n : Nat) : (s.done n).collMembers = s.collMembers := rfl
@[simp] theorem State.done_tlb (s : State) (n : Nat) : (s.done n).tlb = s.tlb := rfl
@[simp] theorem State.done_grants (s : State) (n : Nat) : (s.done n).grants = s.grants := rfl
@[simp] theorem State.done_regroups (s : State) (n : Nat) : (s.done n).regroups = s.regroups := rfl
@[simp] theorem State.done_regions (s : State) (n : Nat) : (s.done n).regions = s.regions := rfl
@[simp] theorem State.done_nextHandle (s : State) (n : Nat) : (s.done n).nextHandle = s.nextHandle := rfl
@[simp] theorem State.done_chunks (s : State) (n : Nat) : (s.done n).chunks = s.chunks := rfl
@[simp] theorem State.done_mgmt (s : State) (n : Nat) : (s.done n).mgmt = s.mgmt := rfl
@[simp] theorem State.done_history (s : State) (n : Nat) : (s.done n).history = s.history := rfl
@[simp] theorem State.done_codeNew (s : State) (n : Nat) : (s.done n).codeNew = s.codeNew := rfl
@[simp] theorem State.done_codeLaunch (s : State) (n : Nat) : (s.done n).codeLaunch = s.codeLaunch := rfl
@[simp] theorem State.done_now (s : State) (n : Nat) : (s.done n).now = s.now := rfl
@[simp] theorem State.done_counted (s : State) (n : Nat) : (s.done n).counted = s.counted := rfl
@[simp] theorem State.done_outbox (s : State) (n : Nat) : (s.done n).outbox = s.outbox := rfl
@[simp] theorem State.done_sched (s : State) (n : Nat) : (s.done n).sched = s.sched := rfl
@[simp] theorem State.done_stopAt (s : State) (n : Nat) : (s.done n).stopAt = s.stopAt := rfl
@[simp] theorem State.done_draws (s : State) (n : Nat) : (s.done n).draws = s.draws := rfl

@[simp] theorem State.doneX_cur (s : State) (n : Nat) (d : BitVec 5) (v : Word) : (s.doneX n d v).cur = s.cur := rfl
@[simp] theorem State.doneX_ir (s : State) (n : Nat) (d : BitVec 5) (v : Word) : (s.doneX n d v).ir = s.ir := rfl
@[simp] theorem State.doneX_stack (s : State) (n : Nat) (d : BitVec 5) (v : Word) : (s.doneX n d v).stack = s.stack := rfl
@[simp] theorem State.doneX_vault (s : State) (n : Nat) (d : BitVec 5) (v : Word) : (s.doneX n d v).vault = s.vault := rfl
@[simp] theorem State.doneX_core (s : State) (n : Nat) (d : BitVec 5) (v : Word) : (s.doneX n d v).core = s.core := rfl
@[simp] theorem State.doneX_tiles (s : State) (n : Nat) (d : BitVec 5) (v : Word) : (s.doneX n d v).tiles = s.tiles := rfl
@[simp] theorem State.doneX_savedTiles (s : State) (n : Nat) (d : BitVec 5) (v : Word) : (s.doneX n d v).savedTiles = s.savedTiles := rfl
@[simp] theorem State.doneX_remote (s : State) (n : Nat) (d : BitVec 5) (v : Word) : (s.doneX n d v).remote = s.remote := rfl
@[simp] theorem State.doneX_sd (s : State) (n : Nat) (d : BitVec 5) (v : Word) : (s.doneX n d v).sd = s.sd := rfl
@[simp] theorem State.doneX_acc (s : State) (n : Nat) (d : BitVec 5) (v : Word) : (s.doneX n d v).acc = s.acc := rfl
@[simp] theorem State.doneX_wm (s : State) (n : Nat) (d : BitVec 5) (v : Word) : (s.doneX n d v).wm = s.wm := rfl
@[simp] theorem State.doneX_full (s : State) (n : Nat) (d : BitVec 5) (v : Word) : (s.doneX n d v).full = s.full := rfl
@[simp] theorem State.doneX_present (s : State) (n : Nat) (d : BitVec 5) (v : Word) : (s.doneX n d v).present = s.present := rfl
@[simp] theorem State.doneX_restoreFull (s : State) (n : Nat) (d : BitVec 5) (v : Word) : (s.doneX n d v).restoreFull = s.restoreFull := rfl
@[simp] theorem State.doneX_emptied (s : State) (n : Nat) (d : BitVec 5) (v : Word) : (s.doneX n d v).emptied = s.emptied := rfl
@[simp] theorem State.doneX_outside (s : State) (n : Nat) (d : BitVec 5) (v : Word) : (s.doneX n d v).outside = s.outside := rfl
@[simp] theorem State.doneX_laneCap (s : State) (n : Nat) (d : BitVec 5) (v : Word) : (s.doneX n d v).laneCap = s.laneCap := rfl
@[simp] theorem State.doneX_checks (s : State) (n : Nat) (d : BitVec 5) (v : Word) : (s.doneX n d v).checks = s.checks := rfl
@[simp] theorem State.doneX_resetAt (s : State) (n : Nat) (d : BitVec 5) (v : Word) : (s.doneX n d v).resetAt = s.resetAt := rfl
@[simp] theorem State.doneX_landSince (s : State) (n : Nat) (d : BitVec 5) (v : Word) : (s.doneX n d v).landSince = s.landSince := rfl
@[simp] theorem State.doneX_forwards (s : State) (n : Nat) (d : BitVec 5) (v : Word) : (s.doneX n d v).forwards = s.forwards := rfl
@[simp] theorem State.doneX_mem (s : State) (n : Nat) (d : BitVec 5) (v : Word) : (s.doneX n d v).mem = s.mem := rfl
@[simp] theorem State.doneX_rows (s : State) (n : Nat) (d : BitVec 5) (v : Word) : (s.doneX n d v).rows = s.rows := rfl
@[simp] theorem State.doneX_latches (s : State) (n : Nat) (d : BitVec 5) (v : Word) : (s.doneX n d v).latches = s.latches := rfl
@[simp] theorem State.doneX_redTags (s : State) (n : Nat) (d : BitVec 5) (v : Word) : (s.doneX n d v).redTags = s.redTags := rfl
@[simp] theorem State.doneX_hostLines (s : State) (n : Nat) (d : BitVec 5) (v : Word) : (s.doneX n d v).hostLines = s.hostLines := rfl
@[simp] theorem State.doneX_hdmLines (s : State) (n : Nat) (d : BitVec 5) (v : Word) : (s.doneX n d v).hdmLines = s.hdmLines := rfl
@[simp] theorem State.doneX_watches (s : State) (n : Nat) (d : BitVec 5) (v : Word) : (s.doneX n d v).watches = s.watches := rfl
@[simp] theorem State.doneX_failing (s : State) (n : Nat) (d : BitVec 5) (v : Word) : (s.doneX n d v).failing = s.failing := rfl
@[simp] theorem State.doneX_failed (s : State) (n : Nat) (d : BitVec 5) (v : Word) : (s.doneX n d v).failed = s.failed := rfl
@[simp] theorem State.doneX_pending (s : State) (n : Nat) (d : BitVec 5) (v : Word) : (s.doneX n d v).pending = s.pending := rfl
@[simp] theorem State.doneX_late (s : State) (n : Nat) (d : BitVec 5) (v : Word) : (s.doneX n d v).late = s.late := rfl
@[simp] theorem State.doneX_refresh (s : State) (n : Nat) (d : BitVec 5) (v : Word) : (s.doneX n d v).refresh = s.refresh := rfl
@[simp] theorem State.doneX_parts (s : State) (n : Nat) (d : BitVec 5) (v : Word) : (s.doneX n d v).parts = s.parts := rfl
@[simp] theorem State.doneX_launches (s : State) (n : Nat) (d : BitVec 5) (v : Word) : (s.doneX n d v).launches = s.launches := rfl
@[simp] theorem State.doneX_nextLaunch (s : State) (n : Nat) (d : BitVec 5) (v : Word) : (s.doneX n d v).nextLaunch = s.nextLaunch := rfl
@[simp] theorem State.doneX_throws (s : State) (n : Nat) (d : BitVec 5) (v : Word) : (s.doneX n d v).throws = s.throws := rfl
@[simp] theorem State.doneX_replies (s : State) (n : Nat) (d : BitVec 5) (v : Word) : (s.doneX n d v).replies = s.replies := rfl
@[simp] theorem State.doneX_collMembers (s : State) (n : Nat) (d : BitVec 5) (v : Word) : (s.doneX n d v).collMembers = s.collMembers := rfl
@[simp] theorem State.doneX_tlb (s : State) (n : Nat) (d : BitVec 5) (v : Word) : (s.doneX n d v).tlb = s.tlb := rfl
@[simp] theorem State.doneX_grants (s : State) (n : Nat) (d : BitVec 5) (v : Word) : (s.doneX n d v).grants = s.grants := rfl
@[simp] theorem State.doneX_regroups (s : State) (n : Nat) (d : BitVec 5) (v : Word) : (s.doneX n d v).regroups = s.regroups := rfl
@[simp] theorem State.doneX_regions (s : State) (n : Nat) (d : BitVec 5) (v : Word) : (s.doneX n d v).regions = s.regions := rfl
@[simp] theorem State.doneX_nextHandle (s : State) (n : Nat) (d : BitVec 5) (v : Word) : (s.doneX n d v).nextHandle = s.nextHandle := rfl
@[simp] theorem State.doneX_chunks (s : State) (n : Nat) (d : BitVec 5) (v : Word) : (s.doneX n d v).chunks = s.chunks := rfl
@[simp] theorem State.doneX_mgmt (s : State) (n : Nat) (d : BitVec 5) (v : Word) : (s.doneX n d v).mgmt = s.mgmt := rfl
@[simp] theorem State.doneX_history (s : State) (n : Nat) (d : BitVec 5) (v : Word) : (s.doneX n d v).history = s.history := rfl
@[simp] theorem State.doneX_codeNew (s : State) (n : Nat) (d : BitVec 5) (v : Word) : (s.doneX n d v).codeNew = s.codeNew := rfl
@[simp] theorem State.doneX_codeLaunch (s : State) (n : Nat) (d : BitVec 5) (v : Word) : (s.doneX n d v).codeLaunch = s.codeLaunch := rfl
@[simp] theorem State.doneX_now (s : State) (n : Nat) (d : BitVec 5) (v : Word) : (s.doneX n d v).now = s.now := rfl
@[simp] theorem State.doneX_counted (s : State) (n : Nat) (d : BitVec 5) (v : Word) : (s.doneX n d v).counted = s.counted := rfl
@[simp] theorem State.doneX_outbox (s : State) (n : Nat) (d : BitVec 5) (v : Word) : (s.doneX n d v).outbox = s.outbox := rfl
@[simp] theorem State.doneX_sched (s : State) (n : Nat) (d : BitVec 5) (v : Word) : (s.doneX n d v).sched = s.sched := rfl
@[simp] theorem State.doneX_stopAt (s : State) (n : Nat) (d : BitVec 5) (v : Word) : (s.doneX n d v).stopAt = s.stopAt := rfl
@[simp] theorem State.doneX_draws (s : State) (n : Nat) (d : BitVec 5) (v : Word) : (s.doneX n d v).draws = s.draws := rfl

@[simp] theorem State.updPart_ctxs (s : State) (p : Fin 16) (f : Part → Part) : (s.updPart p f).ctxs = s.ctxs := rfl
@[simp] theorem State.updPart_cur (s : State) (p : Fin 16) (f : Part → Part) : (s.updPart p f).cur = s.cur := rfl
@[simp] theorem State.updPart_ir (s : State) (p : Fin 16) (f : Part → Part) : (s.updPart p f).ir = s.ir := rfl
@[simp] theorem State.updPart_stack (s : State) (p : Fin 16) (f : Part → Part) : (s.updPart p f).stack = s.stack := rfl
@[simp] theorem State.updPart_vault (s : State) (p : Fin 16) (f : Part → Part) : (s.updPart p f).vault = s.vault := rfl
@[simp] theorem State.updPart_core (s : State) (p : Fin 16) (f : Part → Part) : (s.updPart p f).core = s.core := rfl
@[simp] theorem State.updPart_tiles (s : State) (p : Fin 16) (f : Part → Part) : (s.updPart p f).tiles = s.tiles := rfl
@[simp] theorem State.updPart_savedTiles (s : State) (p : Fin 16) (f : Part → Part) : (s.updPart p f).savedTiles = s.savedTiles := rfl
@[simp] theorem State.updPart_remote (s : State) (p : Fin 16) (f : Part → Part) : (s.updPart p f).remote = s.remote := rfl
@[simp] theorem State.updPart_sd (s : State) (p : Fin 16) (f : Part → Part) : (s.updPart p f).sd = s.sd := rfl
@[simp] theorem State.updPart_acc (s : State) (p : Fin 16) (f : Part → Part) : (s.updPart p f).acc = s.acc := rfl
@[simp] theorem State.updPart_wm (s : State) (p : Fin 16) (f : Part → Part) : (s.updPart p f).wm = s.wm := rfl
@[simp] theorem State.updPart_full (s : State) (p : Fin 16) (f : Part → Part) : (s.updPart p f).full = s.full := rfl
@[simp] theorem State.updPart_present (s : State) (p : Fin 16) (f : Part → Part) : (s.updPart p f).present = s.present := rfl
@[simp] theorem State.updPart_restoreFull (s : State) (p : Fin 16) (f : Part → Part) : (s.updPart p f).restoreFull = s.restoreFull := rfl
@[simp] theorem State.updPart_emptied (s : State) (p : Fin 16) (f : Part → Part) : (s.updPart p f).emptied = s.emptied := rfl
@[simp] theorem State.updPart_outside (s : State) (p : Fin 16) (f : Part → Part) : (s.updPart p f).outside = s.outside := rfl
@[simp] theorem State.updPart_laneCap (s : State) (p : Fin 16) (f : Part → Part) : (s.updPart p f).laneCap = s.laneCap := rfl
@[simp] theorem State.updPart_checks (s : State) (p : Fin 16) (f : Part → Part) : (s.updPart p f).checks = s.checks := rfl
@[simp] theorem State.updPart_resetAt (s : State) (p : Fin 16) (f : Part → Part) : (s.updPart p f).resetAt = s.resetAt := rfl
@[simp] theorem State.updPart_landSince (s : State) (p : Fin 16) (f : Part → Part) : (s.updPart p f).landSince = s.landSince := rfl
@[simp] theorem State.updPart_forwards (s : State) (p : Fin 16) (f : Part → Part) : (s.updPart p f).forwards = s.forwards := rfl
@[simp] theorem State.updPart_mem (s : State) (p : Fin 16) (f : Part → Part) : (s.updPart p f).mem = s.mem := rfl
@[simp] theorem State.updPart_rows (s : State) (p : Fin 16) (f : Part → Part) : (s.updPart p f).rows = s.rows := rfl
@[simp] theorem State.updPart_latches (s : State) (p : Fin 16) (f : Part → Part) : (s.updPart p f).latches = s.latches := rfl
@[simp] theorem State.updPart_redTags (s : State) (p : Fin 16) (f : Part → Part) : (s.updPart p f).redTags = s.redTags := rfl
@[simp] theorem State.updPart_hostLines (s : State) (p : Fin 16) (f : Part → Part) : (s.updPart p f).hostLines = s.hostLines := rfl
@[simp] theorem State.updPart_hdmLines (s : State) (p : Fin 16) (f : Part → Part) : (s.updPart p f).hdmLines = s.hdmLines := rfl
@[simp] theorem State.updPart_watches (s : State) (p : Fin 16) (f : Part → Part) : (s.updPart p f).watches = s.watches := rfl
@[simp] theorem State.updPart_failing (s : State) (p : Fin 16) (f : Part → Part) : (s.updPart p f).failing = s.failing := rfl
@[simp] theorem State.updPart_failed (s : State) (p : Fin 16) (f : Part → Part) : (s.updPart p f).failed = s.failed := rfl
@[simp] theorem State.updPart_pending (s : State) (p : Fin 16) (f : Part → Part) : (s.updPart p f).pending = s.pending := rfl
@[simp] theorem State.updPart_late (s : State) (p : Fin 16) (f : Part → Part) : (s.updPart p f).late = s.late := rfl
@[simp] theorem State.updPart_refresh (s : State) (p : Fin 16) (f : Part → Part) : (s.updPart p f).refresh = s.refresh := rfl
@[simp] theorem State.updPart_launches (s : State) (p : Fin 16) (f : Part → Part) : (s.updPart p f).launches = s.launches := rfl
@[simp] theorem State.updPart_nextLaunch (s : State) (p : Fin 16) (f : Part → Part) : (s.updPart p f).nextLaunch = s.nextLaunch := rfl
@[simp] theorem State.updPart_throws (s : State) (p : Fin 16) (f : Part → Part) : (s.updPart p f).throws = s.throws := rfl
@[simp] theorem State.updPart_replies (s : State) (p : Fin 16) (f : Part → Part) : (s.updPart p f).replies = s.replies := rfl
@[simp] theorem State.updPart_collMembers (s : State) (p : Fin 16) (f : Part → Part) : (s.updPart p f).collMembers = s.collMembers := rfl
@[simp] theorem State.updPart_tlb (s : State) (p : Fin 16) (f : Part → Part) : (s.updPart p f).tlb = s.tlb := rfl
@[simp] theorem State.updPart_grants (s : State) (p : Fin 16) (f : Part → Part) : (s.updPart p f).grants = s.grants := rfl
@[simp] theorem State.updPart_regroups (s : State) (p : Fin 16) (f : Part → Part) : (s.updPart p f).regroups = s.regroups := rfl
@[simp] theorem State.updPart_regions (s : State) (p : Fin 16) (f : Part → Part) : (s.updPart p f).regions = s.regions := rfl
@[simp] theorem State.updPart_nextHandle (s : State) (p : Fin 16) (f : Part → Part) : (s.updPart p f).nextHandle = s.nextHandle := rfl
@[simp] theorem State.updPart_chunks (s : State) (p : Fin 16) (f : Part → Part) : (s.updPart p f).chunks = s.chunks := rfl
@[simp] theorem State.updPart_mgmt (s : State) (p : Fin 16) (f : Part → Part) : (s.updPart p f).mgmt = s.mgmt := rfl
@[simp] theorem State.updPart_history (s : State) (p : Fin 16) (f : Part → Part) : (s.updPart p f).history = s.history := rfl
@[simp] theorem State.updPart_codeNew (s : State) (p : Fin 16) (f : Part → Part) : (s.updPart p f).codeNew = s.codeNew := rfl
@[simp] theorem State.updPart_codeLaunch (s : State) (p : Fin 16) (f : Part → Part) : (s.updPart p f).codeLaunch = s.codeLaunch := rfl
@[simp] theorem State.updPart_now (s : State) (p : Fin 16) (f : Part → Part) : (s.updPart p f).now = s.now := rfl
@[simp] theorem State.updPart_counted (s : State) (p : Fin 16) (f : Part → Part) : (s.updPart p f).counted = s.counted := rfl
@[simp] theorem State.updPart_outbox (s : State) (p : Fin 16) (f : Part → Part) : (s.updPart p f).outbox = s.outbox := rfl
@[simp] theorem State.updPart_sched (s : State) (p : Fin 16) (f : Part → Part) : (s.updPart p f).sched = s.sched := rfl
@[simp] theorem State.updPart_stopAt (s : State) (p : Fin 16) (f : Part → Part) : (s.updPart p f).stopAt = s.stopAt := rfl
@[simp] theorem State.updPart_draws (s : State) (p : Fin 16) (f : Part → Part) : (s.updPart p f).draws = s.draws := rfl

@[simp] theorem State.setTile_ctxs (s : State) (n : Nat) (t : Option Tile) : (s.setTile n t).ctxs = s.ctxs := rfl
@[simp] theorem State.setTile_cur (s : State) (n : Nat) (t : Option Tile) : (s.setTile n t).cur = s.cur := rfl
@[simp] theorem State.setTile_ir (s : State) (n : Nat) (t : Option Tile) : (s.setTile n t).ir = s.ir := rfl
@[simp] theorem State.setTile_stack (s : State) (n : Nat) (t : Option Tile) : (s.setTile n t).stack = s.stack := rfl
@[simp] theorem State.setTile_vault (s : State) (n : Nat) (t : Option Tile) : (s.setTile n t).vault = s.vault := rfl
@[simp] theorem State.setTile_core (s : State) (n : Nat) (t : Option Tile) : (s.setTile n t).core = s.core := rfl
@[simp] theorem State.setTile_savedTiles (s : State) (n : Nat) (t : Option Tile) : (s.setTile n t).savedTiles = s.savedTiles := rfl
@[simp] theorem State.setTile_remote (s : State) (n : Nat) (t : Option Tile) : (s.setTile n t).remote = s.remote := rfl
@[simp] theorem State.setTile_sd (s : State) (n : Nat) (t : Option Tile) : (s.setTile n t).sd = s.sd := rfl
@[simp] theorem State.setTile_acc (s : State) (n : Nat) (t : Option Tile) : (s.setTile n t).acc = s.acc := rfl
@[simp] theorem State.setTile_wm (s : State) (n : Nat) (t : Option Tile) : (s.setTile n t).wm = s.wm := rfl
@[simp] theorem State.setTile_full (s : State) (n : Nat) (t : Option Tile) : (s.setTile n t).full = s.full := rfl
@[simp] theorem State.setTile_present (s : State) (n : Nat) (t : Option Tile) : (s.setTile n t).present = s.present := rfl
@[simp] theorem State.setTile_restoreFull (s : State) (n : Nat) (t : Option Tile) : (s.setTile n t).restoreFull = s.restoreFull := rfl
@[simp] theorem State.setTile_emptied (s : State) (n : Nat) (t : Option Tile) : (s.setTile n t).emptied = s.emptied := rfl
@[simp] theorem State.setTile_outside (s : State) (n : Nat) (t : Option Tile) : (s.setTile n t).outside = s.outside := rfl
@[simp] theorem State.setTile_laneCap (s : State) (n : Nat) (t : Option Tile) : (s.setTile n t).laneCap = s.laneCap := rfl
@[simp] theorem State.setTile_checks (s : State) (n : Nat) (t : Option Tile) : (s.setTile n t).checks = s.checks := rfl
@[simp] theorem State.setTile_resetAt (s : State) (n : Nat) (t : Option Tile) : (s.setTile n t).resetAt = s.resetAt := rfl
@[simp] theorem State.setTile_landSince (s : State) (n : Nat) (t : Option Tile) : (s.setTile n t).landSince = s.landSince := rfl
@[simp] theorem State.setTile_forwards (s : State) (n : Nat) (t : Option Tile) : (s.setTile n t).forwards = s.forwards := rfl
@[simp] theorem State.setTile_mem (s : State) (n : Nat) (t : Option Tile) : (s.setTile n t).mem = s.mem := rfl
@[simp] theorem State.setTile_rows (s : State) (n : Nat) (t : Option Tile) : (s.setTile n t).rows = s.rows := rfl
@[simp] theorem State.setTile_latches (s : State) (n : Nat) (t : Option Tile) : (s.setTile n t).latches = s.latches := rfl
@[simp] theorem State.setTile_redTags (s : State) (n : Nat) (t : Option Tile) : (s.setTile n t).redTags = s.redTags := rfl
@[simp] theorem State.setTile_hostLines (s : State) (n : Nat) (t : Option Tile) : (s.setTile n t).hostLines = s.hostLines := rfl
@[simp] theorem State.setTile_hdmLines (s : State) (n : Nat) (t : Option Tile) : (s.setTile n t).hdmLines = s.hdmLines := rfl
@[simp] theorem State.setTile_watches (s : State) (n : Nat) (t : Option Tile) : (s.setTile n t).watches = s.watches := rfl
@[simp] theorem State.setTile_failing (s : State) (n : Nat) (t : Option Tile) : (s.setTile n t).failing = s.failing := rfl
@[simp] theorem State.setTile_failed (s : State) (n : Nat) (t : Option Tile) : (s.setTile n t).failed = s.failed := rfl
@[simp] theorem State.setTile_pending (s : State) (n : Nat) (t : Option Tile) : (s.setTile n t).pending = s.pending := rfl
@[simp] theorem State.setTile_late (s : State) (n : Nat) (t : Option Tile) : (s.setTile n t).late = s.late := rfl
@[simp] theorem State.setTile_refresh (s : State) (n : Nat) (t : Option Tile) : (s.setTile n t).refresh = s.refresh := rfl
@[simp] theorem State.setTile_parts (s : State) (n : Nat) (t : Option Tile) : (s.setTile n t).parts = s.parts := rfl
@[simp] theorem State.setTile_launches (s : State) (n : Nat) (t : Option Tile) : (s.setTile n t).launches = s.launches := rfl
@[simp] theorem State.setTile_nextLaunch (s : State) (n : Nat) (t : Option Tile) : (s.setTile n t).nextLaunch = s.nextLaunch := rfl
@[simp] theorem State.setTile_throws (s : State) (n : Nat) (t : Option Tile) : (s.setTile n t).throws = s.throws := rfl
@[simp] theorem State.setTile_replies (s : State) (n : Nat) (t : Option Tile) : (s.setTile n t).replies = s.replies := rfl
@[simp] theorem State.setTile_collMembers (s : State) (n : Nat) (t : Option Tile) : (s.setTile n t).collMembers = s.collMembers := rfl
@[simp] theorem State.setTile_tlb (s : State) (n : Nat) (t : Option Tile) : (s.setTile n t).tlb = s.tlb := rfl
@[simp] theorem State.setTile_grants (s : State) (n : Nat) (t : Option Tile) : (s.setTile n t).grants = s.grants := rfl
@[simp] theorem State.setTile_regroups (s : State) (n : Nat) (t : Option Tile) : (s.setTile n t).regroups = s.regroups := rfl
@[simp] theorem State.setTile_regions (s : State) (n : Nat) (t : Option Tile) : (s.setTile n t).regions = s.regions := rfl
@[simp] theorem State.setTile_nextHandle (s : State) (n : Nat) (t : Option Tile) : (s.setTile n t).nextHandle = s.nextHandle := rfl
@[simp] theorem State.setTile_chunks (s : State) (n : Nat) (t : Option Tile) : (s.setTile n t).chunks = s.chunks := rfl
@[simp] theorem State.setTile_mgmt (s : State) (n : Nat) (t : Option Tile) : (s.setTile n t).mgmt = s.mgmt := rfl
@[simp] theorem State.setTile_history (s : State) (n : Nat) (t : Option Tile) : (s.setTile n t).history = s.history := rfl
@[simp] theorem State.setTile_codeNew (s : State) (n : Nat) (t : Option Tile) : (s.setTile n t).codeNew = s.codeNew := rfl
@[simp] theorem State.setTile_codeLaunch (s : State) (n : Nat) (t : Option Tile) : (s.setTile n t).codeLaunch = s.codeLaunch := rfl
@[simp] theorem State.setTile_now (s : State) (n : Nat) (t : Option Tile) : (s.setTile n t).now = s.now := rfl
@[simp] theorem State.setTile_counted (s : State) (n : Nat) (t : Option Tile) : (s.setTile n t).counted = s.counted := rfl
@[simp] theorem State.setTile_outbox (s : State) (n : Nat) (t : Option Tile) : (s.setTile n t).outbox = s.outbox := rfl
@[simp] theorem State.setTile_sched (s : State) (n : Nat) (t : Option Tile) : (s.setTile n t).sched = s.sched := rfl
@[simp] theorem State.setTile_stopAt (s : State) (n : Nat) (t : Option Tile) : (s.setTile n t).stopAt = s.stopAt := rfl
@[simp] theorem State.setTile_draws (s : State) (n : Nat) (t : Option Tile) : (s.setTile n t).draws = s.draws := rfl

@[simp] theorem State.updLaunch_ctxs (s : State) (i : Nat) (f : Launch → Launch) : (s.updLaunch i f).ctxs = s.ctxs := rfl
@[simp] theorem State.updLaunch_cur (s : State) (i : Nat) (f : Launch → Launch) : (s.updLaunch i f).cur = s.cur := rfl
@[simp] theorem State.updLaunch_ir (s : State) (i : Nat) (f : Launch → Launch) : (s.updLaunch i f).ir = s.ir := rfl
@[simp] theorem State.updLaunch_stack (s : State) (i : Nat) (f : Launch → Launch) : (s.updLaunch i f).stack = s.stack := rfl
@[simp] theorem State.updLaunch_vault (s : State) (i : Nat) (f : Launch → Launch) : (s.updLaunch i f).vault = s.vault := rfl
@[simp] theorem State.updLaunch_core (s : State) (i : Nat) (f : Launch → Launch) : (s.updLaunch i f).core = s.core := rfl
@[simp] theorem State.updLaunch_tiles (s : State) (i : Nat) (f : Launch → Launch) : (s.updLaunch i f).tiles = s.tiles := rfl
@[simp] theorem State.updLaunch_savedTiles (s : State) (i : Nat) (f : Launch → Launch) : (s.updLaunch i f).savedTiles = s.savedTiles := rfl
@[simp] theorem State.updLaunch_remote (s : State) (i : Nat) (f : Launch → Launch) : (s.updLaunch i f).remote = s.remote := rfl
@[simp] theorem State.updLaunch_sd (s : State) (i : Nat) (f : Launch → Launch) : (s.updLaunch i f).sd = s.sd := rfl
@[simp] theorem State.updLaunch_acc (s : State) (i : Nat) (f : Launch → Launch) : (s.updLaunch i f).acc = s.acc := rfl
@[simp] theorem State.updLaunch_wm (s : State) (i : Nat) (f : Launch → Launch) : (s.updLaunch i f).wm = s.wm := rfl
@[simp] theorem State.updLaunch_full (s : State) (i : Nat) (f : Launch → Launch) : (s.updLaunch i f).full = s.full := rfl
@[simp] theorem State.updLaunch_present (s : State) (i : Nat) (f : Launch → Launch) : (s.updLaunch i f).present = s.present := rfl
@[simp] theorem State.updLaunch_restoreFull (s : State) (i : Nat) (f : Launch → Launch) : (s.updLaunch i f).restoreFull = s.restoreFull := rfl
@[simp] theorem State.updLaunch_emptied (s : State) (i : Nat) (f : Launch → Launch) : (s.updLaunch i f).emptied = s.emptied := rfl
@[simp] theorem State.updLaunch_outside (s : State) (i : Nat) (f : Launch → Launch) : (s.updLaunch i f).outside = s.outside := rfl
@[simp] theorem State.updLaunch_laneCap (s : State) (i : Nat) (f : Launch → Launch) : (s.updLaunch i f).laneCap = s.laneCap := rfl
@[simp] theorem State.updLaunch_checks (s : State) (i : Nat) (f : Launch → Launch) : (s.updLaunch i f).checks = s.checks := rfl
@[simp] theorem State.updLaunch_resetAt (s : State) (i : Nat) (f : Launch → Launch) : (s.updLaunch i f).resetAt = s.resetAt := rfl
@[simp] theorem State.updLaunch_landSince (s : State) (i : Nat) (f : Launch → Launch) : (s.updLaunch i f).landSince = s.landSince := rfl
@[simp] theorem State.updLaunch_forwards (s : State) (i : Nat) (f : Launch → Launch) : (s.updLaunch i f).forwards = s.forwards := rfl
@[simp] theorem State.updLaunch_mem (s : State) (i : Nat) (f : Launch → Launch) : (s.updLaunch i f).mem = s.mem := rfl
@[simp] theorem State.updLaunch_rows (s : State) (i : Nat) (f : Launch → Launch) : (s.updLaunch i f).rows = s.rows := rfl
@[simp] theorem State.updLaunch_latches (s : State) (i : Nat) (f : Launch → Launch) : (s.updLaunch i f).latches = s.latches := rfl
@[simp] theorem State.updLaunch_redTags (s : State) (i : Nat) (f : Launch → Launch) : (s.updLaunch i f).redTags = s.redTags := rfl
@[simp] theorem State.updLaunch_hostLines (s : State) (i : Nat) (f : Launch → Launch) : (s.updLaunch i f).hostLines = s.hostLines := rfl
@[simp] theorem State.updLaunch_hdmLines (s : State) (i : Nat) (f : Launch → Launch) : (s.updLaunch i f).hdmLines = s.hdmLines := rfl
@[simp] theorem State.updLaunch_watches (s : State) (i : Nat) (f : Launch → Launch) : (s.updLaunch i f).watches = s.watches := rfl
@[simp] theorem State.updLaunch_failing (s : State) (i : Nat) (f : Launch → Launch) : (s.updLaunch i f).failing = s.failing := rfl
@[simp] theorem State.updLaunch_failed (s : State) (i : Nat) (f : Launch → Launch) : (s.updLaunch i f).failed = s.failed := rfl
@[simp] theorem State.updLaunch_pending (s : State) (i : Nat) (f : Launch → Launch) : (s.updLaunch i f).pending = s.pending := rfl
@[simp] theorem State.updLaunch_late (s : State) (i : Nat) (f : Launch → Launch) : (s.updLaunch i f).late = s.late := rfl
@[simp] theorem State.updLaunch_refresh (s : State) (i : Nat) (f : Launch → Launch) : (s.updLaunch i f).refresh = s.refresh := rfl
@[simp] theorem State.updLaunch_parts (s : State) (i : Nat) (f : Launch → Launch) : (s.updLaunch i f).parts = s.parts := rfl
@[simp] theorem State.updLaunch_nextLaunch (s : State) (i : Nat) (f : Launch → Launch) : (s.updLaunch i f).nextLaunch = s.nextLaunch := rfl
@[simp] theorem State.updLaunch_throws (s : State) (i : Nat) (f : Launch → Launch) : (s.updLaunch i f).throws = s.throws := rfl
@[simp] theorem State.updLaunch_replies (s : State) (i : Nat) (f : Launch → Launch) : (s.updLaunch i f).replies = s.replies := rfl
@[simp] theorem State.updLaunch_collMembers (s : State) (i : Nat) (f : Launch → Launch) : (s.updLaunch i f).collMembers = s.collMembers := rfl
@[simp] theorem State.updLaunch_tlb (s : State) (i : Nat) (f : Launch → Launch) : (s.updLaunch i f).tlb = s.tlb := rfl
@[simp] theorem State.updLaunch_grants (s : State) (i : Nat) (f : Launch → Launch) : (s.updLaunch i f).grants = s.grants := rfl
@[simp] theorem State.updLaunch_regroups (s : State) (i : Nat) (f : Launch → Launch) : (s.updLaunch i f).regroups = s.regroups := rfl
@[simp] theorem State.updLaunch_regions (s : State) (i : Nat) (f : Launch → Launch) : (s.updLaunch i f).regions = s.regions := rfl
@[simp] theorem State.updLaunch_nextHandle (s : State) (i : Nat) (f : Launch → Launch) : (s.updLaunch i f).nextHandle = s.nextHandle := rfl
@[simp] theorem State.updLaunch_chunks (s : State) (i : Nat) (f : Launch → Launch) : (s.updLaunch i f).chunks = s.chunks := rfl
@[simp] theorem State.updLaunch_mgmt (s : State) (i : Nat) (f : Launch → Launch) : (s.updLaunch i f).mgmt = s.mgmt := rfl
@[simp] theorem State.updLaunch_history (s : State) (i : Nat) (f : Launch → Launch) : (s.updLaunch i f).history = s.history := rfl
@[simp] theorem State.updLaunch_codeNew (s : State) (i : Nat) (f : Launch → Launch) : (s.updLaunch i f).codeNew = s.codeNew := rfl
@[simp] theorem State.updLaunch_codeLaunch (s : State) (i : Nat) (f : Launch → Launch) : (s.updLaunch i f).codeLaunch = s.codeLaunch := rfl
@[simp] theorem State.updLaunch_now (s : State) (i : Nat) (f : Launch → Launch) : (s.updLaunch i f).now = s.now := rfl
@[simp] theorem State.updLaunch_counted (s : State) (i : Nat) (f : Launch → Launch) : (s.updLaunch i f).counted = s.counted := rfl
@[simp] theorem State.updLaunch_outbox (s : State) (i : Nat) (f : Launch → Launch) : (s.updLaunch i f).outbox = s.outbox := rfl
@[simp] theorem State.updLaunch_sched (s : State) (i : Nat) (f : Launch → Launch) : (s.updLaunch i f).sched = s.sched := rfl
@[simp] theorem State.updLaunch_stopAt (s : State) (i : Nat) (f : Launch → Launch) : (s.updLaunch i f).stopAt = s.stopAt := rfl
@[simp] theorem State.updLaunch_draws (s : State) (i : Nat) (f : Launch → Launch) : (s.updLaunch i f).draws = s.draws := rfl

@[simp] theorem State.send_ctxs (s : State) (m : Message) : (s.send m).ctxs = s.ctxs := rfl
@[simp] theorem State.send_cur (s : State) (m : Message) : (s.send m).cur = s.cur := rfl
@[simp] theorem State.send_ir (s : State) (m : Message) : (s.send m).ir = s.ir := rfl
@[simp] theorem State.send_stack (s : State) (m : Message) : (s.send m).stack = s.stack := rfl
@[simp] theorem State.send_vault (s : State) (m : Message) : (s.send m).vault = s.vault := rfl
@[simp] theorem State.send_core (s : State) (m : Message) : (s.send m).core = s.core := rfl
@[simp] theorem State.send_tiles (s : State) (m : Message) : (s.send m).tiles = s.tiles := rfl
@[simp] theorem State.send_savedTiles (s : State) (m : Message) : (s.send m).savedTiles = s.savedTiles := rfl
@[simp] theorem State.send_remote (s : State) (m : Message) : (s.send m).remote = s.remote := rfl
@[simp] theorem State.send_sd (s : State) (m : Message) : (s.send m).sd = s.sd := rfl
@[simp] theorem State.send_acc (s : State) (m : Message) : (s.send m).acc = s.acc := rfl
@[simp] theorem State.send_wm (s : State) (m : Message) : (s.send m).wm = s.wm := rfl
@[simp] theorem State.send_full (s : State) (m : Message) : (s.send m).full = s.full := rfl
@[simp] theorem State.send_present (s : State) (m : Message) : (s.send m).present = s.present := rfl
@[simp] theorem State.send_restoreFull (s : State) (m : Message) : (s.send m).restoreFull = s.restoreFull := rfl
@[simp] theorem State.send_emptied (s : State) (m : Message) : (s.send m).emptied = s.emptied := rfl
@[simp] theorem State.send_outside (s : State) (m : Message) : (s.send m).outside = s.outside := rfl
@[simp] theorem State.send_laneCap (s : State) (m : Message) : (s.send m).laneCap = s.laneCap := rfl
@[simp] theorem State.send_checks (s : State) (m : Message) : (s.send m).checks = s.checks := rfl
@[simp] theorem State.send_resetAt (s : State) (m : Message) : (s.send m).resetAt = s.resetAt := rfl
@[simp] theorem State.send_landSince (s : State) (m : Message) : (s.send m).landSince = s.landSince := rfl
@[simp] theorem State.send_forwards (s : State) (m : Message) : (s.send m).forwards = s.forwards := rfl
@[simp] theorem State.send_mem (s : State) (m : Message) : (s.send m).mem = s.mem := rfl
@[simp] theorem State.send_rows (s : State) (m : Message) : (s.send m).rows = s.rows := rfl
@[simp] theorem State.send_latches (s : State) (m : Message) : (s.send m).latches = s.latches := rfl
@[simp] theorem State.send_redTags (s : State) (m : Message) : (s.send m).redTags = s.redTags := rfl
@[simp] theorem State.send_hostLines (s : State) (m : Message) : (s.send m).hostLines = s.hostLines := rfl
@[simp] theorem State.send_hdmLines (s : State) (m : Message) : (s.send m).hdmLines = s.hdmLines := rfl
@[simp] theorem State.send_watches (s : State) (m : Message) : (s.send m).watches = s.watches := rfl
@[simp] theorem State.send_failing (s : State) (m : Message) : (s.send m).failing = s.failing := rfl
@[simp] theorem State.send_failed (s : State) (m : Message) : (s.send m).failed = s.failed := rfl
@[simp] theorem State.send_pending (s : State) (m : Message) : (s.send m).pending = s.pending := rfl
@[simp] theorem State.send_late (s : State) (m : Message) : (s.send m).late = s.late := rfl
@[simp] theorem State.send_refresh (s : State) (m : Message) : (s.send m).refresh = s.refresh := rfl
@[simp] theorem State.send_parts (s : State) (m : Message) : (s.send m).parts = s.parts := rfl
@[simp] theorem State.send_launches (s : State) (m : Message) : (s.send m).launches = s.launches := rfl
@[simp] theorem State.send_nextLaunch (s : State) (m : Message) : (s.send m).nextLaunch = s.nextLaunch := rfl
@[simp] theorem State.send_throws (s : State) (m : Message) : (s.send m).throws = s.throws := rfl
@[simp] theorem State.send_replies (s : State) (m : Message) : (s.send m).replies = s.replies := rfl
@[simp] theorem State.send_collMembers (s : State) (m : Message) : (s.send m).collMembers = s.collMembers := rfl
@[simp] theorem State.send_tlb (s : State) (m : Message) : (s.send m).tlb = s.tlb := rfl
@[simp] theorem State.send_grants (s : State) (m : Message) : (s.send m).grants = s.grants := rfl
@[simp] theorem State.send_regroups (s : State) (m : Message) : (s.send m).regroups = s.regroups := rfl
@[simp] theorem State.send_regions (s : State) (m : Message) : (s.send m).regions = s.regions := rfl
@[simp] theorem State.send_nextHandle (s : State) (m : Message) : (s.send m).nextHandle = s.nextHandle := rfl
@[simp] theorem State.send_chunks (s : State) (m : Message) : (s.send m).chunks = s.chunks := rfl
@[simp] theorem State.send_mgmt (s : State) (m : Message) : (s.send m).mgmt = s.mgmt := rfl
@[simp] theorem State.send_history (s : State) (m : Message) : (s.send m).history = s.history := rfl
@[simp] theorem State.send_codeNew (s : State) (m : Message) : (s.send m).codeNew = s.codeNew := rfl
@[simp] theorem State.send_codeLaunch (s : State) (m : Message) : (s.send m).codeLaunch = s.codeLaunch := rfl
@[simp] theorem State.send_now (s : State) (m : Message) : (s.send m).now = s.now := rfl
@[simp] theorem State.send_counted (s : State) (m : Message) : (s.send m).counted = s.counted := rfl
@[simp] theorem State.send_sched (s : State) (m : Message) : (s.send m).sched = s.sched := rfl
@[simp] theorem State.send_stopAt (s : State) (m : Message) : (s.send m).stopAt = s.stopAt := rfl
@[simp] theorem State.send_draws (s : State) (m : Message) : (s.send m).draws = s.draws := rfl

@[simp] theorem State.setWm_ctxs (s : State) (n : Fin 16) (w : Option Watermark) : (s.setWm n w).ctxs = s.ctxs := rfl
@[simp] theorem State.setWm_cur (s : State) (n : Fin 16) (w : Option Watermark) : (s.setWm n w).cur = s.cur := rfl
@[simp] theorem State.setWm_ir (s : State) (n : Fin 16) (w : Option Watermark) : (s.setWm n w).ir = s.ir := rfl
@[simp] theorem State.setWm_stack (s : State) (n : Fin 16) (w : Option Watermark) : (s.setWm n w).stack = s.stack := rfl
@[simp] theorem State.setWm_vault (s : State) (n : Fin 16) (w : Option Watermark) : (s.setWm n w).vault = s.vault := rfl
@[simp] theorem State.setWm_core (s : State) (n : Fin 16) (w : Option Watermark) : (s.setWm n w).core = s.core := rfl
@[simp] theorem State.setWm_tiles (s : State) (n : Fin 16) (w : Option Watermark) : (s.setWm n w).tiles = s.tiles := rfl
@[simp] theorem State.setWm_savedTiles (s : State) (n : Fin 16) (w : Option Watermark) : (s.setWm n w).savedTiles = s.savedTiles := rfl
@[simp] theorem State.setWm_remote (s : State) (n : Fin 16) (w : Option Watermark) : (s.setWm n w).remote = s.remote := rfl
@[simp] theorem State.setWm_sd (s : State) (n : Fin 16) (w : Option Watermark) : (s.setWm n w).sd = s.sd := rfl
@[simp] theorem State.setWm_acc (s : State) (n : Fin 16) (w : Option Watermark) : (s.setWm n w).acc = s.acc := rfl
@[simp] theorem State.setWm_full (s : State) (n : Fin 16) (w : Option Watermark) : (s.setWm n w).full = s.full := rfl
@[simp] theorem State.setWm_present (s : State) (n : Fin 16) (w : Option Watermark) : (s.setWm n w).present = s.present := rfl
@[simp] theorem State.setWm_restoreFull (s : State) (n : Fin 16) (w : Option Watermark) : (s.setWm n w).restoreFull = s.restoreFull := rfl
@[simp] theorem State.setWm_emptied (s : State) (n : Fin 16) (w : Option Watermark) : (s.setWm n w).emptied = s.emptied := rfl
@[simp] theorem State.setWm_outside (s : State) (n : Fin 16) (w : Option Watermark) : (s.setWm n w).outside = s.outside := rfl
@[simp] theorem State.setWm_laneCap (s : State) (n : Fin 16) (w : Option Watermark) : (s.setWm n w).laneCap = s.laneCap := rfl
@[simp] theorem State.setWm_checks (s : State) (n : Fin 16) (w : Option Watermark) : (s.setWm n w).checks = s.checks := rfl
@[simp] theorem State.setWm_resetAt (s : State) (n : Fin 16) (w : Option Watermark) : (s.setWm n w).resetAt = s.resetAt := rfl
@[simp] theorem State.setWm_landSince (s : State) (n : Fin 16) (w : Option Watermark) : (s.setWm n w).landSince = s.landSince := rfl
@[simp] theorem State.setWm_forwards (s : State) (n : Fin 16) (w : Option Watermark) : (s.setWm n w).forwards = s.forwards := rfl
@[simp] theorem State.setWm_mem (s : State) (n : Fin 16) (w : Option Watermark) : (s.setWm n w).mem = s.mem := rfl
@[simp] theorem State.setWm_rows (s : State) (n : Fin 16) (w : Option Watermark) : (s.setWm n w).rows = s.rows := rfl
@[simp] theorem State.setWm_latches (s : State) (n : Fin 16) (w : Option Watermark) : (s.setWm n w).latches = s.latches := rfl
@[simp] theorem State.setWm_redTags (s : State) (n : Fin 16) (w : Option Watermark) : (s.setWm n w).redTags = s.redTags := rfl
@[simp] theorem State.setWm_hostLines (s : State) (n : Fin 16) (w : Option Watermark) : (s.setWm n w).hostLines = s.hostLines := rfl
@[simp] theorem State.setWm_hdmLines (s : State) (n : Fin 16) (w : Option Watermark) : (s.setWm n w).hdmLines = s.hdmLines := rfl
@[simp] theorem State.setWm_watches (s : State) (n : Fin 16) (w : Option Watermark) : (s.setWm n w).watches = s.watches := rfl
@[simp] theorem State.setWm_failing (s : State) (n : Fin 16) (w : Option Watermark) : (s.setWm n w).failing = s.failing := rfl
@[simp] theorem State.setWm_failed (s : State) (n : Fin 16) (w : Option Watermark) : (s.setWm n w).failed = s.failed := rfl
@[simp] theorem State.setWm_pending (s : State) (n : Fin 16) (w : Option Watermark) : (s.setWm n w).pending = s.pending := rfl
@[simp] theorem State.setWm_late (s : State) (n : Fin 16) (w : Option Watermark) : (s.setWm n w).late = s.late := rfl
@[simp] theorem State.setWm_refresh (s : State) (n : Fin 16) (w : Option Watermark) : (s.setWm n w).refresh = s.refresh := rfl
@[simp] theorem State.setWm_parts (s : State) (n : Fin 16) (w : Option Watermark) : (s.setWm n w).parts = s.parts := rfl
@[simp] theorem State.setWm_launches (s : State) (n : Fin 16) (w : Option Watermark) : (s.setWm n w).launches = s.launches := rfl
@[simp] theorem State.setWm_nextLaunch (s : State) (n : Fin 16) (w : Option Watermark) : (s.setWm n w).nextLaunch = s.nextLaunch := rfl
@[simp] theorem State.setWm_throws (s : State) (n : Fin 16) (w : Option Watermark) : (s.setWm n w).throws = s.throws := rfl
@[simp] theorem State.setWm_replies (s : State) (n : Fin 16) (w : Option Watermark) : (s.setWm n w).replies = s.replies := rfl
@[simp] theorem State.setWm_collMembers (s : State) (n : Fin 16) (w : Option Watermark) : (s.setWm n w).collMembers = s.collMembers := rfl
@[simp] theorem State.setWm_tlb (s : State) (n : Fin 16) (w : Option Watermark) : (s.setWm n w).tlb = s.tlb := rfl
@[simp] theorem State.setWm_grants (s : State) (n : Fin 16) (w : Option Watermark) : (s.setWm n w).grants = s.grants := rfl
@[simp] theorem State.setWm_regroups (s : State) (n : Fin 16) (w : Option Watermark) : (s.setWm n w).regroups = s.regroups := rfl
@[simp] theorem State.setWm_regions (s : State) (n : Fin 16) (w : Option Watermark) : (s.setWm n w).regions = s.regions := rfl
@[simp] theorem State.setWm_nextHandle (s : State) (n : Fin 16) (w : Option Watermark) : (s.setWm n w).nextHandle = s.nextHandle := rfl
@[simp] theorem State.setWm_chunks (s : State) (n : Fin 16) (w : Option Watermark) : (s.setWm n w).chunks = s.chunks := rfl
@[simp] theorem State.setWm_mgmt (s : State) (n : Fin 16) (w : Option Watermark) : (s.setWm n w).mgmt = s.mgmt := rfl
@[simp] theorem State.setWm_history (s : State) (n : Fin 16) (w : Option Watermark) : (s.setWm n w).history = s.history := rfl
@[simp] theorem State.setWm_codeNew (s : State) (n : Fin 16) (w : Option Watermark) : (s.setWm n w).codeNew = s.codeNew := rfl
@[simp] theorem State.setWm_codeLaunch (s : State) (n : Fin 16) (w : Option Watermark) : (s.setWm n w).codeLaunch = s.codeLaunch := rfl
@[simp] theorem State.setWm_now (s : State) (n : Fin 16) (w : Option Watermark) : (s.setWm n w).now = s.now := rfl
@[simp] theorem State.setWm_counted (s : State) (n : Fin 16) (w : Option Watermark) : (s.setWm n w).counted = s.counted := rfl
@[simp] theorem State.setWm_outbox (s : State) (n : Fin 16) (w : Option Watermark) : (s.setWm n w).outbox = s.outbox := rfl
@[simp] theorem State.setWm_sched (s : State) (n : Fin 16) (w : Option Watermark) : (s.setWm n w).sched = s.sched := rfl
@[simp] theorem State.setWm_stopAt (s : State) (n : Fin 16) (w : Option Watermark) : (s.setWm n w).stopAt = s.stopAt := rfl
@[simp] theorem State.setWm_draws (s : State) (n : Fin 16) (w : Option Watermark) : (s.setWm n w).draws = s.draws := rfl

@[simp] theorem State.setRow_ctxs (s : State) (k : Nat) (v : RowData) : (s.setRow k v).ctxs = s.ctxs := rfl
@[simp] theorem State.setRow_cur (s : State) (k : Nat) (v : RowData) : (s.setRow k v).cur = s.cur := rfl
@[simp] theorem State.setRow_ir (s : State) (k : Nat) (v : RowData) : (s.setRow k v).ir = s.ir := rfl
@[simp] theorem State.setRow_stack (s : State) (k : Nat) (v : RowData) : (s.setRow k v).stack = s.stack := rfl
@[simp] theorem State.setRow_vault (s : State) (k : Nat) (v : RowData) : (s.setRow k v).vault = s.vault := rfl
@[simp] theorem State.setRow_core (s : State) (k : Nat) (v : RowData) : (s.setRow k v).core = s.core := rfl
@[simp] theorem State.setRow_tiles (s : State) (k : Nat) (v : RowData) : (s.setRow k v).tiles = s.tiles := rfl
@[simp] theorem State.setRow_savedTiles (s : State) (k : Nat) (v : RowData) : (s.setRow k v).savedTiles = s.savedTiles := rfl
@[simp] theorem State.setRow_remote (s : State) (k : Nat) (v : RowData) : (s.setRow k v).remote = s.remote := rfl
@[simp] theorem State.setRow_sd (s : State) (k : Nat) (v : RowData) : (s.setRow k v).sd = s.sd := rfl
@[simp] theorem State.setRow_acc (s : State) (k : Nat) (v : RowData) : (s.setRow k v).acc = s.acc := rfl
@[simp] theorem State.setRow_wm (s : State) (k : Nat) (v : RowData) : (s.setRow k v).wm = s.wm := rfl
@[simp] theorem State.setRow_full (s : State) (k : Nat) (v : RowData) : (s.setRow k v).full = s.full := rfl
@[simp] theorem State.setRow_present (s : State) (k : Nat) (v : RowData) : (s.setRow k v).present = s.present := rfl
@[simp] theorem State.setRow_restoreFull (s : State) (k : Nat) (v : RowData) : (s.setRow k v).restoreFull = s.restoreFull := rfl
@[simp] theorem State.setRow_emptied (s : State) (k : Nat) (v : RowData) : (s.setRow k v).emptied = s.emptied := rfl
@[simp] theorem State.setRow_outside (s : State) (k : Nat) (v : RowData) : (s.setRow k v).outside = s.outside := rfl
@[simp] theorem State.setRow_laneCap (s : State) (k : Nat) (v : RowData) : (s.setRow k v).laneCap = s.laneCap := rfl
@[simp] theorem State.setRow_checks (s : State) (k : Nat) (v : RowData) : (s.setRow k v).checks = s.checks := rfl
@[simp] theorem State.setRow_resetAt (s : State) (k : Nat) (v : RowData) : (s.setRow k v).resetAt = s.resetAt := rfl
@[simp] theorem State.setRow_landSince (s : State) (k : Nat) (v : RowData) : (s.setRow k v).landSince = s.landSince := rfl
@[simp] theorem State.setRow_forwards (s : State) (k : Nat) (v : RowData) : (s.setRow k v).forwards = s.forwards := rfl
@[simp] theorem State.setRow_mem (s : State) (k : Nat) (v : RowData) : (s.setRow k v).mem = s.mem := rfl
@[simp] theorem State.setRow_latches (s : State) (k : Nat) (v : RowData) : (s.setRow k v).latches = s.latches := rfl
@[simp] theorem State.setRow_redTags (s : State) (k : Nat) (v : RowData) : (s.setRow k v).redTags = s.redTags := rfl
@[simp] theorem State.setRow_hostLines (s : State) (k : Nat) (v : RowData) : (s.setRow k v).hostLines = s.hostLines := rfl
@[simp] theorem State.setRow_hdmLines (s : State) (k : Nat) (v : RowData) : (s.setRow k v).hdmLines = s.hdmLines := rfl
@[simp] theorem State.setRow_watches (s : State) (k : Nat) (v : RowData) : (s.setRow k v).watches = s.watches := rfl
@[simp] theorem State.setRow_failing (s : State) (k : Nat) (v : RowData) : (s.setRow k v).failing = s.failing := rfl
@[simp] theorem State.setRow_failed (s : State) (k : Nat) (v : RowData) : (s.setRow k v).failed = s.failed := rfl
@[simp] theorem State.setRow_pending (s : State) (k : Nat) (v : RowData) : (s.setRow k v).pending = s.pending := rfl
@[simp] theorem State.setRow_late (s : State) (k : Nat) (v : RowData) : (s.setRow k v).late = s.late := rfl
@[simp] theorem State.setRow_refresh (s : State) (k : Nat) (v : RowData) : (s.setRow k v).refresh = s.refresh := rfl
@[simp] theorem State.setRow_parts (s : State) (k : Nat) (v : RowData) : (s.setRow k v).parts = s.parts := rfl
@[simp] theorem State.setRow_launches (s : State) (k : Nat) (v : RowData) : (s.setRow k v).launches = s.launches := rfl
@[simp] theorem State.setRow_nextLaunch (s : State) (k : Nat) (v : RowData) : (s.setRow k v).nextLaunch = s.nextLaunch := rfl
@[simp] theorem State.setRow_throws (s : State) (k : Nat) (v : RowData) : (s.setRow k v).throws = s.throws := rfl
@[simp] theorem State.setRow_replies (s : State) (k : Nat) (v : RowData) : (s.setRow k v).replies = s.replies := rfl
@[simp] theorem State.setRow_collMembers (s : State) (k : Nat) (v : RowData) : (s.setRow k v).collMembers = s.collMembers := rfl
@[simp] theorem State.setRow_tlb (s : State) (k : Nat) (v : RowData) : (s.setRow k v).tlb = s.tlb := rfl
@[simp] theorem State.setRow_grants (s : State) (k : Nat) (v : RowData) : (s.setRow k v).grants = s.grants := rfl
@[simp] theorem State.setRow_regroups (s : State) (k : Nat) (v : RowData) : (s.setRow k v).regroups = s.regroups := rfl
@[simp] theorem State.setRow_regions (s : State) (k : Nat) (v : RowData) : (s.setRow k v).regions = s.regions := rfl
@[simp] theorem State.setRow_nextHandle (s : State) (k : Nat) (v : RowData) : (s.setRow k v).nextHandle = s.nextHandle := rfl
@[simp] theorem State.setRow_chunks (s : State) (k : Nat) (v : RowData) : (s.setRow k v).chunks = s.chunks := rfl
@[simp] theorem State.setRow_mgmt (s : State) (k : Nat) (v : RowData) : (s.setRow k v).mgmt = s.mgmt := rfl
@[simp] theorem State.setRow_history (s : State) (k : Nat) (v : RowData) : (s.setRow k v).history = s.history := rfl
@[simp] theorem State.setRow_codeNew (s : State) (k : Nat) (v : RowData) : (s.setRow k v).codeNew = s.codeNew := rfl
@[simp] theorem State.setRow_codeLaunch (s : State) (k : Nat) (v : RowData) : (s.setRow k v).codeLaunch = s.codeLaunch := rfl
@[simp] theorem State.setRow_now (s : State) (k : Nat) (v : RowData) : (s.setRow k v).now = s.now := rfl
@[simp] theorem State.setRow_counted (s : State) (k : Nat) (v : RowData) : (s.setRow k v).counted = s.counted := rfl
@[simp] theorem State.setRow_outbox (s : State) (k : Nat) (v : RowData) : (s.setRow k v).outbox = s.outbox := rfl
@[simp] theorem State.setRow_sched (s : State) (k : Nat) (v : RowData) : (s.setRow k v).sched = s.sched := rfl
@[simp] theorem State.setRow_stopAt (s : State) (k : Nat) (v : RowData) : (s.setRow k v).stopAt = s.stopAt := rfl
@[simp] theorem State.setRow_draws (s : State) (k : Nat) (v : RowData) : (s.setRow k v).draws = s.draws := rfl

@[simp] theorem State.setLine_ctxs (s : State) (n : Nat) (l : Option LineState) : (s.setLine n l).ctxs = s.ctxs := rfl
@[simp] theorem State.setLine_cur (s : State) (n : Nat) (l : Option LineState) : (s.setLine n l).cur = s.cur := rfl
@[simp] theorem State.setLine_ir (s : State) (n : Nat) (l : Option LineState) : (s.setLine n l).ir = s.ir := rfl
@[simp] theorem State.setLine_stack (s : State) (n : Nat) (l : Option LineState) : (s.setLine n l).stack = s.stack := rfl
@[simp] theorem State.setLine_vault (s : State) (n : Nat) (l : Option LineState) : (s.setLine n l).vault = s.vault := rfl
@[simp] theorem State.setLine_core (s : State) (n : Nat) (l : Option LineState) : (s.setLine n l).core = s.core := rfl
@[simp] theorem State.setLine_tiles (s : State) (n : Nat) (l : Option LineState) : (s.setLine n l).tiles = s.tiles := rfl
@[simp] theorem State.setLine_savedTiles (s : State) (n : Nat) (l : Option LineState) : (s.setLine n l).savedTiles = s.savedTiles := rfl
@[simp] theorem State.setLine_remote (s : State) (n : Nat) (l : Option LineState) : (s.setLine n l).remote = s.remote := rfl
@[simp] theorem State.setLine_sd (s : State) (n : Nat) (l : Option LineState) : (s.setLine n l).sd = s.sd := rfl
@[simp] theorem State.setLine_acc (s : State) (n : Nat) (l : Option LineState) : (s.setLine n l).acc = s.acc := rfl
@[simp] theorem State.setLine_wm (s : State) (n : Nat) (l : Option LineState) : (s.setLine n l).wm = s.wm := rfl
@[simp] theorem State.setLine_full (s : State) (n : Nat) (l : Option LineState) : (s.setLine n l).full = s.full := rfl
@[simp] theorem State.setLine_present (s : State) (n : Nat) (l : Option LineState) : (s.setLine n l).present = s.present := rfl
@[simp] theorem State.setLine_restoreFull (s : State) (n : Nat) (l : Option LineState) : (s.setLine n l).restoreFull = s.restoreFull := rfl
@[simp] theorem State.setLine_emptied (s : State) (n : Nat) (l : Option LineState) : (s.setLine n l).emptied = s.emptied := rfl
@[simp] theorem State.setLine_outside (s : State) (n : Nat) (l : Option LineState) : (s.setLine n l).outside = s.outside := rfl
@[simp] theorem State.setLine_laneCap (s : State) (n : Nat) (l : Option LineState) : (s.setLine n l).laneCap = s.laneCap := rfl
@[simp] theorem State.setLine_checks (s : State) (n : Nat) (l : Option LineState) : (s.setLine n l).checks = s.checks := rfl
@[simp] theorem State.setLine_resetAt (s : State) (n : Nat) (l : Option LineState) : (s.setLine n l).resetAt = s.resetAt := rfl
@[simp] theorem State.setLine_landSince (s : State) (n : Nat) (l : Option LineState) : (s.setLine n l).landSince = s.landSince := rfl
@[simp] theorem State.setLine_forwards (s : State) (n : Nat) (l : Option LineState) : (s.setLine n l).forwards = s.forwards := rfl
@[simp] theorem State.setLine_mem (s : State) (n : Nat) (l : Option LineState) : (s.setLine n l).mem = s.mem := rfl
@[simp] theorem State.setLine_rows (s : State) (n : Nat) (l : Option LineState) : (s.setLine n l).rows = s.rows := rfl
@[simp] theorem State.setLine_latches (s : State) (n : Nat) (l : Option LineState) : (s.setLine n l).latches = s.latches := rfl
@[simp] theorem State.setLine_redTags (s : State) (n : Nat) (l : Option LineState) : (s.setLine n l).redTags = s.redTags := rfl
@[simp] theorem State.setLine_hdmLines (s : State) (n : Nat) (l : Option LineState) : (s.setLine n l).hdmLines = s.hdmLines := rfl
@[simp] theorem State.setLine_watches (s : State) (n : Nat) (l : Option LineState) : (s.setLine n l).watches = s.watches := rfl
@[simp] theorem State.setLine_failing (s : State) (n : Nat) (l : Option LineState) : (s.setLine n l).failing = s.failing := rfl
@[simp] theorem State.setLine_failed (s : State) (n : Nat) (l : Option LineState) : (s.setLine n l).failed = s.failed := rfl
@[simp] theorem State.setLine_pending (s : State) (n : Nat) (l : Option LineState) : (s.setLine n l).pending = s.pending := rfl
@[simp] theorem State.setLine_late (s : State) (n : Nat) (l : Option LineState) : (s.setLine n l).late = s.late := rfl
@[simp] theorem State.setLine_refresh (s : State) (n : Nat) (l : Option LineState) : (s.setLine n l).refresh = s.refresh := rfl
@[simp] theorem State.setLine_parts (s : State) (n : Nat) (l : Option LineState) : (s.setLine n l).parts = s.parts := rfl
@[simp] theorem State.setLine_launches (s : State) (n : Nat) (l : Option LineState) : (s.setLine n l).launches = s.launches := rfl
@[simp] theorem State.setLine_nextLaunch (s : State) (n : Nat) (l : Option LineState) : (s.setLine n l).nextLaunch = s.nextLaunch := rfl
@[simp] theorem State.setLine_throws (s : State) (n : Nat) (l : Option LineState) : (s.setLine n l).throws = s.throws := rfl
@[simp] theorem State.setLine_replies (s : State) (n : Nat) (l : Option LineState) : (s.setLine n l).replies = s.replies := rfl
@[simp] theorem State.setLine_collMembers (s : State) (n : Nat) (l : Option LineState) : (s.setLine n l).collMembers = s.collMembers := rfl
@[simp] theorem State.setLine_tlb (s : State) (n : Nat) (l : Option LineState) : (s.setLine n l).tlb = s.tlb := rfl
@[simp] theorem State.setLine_grants (s : State) (n : Nat) (l : Option LineState) : (s.setLine n l).grants = s.grants := rfl
@[simp] theorem State.setLine_regroups (s : State) (n : Nat) (l : Option LineState) : (s.setLine n l).regroups = s.regroups := rfl
@[simp] theorem State.setLine_regions (s : State) (n : Nat) (l : Option LineState) : (s.setLine n l).regions = s.regions := rfl
@[simp] theorem State.setLine_nextHandle (s : State) (n : Nat) (l : Option LineState) : (s.setLine n l).nextHandle = s.nextHandle := rfl
@[simp] theorem State.setLine_chunks (s : State) (n : Nat) (l : Option LineState) : (s.setLine n l).chunks = s.chunks := rfl
@[simp] theorem State.setLine_mgmt (s : State) (n : Nat) (l : Option LineState) : (s.setLine n l).mgmt = s.mgmt := rfl
@[simp] theorem State.setLine_history (s : State) (n : Nat) (l : Option LineState) : (s.setLine n l).history = s.history := rfl
@[simp] theorem State.setLine_codeNew (s : State) (n : Nat) (l : Option LineState) : (s.setLine n l).codeNew = s.codeNew := rfl
@[simp] theorem State.setLine_codeLaunch (s : State) (n : Nat) (l : Option LineState) : (s.setLine n l).codeLaunch = s.codeLaunch := rfl
@[simp] theorem State.setLine_now (s : State) (n : Nat) (l : Option LineState) : (s.setLine n l).now = s.now := rfl
@[simp] theorem State.setLine_counted (s : State) (n : Nat) (l : Option LineState) : (s.setLine n l).counted = s.counted := rfl
@[simp] theorem State.setLine_outbox (s : State) (n : Nat) (l : Option LineState) : (s.setLine n l).outbox = s.outbox := rfl
@[simp] theorem State.setLine_sched (s : State) (n : Nat) (l : Option LineState) : (s.setLine n l).sched = s.sched := rfl
@[simp] theorem State.setLine_stopAt (s : State) (n : Nat) (l : Option LineState) : (s.setLine n l).stopAt = s.stopAt := rfl
@[simp] theorem State.setLine_draws (s : State) (n : Nat) (l : Option LineState) : (s.setLine n l).draws = s.draws := rfl

@[simp] theorem State.updChunk_ctxs (s : State) (n m : Nat) (f : Chunk → Chunk) : (s.updChunk n m f).ctxs = s.ctxs := rfl
@[simp] theorem State.updChunk_cur (s : State) (n m : Nat) (f : Chunk → Chunk) : (s.updChunk n m f).cur = s.cur := rfl
@[simp] theorem State.updChunk_ir (s : State) (n m : Nat) (f : Chunk → Chunk) : (s.updChunk n m f).ir = s.ir := rfl
@[simp] theorem State.updChunk_stack (s : State) (n m : Nat) (f : Chunk → Chunk) : (s.updChunk n m f).stack = s.stack := rfl
@[simp] theorem State.updChunk_vault (s : State) (n m : Nat) (f : Chunk → Chunk) : (s.updChunk n m f).vault = s.vault := rfl
@[simp] theorem State.updChunk_core (s : State) (n m : Nat) (f : Chunk → Chunk) : (s.updChunk n m f).core = s.core := rfl
@[simp] theorem State.updChunk_tiles (s : State) (n m : Nat) (f : Chunk → Chunk) : (s.updChunk n m f).tiles = s.tiles := rfl
@[simp] theorem State.updChunk_savedTiles (s : State) (n m : Nat) (f : Chunk → Chunk) : (s.updChunk n m f).savedTiles = s.savedTiles := rfl
@[simp] theorem State.updChunk_remote (s : State) (n m : Nat) (f : Chunk → Chunk) : (s.updChunk n m f).remote = s.remote := rfl
@[simp] theorem State.updChunk_sd (s : State) (n m : Nat) (f : Chunk → Chunk) : (s.updChunk n m f).sd = s.sd := rfl
@[simp] theorem State.updChunk_acc (s : State) (n m : Nat) (f : Chunk → Chunk) : (s.updChunk n m f).acc = s.acc := rfl
@[simp] theorem State.updChunk_wm (s : State) (n m : Nat) (f : Chunk → Chunk) : (s.updChunk n m f).wm = s.wm := rfl
@[simp] theorem State.updChunk_full (s : State) (n m : Nat) (f : Chunk → Chunk) : (s.updChunk n m f).full = s.full := rfl
@[simp] theorem State.updChunk_present (s : State) (n m : Nat) (f : Chunk → Chunk) : (s.updChunk n m f).present = s.present := rfl
@[simp] theorem State.updChunk_restoreFull (s : State) (n m : Nat) (f : Chunk → Chunk) : (s.updChunk n m f).restoreFull = s.restoreFull := rfl
@[simp] theorem State.updChunk_emptied (s : State) (n m : Nat) (f : Chunk → Chunk) : (s.updChunk n m f).emptied = s.emptied := rfl
@[simp] theorem State.updChunk_outside (s : State) (n m : Nat) (f : Chunk → Chunk) : (s.updChunk n m f).outside = s.outside := rfl
@[simp] theorem State.updChunk_laneCap (s : State) (n m : Nat) (f : Chunk → Chunk) : (s.updChunk n m f).laneCap = s.laneCap := rfl
@[simp] theorem State.updChunk_checks (s : State) (n m : Nat) (f : Chunk → Chunk) : (s.updChunk n m f).checks = s.checks := rfl
@[simp] theorem State.updChunk_resetAt (s : State) (n m : Nat) (f : Chunk → Chunk) : (s.updChunk n m f).resetAt = s.resetAt := rfl
@[simp] theorem State.updChunk_landSince (s : State) (n m : Nat) (f : Chunk → Chunk) : (s.updChunk n m f).landSince = s.landSince := rfl
@[simp] theorem State.updChunk_forwards (s : State) (n m : Nat) (f : Chunk → Chunk) : (s.updChunk n m f).forwards = s.forwards := rfl
@[simp] theorem State.updChunk_mem (s : State) (n m : Nat) (f : Chunk → Chunk) : (s.updChunk n m f).mem = s.mem := rfl
@[simp] theorem State.updChunk_rows (s : State) (n m : Nat) (f : Chunk → Chunk) : (s.updChunk n m f).rows = s.rows := rfl
@[simp] theorem State.updChunk_latches (s : State) (n m : Nat) (f : Chunk → Chunk) : (s.updChunk n m f).latches = s.latches := rfl
@[simp] theorem State.updChunk_redTags (s : State) (n m : Nat) (f : Chunk → Chunk) : (s.updChunk n m f).redTags = s.redTags := rfl
@[simp] theorem State.updChunk_hostLines (s : State) (n m : Nat) (f : Chunk → Chunk) : (s.updChunk n m f).hostLines = s.hostLines := rfl
@[simp] theorem State.updChunk_hdmLines (s : State) (n m : Nat) (f : Chunk → Chunk) : (s.updChunk n m f).hdmLines = s.hdmLines := rfl
@[simp] theorem State.updChunk_watches (s : State) (n m : Nat) (f : Chunk → Chunk) : (s.updChunk n m f).watches = s.watches := rfl
@[simp] theorem State.updChunk_failing (s : State) (n m : Nat) (f : Chunk → Chunk) : (s.updChunk n m f).failing = s.failing := rfl
@[simp] theorem State.updChunk_failed (s : State) (n m : Nat) (f : Chunk → Chunk) : (s.updChunk n m f).failed = s.failed := rfl
@[simp] theorem State.updChunk_pending (s : State) (n m : Nat) (f : Chunk → Chunk) : (s.updChunk n m f).pending = s.pending := rfl
@[simp] theorem State.updChunk_late (s : State) (n m : Nat) (f : Chunk → Chunk) : (s.updChunk n m f).late = s.late := rfl
@[simp] theorem State.updChunk_refresh (s : State) (n m : Nat) (f : Chunk → Chunk) : (s.updChunk n m f).refresh = s.refresh := rfl
@[simp] theorem State.updChunk_parts (s : State) (n m : Nat) (f : Chunk → Chunk) : (s.updChunk n m f).parts = s.parts := rfl
@[simp] theorem State.updChunk_launches (s : State) (n m : Nat) (f : Chunk → Chunk) : (s.updChunk n m f).launches = s.launches := rfl
@[simp] theorem State.updChunk_nextLaunch (s : State) (n m : Nat) (f : Chunk → Chunk) : (s.updChunk n m f).nextLaunch = s.nextLaunch := rfl
@[simp] theorem State.updChunk_throws (s : State) (n m : Nat) (f : Chunk → Chunk) : (s.updChunk n m f).throws = s.throws := rfl
@[simp] theorem State.updChunk_replies (s : State) (n m : Nat) (f : Chunk → Chunk) : (s.updChunk n m f).replies = s.replies := rfl
@[simp] theorem State.updChunk_collMembers (s : State) (n m : Nat) (f : Chunk → Chunk) : (s.updChunk n m f).collMembers = s.collMembers := rfl
@[simp] theorem State.updChunk_tlb (s : State) (n m : Nat) (f : Chunk → Chunk) : (s.updChunk n m f).tlb = s.tlb := rfl
@[simp] theorem State.updChunk_grants (s : State) (n m : Nat) (f : Chunk → Chunk) : (s.updChunk n m f).grants = s.grants := rfl
@[simp] theorem State.updChunk_regroups (s : State) (n m : Nat) (f : Chunk → Chunk) : (s.updChunk n m f).regroups = s.regroups := rfl
@[simp] theorem State.updChunk_regions (s : State) (n m : Nat) (f : Chunk → Chunk) : (s.updChunk n m f).regions = s.regions := rfl
@[simp] theorem State.updChunk_nextHandle (s : State) (n m : Nat) (f : Chunk → Chunk) : (s.updChunk n m f).nextHandle = s.nextHandle := rfl
@[simp] theorem State.updChunk_mgmt (s : State) (n m : Nat) (f : Chunk → Chunk) : (s.updChunk n m f).mgmt = s.mgmt := rfl
@[simp] theorem State.updChunk_history (s : State) (n m : Nat) (f : Chunk → Chunk) : (s.updChunk n m f).history = s.history := rfl
@[simp] theorem State.updChunk_codeNew (s : State) (n m : Nat) (f : Chunk → Chunk) : (s.updChunk n m f).codeNew = s.codeNew := rfl
@[simp] theorem State.updChunk_codeLaunch (s : State) (n m : Nat) (f : Chunk → Chunk) : (s.updChunk n m f).codeLaunch = s.codeLaunch := rfl
@[simp] theorem State.updChunk_now (s : State) (n m : Nat) (f : Chunk → Chunk) : (s.updChunk n m f).now = s.now := rfl
@[simp] theorem State.updChunk_counted (s : State) (n m : Nat) (f : Chunk → Chunk) : (s.updChunk n m f).counted = s.counted := rfl
@[simp] theorem State.updChunk_outbox (s : State) (n m : Nat) (f : Chunk → Chunk) : (s.updChunk n m f).outbox = s.outbox := rfl
@[simp] theorem State.updChunk_sched (s : State) (n m : Nat) (f : Chunk → Chunk) : (s.updChunk n m f).sched = s.sched := rfl
@[simp] theorem State.updChunk_stopAt (s : State) (n m : Nat) (f : Chunk → Chunk) : (s.updChunk n m f).stopAt = s.stopAt := rfl
@[simp] theorem State.updChunk_draws (s : State) (n m : Nat) (f : Chunk → Chunk) : (s.updChunk n m f).draws = s.draws := rfl

/-! ### The changed fields -/

/-- A vector holds what is put in it. -/
theorem get_set_same (v : Vector α n) (i : Fin n) (a : α) : (v.set i.val a i.isLt).get i = a := by
  change (v.set i.val a i.isLt)[i.val] = a
  simp

/-- Every other place is as before. -/
theorem get_set_other (v : Vector α n) {i j : Fin n} (h : j ≠ i) (a : α) :
    (v.set i.val a i.isLt).get j = v.get j := by
  have : i.val ≠ j.val := fun e => h (Fin.ext e.symm)
  change (v.set i.val a i.isLt)[j.val] = v[j.val]
  simp [this]

/-- The changed context holds what the change gives. -/
@[simp] theorem State.updAt_at (s : State) (c : Fin 12) (f : Ctx → Ctx) :
    (s.updAt c f).ctxs.get c = f (s.ctxs.get c) := by
  exact get_set_same _ _ _

/-- Every other context is as before. -/
theorem State.updAt_other (s : State) {c d : Fin 12} (h : d ≠ c) (f : Ctx → Ctx) :
    (s.updAt c f).ctxs.get d = s.ctxs.get d := by
  exact get_set_other _ h _

@[simp] theorem State.upd_ctx (s : State) (f : Ctx → Ctx) : (s.upd f).ctx = f s.ctx := State.updAt_at s s.cur f

@[simp] theorem State.done_ctx (s : State) (n : Nat) : (s.done n).ctx = s.ctx.next n (ldNone s.ctx.ldst) :=
  State.updAt_at s s.cur _

@[simp] theorem State.doneX_ctx (s : State) (n : Nat) (d : BitVec 5) (v : Word) :
    (s.doneX n d v).ctx = (s.ctx.setX d v).next n (ldX d) := State.updAt_at s s.cur _

/-- Two changes of one context are one. -/
@[simp] theorem State.updAt_updAt (s : State) (c : Fin 12) (f g : Ctx → Ctx) :
    (s.updAt c f).updAt c g = s.updAt c fun x => g (f x) := by
  unfold State.updAt
  simp only [get_set_same, Vector.set_set]

@[simp] theorem State.upd_upd (s : State) (f g : Ctx → Ctx) : (s.upd f).upd g = s.upd fun x => g (f x) :=
  State.updAt_updAt s s.cur f g

/-- The changed partition. -/
@[simp] theorem State.updPart_part (s : State) (p : Fin 16) (f : Part → Part) :
    (s.updPart p f).part p = f (s.part p) := by
  exact get_set_same _ _ _

/-- Every other partition is as before. -/
theorem State.updPart_other (s : State) {p q : Fin 16} (h : q ≠ p) (f : Part → Part) :
    (s.updPart p f).part q = s.part q := by
  exact get_set_other _ h _

/-- The changed tile slot. -/
@[simp] theorem State.setTile_at (s : State) (n : Nat) (t : Option Tile) : (s.setTile n t).tileAt n = t := by
  exact get_set_same _ _ _

@[simp] theorem State.upd_kind (s : State) (f : Ctx → Ctx) : (s.upd f).kind = s.kind := rfl
@[simp] theorem State.done_kind (s : State) (n : Nat) : (s.done n).kind = s.kind := rfl
@[simp] theorem State.doneX_kind (s : State) (n : Nat) (d : BitVec 5) (v : Word) : (s.doneX n d v).kind = s.kind := rfl

/-! ### The context -/

@[simp] theorem Ctx.retire_run (c : Ctx) (ld : BitVec 8) : (c.retire ld).run = c.run := rfl
@[simp] theorem Ctx.retire_unbounded (c : Ctx) (ld : BitVec 8) : (c.retire ld).unbounded = c.unbounded := rfl
@[simp] theorem Ctx.retire_priv (c : Ctx) (ld : BitVec 8) : (c.retire ld).priv = c.priv := rfl
@[simp] theorem Ctx.retire_pc (c : Ctx) (ld : BitVec 8) : (c.retire ld).pc = c.pc := rfl
@[simp] theorem Ctx.retire_castEnd (c : Ctx) (ld : BitVec 8) : (c.retire ld).castEnd = c.castEnd := rfl
@[simp] theorem Ctx.retire_block (c : Ctx) (ld : BitVec 8) : (c.retire ld).block = c.block := rfl
@[simp] theorem Ctx.retire_x (c : Ctx) (ld : BitVec 8) : (c.retire ld).x = c.x := rfl
@[simp] theorem Ctx.retire_v (c : Ctx) (ld : BitVec 8) : (c.retire ld).v = c.v := rfl
@[simp] theorem Ctx.retire_k (c : Ctx) (ld : BitVec 8) : (c.retire ld).k = c.k := rfl
@[simp] theorem Ctx.retire_pd (c : Ctx) (ld : BitVec 8) : (c.retire ld).pd = c.pd := rfl
@[simp] theorem Ctx.retire_sq (c : Ctx) (ld : BitVec 8) : (c.retire ld).sq = c.sq := rfl
@[simp] theorem Ctx.retire_fflags (c : Ctx) (ld : BitVec 8) : (c.retire ld).fflags = c.fflags := rfl
@[simp] theorem Ctx.retire_frm (c : Ctx) (ld : BitVec 8) : (c.retire ld).frm = c.frm := rfl
@[simp] theorem Ctx.retire_srseed (c : Ctx) (ld : BitVec 8) : (c.retire ld).srseed = c.srseed := rfl
@[simp] theorem Ctx.retire_vl (c : Ctx) (ld : BitVec 8) : (c.retire ld).vl = c.vl := rfl
@[simp] theorem Ctx.retire_vtype (c : Ctx) (ld : BitVec 8) : (c.retire ld).vtype = c.vtype := rfl
@[simp] theorem Ctx.retire_vstart (c : Ctx) (ld : BitVec 8) : (c.retire ld).vstart = c.vstart := rfl
@[simp] theorem Ctx.retire_alc (c : Ctx) (ld : BitVec 8) : (c.retire ld).alc = c.alc := rfl
@[simp] theorem Ctx.retire_pvl (c : Ctx) (ld : BitVec 8) : (c.retire ld).pvl = c.pvl := rfl
@[simp] theorem Ctx.retire_ctxstat (c : Ctx) (ld : BitVec 8) : (c.retire ld).ctxstat = c.ctxstat := rfl
@[simp] theorem Ctx.retire_throwtmo (c : Ctx) (ld : BitVec 8) : (c.retire ld).throwtmo = c.throwtmo := rfl
@[simp] theorem Ctx.retire_sys (c : Ctx) (ld : BitVec 8) : (c.retire ld).sys = c.sys := rfl
@[simp] theorem Ctx.retire_seqOn (c : Ctx) (ld : BitVec 8) : (c.retire ld).seqOn = c.seqOn := rfl
@[simp] theorem Ctx.retire_levels (c : Ctx) (ld : BitVec 8) : (c.retire ld).levels = c.levels := rfl
@[simp] theorem Ctx.retire_events (c : Ctx) (ld : BitVec 8) : (c.retire ld).events = c.events := rfl
@[simp] theorem Ctx.retire_faultCause (c : Ctx) (ld : BitVec 8) : (c.retire ld).faultCause = c.faultCause := rfl
@[simp] theorem Ctx.retire_faultInfo (c : Ctx) (ld : BitVec 8) : (c.retire ld).faultInfo = c.faultInfo := rfl
@[simp] theorem Ctx.retire_timer (c : Ctx) (ld : BitVec 8) : (c.retire ld).timer = c.timer := rfl
@[simp] theorem Ctx.retire_window (c : Ctx) (ld : BitVec 8) : (c.retire ld).window = c.window := rfl
@[simp] theorem Ctx.retire_warned (c : Ctx) (ld : BitVec 8) : (c.retire ld).warned = c.warned := rfl
@[simp] theorem Ctx.retire_met (c : Ctx) (ld : BitVec 8) : (c.retire ld).met = c.met := rfl
@[simp] theorem Ctx.retire_tickets (c : Ctx) (ld : BitVec 8) : (c.retire ld).tickets = c.tickets := rfl
@[simp] theorem Ctx.retire_throwSeq (c : Ctx) (ld : BitVec 8) : (c.retire ld).throwSeq = c.throwSeq := rfl
@[simp] theorem Ctx.retire_granted (c : Ctx) (ld : BitVec 8) : (c.retire ld).granted = c.granted := rfl
@[simp] theorem Ctx.retire_lock (c : Ctx) (ld : BitVec 8) : (c.retire ld).lock = c.lock := rfl
@[simp] theorem Ctx.retire_colls (c : Ctx) (ld : BitVec 8) : (c.retire ld).colls = c.colls := rfl
@[simp] theorem Ctx.retire_collCounts (c : Ctx) (ld : BitVec 8) : (c.retire ld).collCounts = c.collCounts := rfl
@[simp] theorem Ctx.retire_planes (c : Ctx) (ld : BitVec 8) : (c.retire ld).planes = c.planes := rfl
@[simp] theorem Ctx.retire_barrier (c : Ctx) (ld : BitVec 8) : (c.retire ld).barrier = c.barrier := rfl
@[simp] theorem Ctx.retire_planeErr (c : Ctx) (ld : BitVec 8) : (c.retire ld).planeErr = c.planeErr := rfl
@[simp] theorem Ctx.retire_early (c : Ctx) (ld : BitVec 8) : (c.retire ld).early = c.early := rfl
@[simp] theorem Ctx.retire_saved (c : Ctx) (ld : BitVec 8) : (c.retire ld).saved = c.saved := rfl

@[simp] theorem Ctx.next_run (c : Ctx) (n : Nat) (ld : BitVec 8) : (c.next n ld).run = c.run := rfl
@[simp] theorem Ctx.next_unbounded (c : Ctx) (n : Nat) (ld : BitVec 8) : (c.next n ld).unbounded = c.unbounded := rfl
@[simp] theorem Ctx.next_priv (c : Ctx) (n : Nat) (ld : BitVec 8) : (c.next n ld).priv = c.priv := rfl
@[simp] theorem Ctx.next_castEnd (c : Ctx) (n : Nat) (ld : BitVec 8) : (c.next n ld).castEnd = c.castEnd := rfl
@[simp] theorem Ctx.next_block (c : Ctx) (n : Nat) (ld : BitVec 8) : (c.next n ld).block = c.block := rfl
@[simp] theorem Ctx.next_x (c : Ctx) (n : Nat) (ld : BitVec 8) : (c.next n ld).x = c.x := rfl
@[simp] theorem Ctx.next_v (c : Ctx) (n : Nat) (ld : BitVec 8) : (c.next n ld).v = c.v := rfl
@[simp] theorem Ctx.next_k (c : Ctx) (n : Nat) (ld : BitVec 8) : (c.next n ld).k = c.k := rfl
@[simp] theorem Ctx.next_pd (c : Ctx) (n : Nat) (ld : BitVec 8) : (c.next n ld).pd = c.pd := rfl
@[simp] theorem Ctx.next_sq (c : Ctx) (n : Nat) (ld : BitVec 8) : (c.next n ld).sq = c.sq := rfl
@[simp] theorem Ctx.next_fflags (c : Ctx) (n : Nat) (ld : BitVec 8) : (c.next n ld).fflags = c.fflags := rfl
@[simp] theorem Ctx.next_frm (c : Ctx) (n : Nat) (ld : BitVec 8) : (c.next n ld).frm = c.frm := rfl
@[simp] theorem Ctx.next_srseed (c : Ctx) (n : Nat) (ld : BitVec 8) : (c.next n ld).srseed = c.srseed := rfl
@[simp] theorem Ctx.next_vl (c : Ctx) (n : Nat) (ld : BitVec 8) : (c.next n ld).vl = c.vl := rfl
@[simp] theorem Ctx.next_vtype (c : Ctx) (n : Nat) (ld : BitVec 8) : (c.next n ld).vtype = c.vtype := rfl
@[simp] theorem Ctx.next_vstart (c : Ctx) (n : Nat) (ld : BitVec 8) : (c.next n ld).vstart = c.vstart := rfl
@[simp] theorem Ctx.next_alc (c : Ctx) (n : Nat) (ld : BitVec 8) : (c.next n ld).alc = c.alc := rfl
@[simp] theorem Ctx.next_pvl (c : Ctx) (n : Nat) (ld : BitVec 8) : (c.next n ld).pvl = c.pvl := rfl
@[simp] theorem Ctx.next_ctxstat (c : Ctx) (n : Nat) (ld : BitVec 8) : (c.next n ld).ctxstat = c.ctxstat := rfl
@[simp] theorem Ctx.next_throwtmo (c : Ctx) (n : Nat) (ld : BitVec 8) : (c.next n ld).throwtmo = c.throwtmo := rfl
@[simp] theorem Ctx.next_sys (c : Ctx) (n : Nat) (ld : BitVec 8) : (c.next n ld).sys = c.sys := rfl
@[simp] theorem Ctx.next_seqOn (c : Ctx) (n : Nat) (ld : BitVec 8) : (c.next n ld).seqOn = c.seqOn := rfl
@[simp] theorem Ctx.next_levels (c : Ctx) (n : Nat) (ld : BitVec 8) : (c.next n ld).levels = c.levels := rfl
@[simp] theorem Ctx.next_events (c : Ctx) (n : Nat) (ld : BitVec 8) : (c.next n ld).events = c.events := rfl
@[simp] theorem Ctx.next_faultCause (c : Ctx) (n : Nat) (ld : BitVec 8) : (c.next n ld).faultCause = c.faultCause := rfl
@[simp] theorem Ctx.next_faultInfo (c : Ctx) (n : Nat) (ld : BitVec 8) : (c.next n ld).faultInfo = c.faultInfo := rfl
@[simp] theorem Ctx.next_timer (c : Ctx) (n : Nat) (ld : BitVec 8) : (c.next n ld).timer = c.timer := rfl
@[simp] theorem Ctx.next_window (c : Ctx) (n : Nat) (ld : BitVec 8) : (c.next n ld).window = c.window := rfl
@[simp] theorem Ctx.next_warned (c : Ctx) (n : Nat) (ld : BitVec 8) : (c.next n ld).warned = c.warned := rfl
@[simp] theorem Ctx.next_met (c : Ctx) (n : Nat) (ld : BitVec 8) : (c.next n ld).met = c.met := rfl
@[simp] theorem Ctx.next_tickets (c : Ctx) (n : Nat) (ld : BitVec 8) : (c.next n ld).tickets = c.tickets := rfl
@[simp] theorem Ctx.next_throwSeq (c : Ctx) (n : Nat) (ld : BitVec 8) : (c.next n ld).throwSeq = c.throwSeq := rfl
@[simp] theorem Ctx.next_granted (c : Ctx) (n : Nat) (ld : BitVec 8) : (c.next n ld).granted = c.granted := rfl
@[simp] theorem Ctx.next_lock (c : Ctx) (n : Nat) (ld : BitVec 8) : (c.next n ld).lock = c.lock := rfl
@[simp] theorem Ctx.next_colls (c : Ctx) (n : Nat) (ld : BitVec 8) : (c.next n ld).colls = c.colls := rfl
@[simp] theorem Ctx.next_collCounts (c : Ctx) (n : Nat) (ld : BitVec 8) : (c.next n ld).collCounts = c.collCounts := rfl
@[simp] theorem Ctx.next_planes (c : Ctx) (n : Nat) (ld : BitVec 8) : (c.next n ld).planes = c.planes := rfl
@[simp] theorem Ctx.next_barrier (c : Ctx) (n : Nat) (ld : BitVec 8) : (c.next n ld).barrier = c.barrier := rfl
@[simp] theorem Ctx.next_planeErr (c : Ctx) (n : Nat) (ld : BitVec 8) : (c.next n ld).planeErr = c.planeErr := rfl
@[simp] theorem Ctx.next_early (c : Ctx) (n : Nat) (ld : BitVec 8) : (c.next n ld).early = c.early := rfl
@[simp] theorem Ctx.next_saved (c : Ctx) (n : Nat) (ld : BitVec 8) : (c.next n ld).saved = c.saved := rfl

@[simp] theorem Ctx.setX_run (c : Ctx) (d : BitVec 5) (v : Word) : (c.setX d v).run = c.run := by
  unfold Ctx.setX; split <;> rfl
@[simp] theorem Ctx.setX_wait (c : Ctx) (d : BitVec 5) (v : Word) : (c.setX d v).wait = c.wait := by
  unfold Ctx.setX; split <;> rfl
@[simp] theorem Ctx.setX_unbounded (c : Ctx) (d : BitVec 5) (v : Word) : (c.setX d v).unbounded = c.unbounded := by
  unfold Ctx.setX; split <;> rfl
@[simp] theorem Ctx.setX_priv (c : Ctx) (d : BitVec 5) (v : Word) : (c.setX d v).priv = c.priv := by
  unfold Ctx.setX; split <;> rfl
@[simp] theorem Ctx.setX_pc (c : Ctx) (d : BitVec 5) (v : Word) : (c.setX d v).pc = c.pc := by
  unfold Ctx.setX; split <;> rfl
@[simp] theorem Ctx.setX_castEnd (c : Ctx) (d : BitVec 5) (v : Word) : (c.setX d v).castEnd = c.castEnd := by
  unfold Ctx.setX; split <;> rfl
@[simp] theorem Ctx.setX_block (c : Ctx) (d : BitVec 5) (v : Word) : (c.setX d v).block = c.block := by
  unfold Ctx.setX; split <;> rfl
@[simp] theorem Ctx.setX_v (c : Ctx) (d : BitVec 5) (v : Word) : (c.setX d v).v = c.v := by
  unfold Ctx.setX; split <;> rfl
@[simp] theorem Ctx.setX_k (c : Ctx) (d : BitVec 5) (v : Word) : (c.setX d v).k = c.k := by
  unfold Ctx.setX; split <;> rfl
@[simp] theorem Ctx.setX_pd (c : Ctx) (d : BitVec 5) (v : Word) : (c.setX d v).pd = c.pd := by
  unfold Ctx.setX; split <;> rfl
@[simp] theorem Ctx.setX_sq (c : Ctx) (d : BitVec 5) (v : Word) : (c.setX d v).sq = c.sq := by
  unfold Ctx.setX; split <;> rfl
@[simp] theorem Ctx.setX_fflags (c : Ctx) (d : BitVec 5) (v : Word) : (c.setX d v).fflags = c.fflags := by
  unfold Ctx.setX; split <;> rfl
@[simp] theorem Ctx.setX_frm (c : Ctx) (d : BitVec 5) (v : Word) : (c.setX d v).frm = c.frm := by
  unfold Ctx.setX; split <;> rfl
@[simp] theorem Ctx.setX_srseed (c : Ctx) (d : BitVec 5) (v : Word) : (c.setX d v).srseed = c.srseed := by
  unfold Ctx.setX; split <;> rfl
@[simp] theorem Ctx.setX_vl (c : Ctx) (d : BitVec 5) (v : Word) : (c.setX d v).vl = c.vl := by
  unfold Ctx.setX; split <;> rfl
@[simp] theorem Ctx.setX_vtype (c : Ctx) (d : BitVec 5) (v : Word) : (c.setX d v).vtype = c.vtype := by
  unfold Ctx.setX; split <;> rfl
@[simp] theorem Ctx.setX_vstart (c : Ctx) (d : BitVec 5) (v : Word) : (c.setX d v).vstart = c.vstart := by
  unfold Ctx.setX; split <;> rfl
@[simp] theorem Ctx.setX_alc (c : Ctx) (d : BitVec 5) (v : Word) : (c.setX d v).alc = c.alc := by
  unfold Ctx.setX; split <;> rfl
@[simp] theorem Ctx.setX_pvl (c : Ctx) (d : BitVec 5) (v : Word) : (c.setX d v).pvl = c.pvl := by
  unfold Ctx.setX; split <;> rfl
@[simp] theorem Ctx.setX_ldst (c : Ctx) (d : BitVec 5) (v : Word) : (c.setX d v).ldst = c.ldst := by
  unfold Ctx.setX; split <;> rfl
@[simp] theorem Ctx.setX_instret (c : Ctx) (d : BitVec 5) (v : Word) : (c.setX d v).instret = c.instret := by
  unfold Ctx.setX; split <;> rfl
@[simp] theorem Ctx.setX_ctxstat (c : Ctx) (d : BitVec 5) (v : Word) : (c.setX d v).ctxstat = c.ctxstat := by
  unfold Ctx.setX; split <;> rfl
@[simp] theorem Ctx.setX_throwtmo (c : Ctx) (d : BitVec 5) (v : Word) : (c.setX d v).throwtmo = c.throwtmo := by
  unfold Ctx.setX; split <;> rfl
@[simp] theorem Ctx.setX_sys (c : Ctx) (d : BitVec 5) (v : Word) : (c.setX d v).sys = c.sys := by
  unfold Ctx.setX; split <;> rfl
@[simp] theorem Ctx.setX_seqOn (c : Ctx) (d : BitVec 5) (v : Word) : (c.setX d v).seqOn = c.seqOn := by
  unfold Ctx.setX; split <;> rfl
@[simp] theorem Ctx.setX_levels (c : Ctx) (d : BitVec 5) (v : Word) : (c.setX d v).levels = c.levels := by
  unfold Ctx.setX; split <;> rfl
@[simp] theorem Ctx.setX_events (c : Ctx) (d : BitVec 5) (v : Word) : (c.setX d v).events = c.events := by
  unfold Ctx.setX; split <;> rfl
@[simp] theorem Ctx.setX_faultCause (c : Ctx) (d : BitVec 5) (v : Word) : (c.setX d v).faultCause = c.faultCause := by
  unfold Ctx.setX; split <;> rfl
@[simp] theorem Ctx.setX_faultInfo (c : Ctx) (d : BitVec 5) (v : Word) : (c.setX d v).faultInfo = c.faultInfo := by
  unfold Ctx.setX; split <;> rfl
@[simp] theorem Ctx.setX_timer (c : Ctx) (d : BitVec 5) (v : Word) : (c.setX d v).timer = c.timer := by
  unfold Ctx.setX; split <;> rfl
@[simp] theorem Ctx.setX_window (c : Ctx) (d : BitVec 5) (v : Word) : (c.setX d v).window = c.window := by
  unfold Ctx.setX; split <;> rfl
@[simp] theorem Ctx.setX_warned (c : Ctx) (d : BitVec 5) (v : Word) : (c.setX d v).warned = c.warned := by
  unfold Ctx.setX; split <;> rfl
@[simp] theorem Ctx.setX_met (c : Ctx) (d : BitVec 5) (v : Word) : (c.setX d v).met = c.met := by
  unfold Ctx.setX; split <;> rfl
@[simp] theorem Ctx.setX_tickets (c : Ctx) (d : BitVec 5) (v : Word) : (c.setX d v).tickets = c.tickets := by
  unfold Ctx.setX; split <;> rfl
@[simp] theorem Ctx.setX_throwSeq (c : Ctx) (d : BitVec 5) (v : Word) : (c.setX d v).throwSeq = c.throwSeq := by
  unfold Ctx.setX; split <;> rfl
@[simp] theorem Ctx.setX_granted (c : Ctx) (d : BitVec 5) (v : Word) : (c.setX d v).granted = c.granted := by
  unfold Ctx.setX; split <;> rfl
@[simp] theorem Ctx.setX_lock (c : Ctx) (d : BitVec 5) (v : Word) : (c.setX d v).lock = c.lock := by
  unfold Ctx.setX; split <;> rfl
@[simp] theorem Ctx.setX_colls (c : Ctx) (d : BitVec 5) (v : Word) : (c.setX d v).colls = c.colls := by
  unfold Ctx.setX; split <;> rfl
@[simp] theorem Ctx.setX_collCounts (c : Ctx) (d : BitVec 5) (v : Word) : (c.setX d v).collCounts = c.collCounts := by
  unfold Ctx.setX; split <;> rfl
@[simp] theorem Ctx.setX_planes (c : Ctx) (d : BitVec 5) (v : Word) : (c.setX d v).planes = c.planes := by
  unfold Ctx.setX; split <;> rfl
@[simp] theorem Ctx.setX_barrier (c : Ctx) (d : BitVec 5) (v : Word) : (c.setX d v).barrier = c.barrier := by
  unfold Ctx.setX; split <;> rfl
@[simp] theorem Ctx.setX_planeErr (c : Ctx) (d : BitVec 5) (v : Word) : (c.setX d v).planeErr = c.planeErr := by
  unfold Ctx.setX; split <;> rfl
@[simp] theorem Ctx.setX_guest (c : Ctx) (d : BitVec 5) (v : Word) : (c.setX d v).guest = c.guest := by
  unfold Ctx.setX; split <;> rfl
@[simp] theorem Ctx.setX_early (c : Ctx) (d : BitVec 5) (v : Word) : (c.setX d v).early = c.early := by
  unfold Ctx.setX; split <;> rfl
@[simp] theorem Ctx.setX_begun (c : Ctx) (d : BitVec 5) (v : Word) : (c.setX d v).begun = c.begun := by
  unfold Ctx.setX; split <;> rfl
@[simp] theorem Ctx.setX_pushed (c : Ctx) (d : BitVec 5) (v : Word) : (c.setX d v).pushed = c.pushed := by
  unfold Ctx.setX; split <;> rfl
@[simp] theorem Ctx.setX_reserve (c : Ctx) (d : BitVec 5) (v : Word) : (c.setX d v).reserve = c.reserve := by
  unfold Ctx.setX; split <;> rfl
@[simp] theorem Ctx.setX_saved (c : Ctx) (d : BitVec 5) (v : Word) : (c.setX d v).saved = c.saved := by
  unfold Ctx.setX; split <;> rfl
@[simp] theorem Ctx.setX_held (c : Ctx) (d : BitVec 5) (v : Word) : (c.setX d v).held = c.held := by
  unfold Ctx.setX; split <;> rfl
@[simp] theorem Ctx.setX_spilled (c : Ctx) (d : BitVec 5) (v : Word) : (c.setX d v).spilled = c.spilled := by
  unfold Ctx.setX; split <;> rfl

@[simp] theorem Ctx.next_pc (c : Ctx) (n : Nat) (ld : BitVec 8) : (c.next n ld).pc = c.pc + BitVec.ofNat 64 n := rfl
@[simp] theorem Ctx.next_ldst (c : Ctx) (n : Nat) (ld : BitVec 8) : (c.next n ld).ldst = ld := rfl
@[simp] theorem Ctx.next_instret (c : Ctx) (n : Nat) (ld : BitVec 8) : (c.next n ld).instret = c.instret + 1 := rfl
@[simp] theorem Ctx.retire_ldst (c : Ctx) (ld : BitVec 8) : (c.retire ld).ldst = ld := rfl
@[simp] theorem Ctx.retire_instret (c : Ctx) (ld : BitVec 8) : (c.retire ld).instret = c.instret + 1 := rfl

/-- x0 reads 0 (R40). -/
@[simp] theorem Ctx.rx_zero (c : Ctx) : c.rx 0 = 0 := rfl

/-- A register that a write reaches holds what is written (R40). -/
theorem Ctx.setX_rx (c : Ctx) {d : BitVec 5} (h : d ≠ 0) (v : Word) : (c.setX d v).rx d = v := by
  unfold Ctx.setX Ctx.rx
  rw [if_neg h, if_neg h]
  exact get_set_same c.x d.toFin v

/-- A write to x0 is discarded (R40). -/
@[simp] theorem Ctx.setX_zero (c : Ctx) (v : Word) : c.setX 0 v = c := rfl

/-- Every register but the destination is as before. -/
theorem Ctx.setX_rx_other (c : Ctx) {d n : BitVec 5} (h : n ≠ d) (v : Word) : (c.setX d v).rx n = c.rx n := by
  unfold Ctx.setX
  by_cases hd : d = 0
  · rw [if_pos hd]
  · rw [if_neg hd]
    have hf : n.toFin ≠ d.toFin := fun e => h (congrArg BitVec.ofFin e)
    unfold Ctx.rx
    by_cases hn : n = 0
    · rw [if_pos hn, if_pos hn]
    · rw [if_neg hn, if_neg hn]
      exact get_set_other c.x hf v

/-- The x registers see a retirement as nothing. -/
@[simp] theorem Ctx.next_rx (c : Ctx) (k : Nat) (ld : BitVec 8) (n : BitVec 5) : (c.next k ld).rx n = c.rx n := rfl
@[simp] theorem Ctx.next_vr (c : Ctx) (k : Nat) (ld : BitVec 8) (n : Nat) : (c.next k ld).vr n = c.vr n := rfl

end Sys2Proof.Machine
end

