-- ==== Sys2Proof/Laws/Memory.lean ====
section
/-!
SUPPORT. Memory by key: reading after writing, what a write leaves, and that every operation on memory keeps the
canonical form.
-/
namespace Sys2Proof.Machine

/-! ### Slices of a row -/

/-- A bit of a splice. -/
theorem splice_getLsbD (w : BitVec n) (lo len v i : Nat) :
    (splice w lo len v).getLsbD i =
      if i < n then (if lo ≤ i ∧ i < lo + len then v.testBit (i - lo) else w.getLsbD i) else false := by
  unfold splice
  by_cases hn : i < n
  · rw [BitVec.getLsbD_or, BitVec.getLsbD_and, BitVec.getLsbD_not, BitVec.getLsbD_ofNat, BitVec.getLsbD_ofNat,
      Nat.testBit_mul_two_pow, Nat.testBit_mul_two_pow, Nat.testBit_two_pow_sub_one, Nat.testBit_mod_two_pow]
    have e : (i - lo < len ∧ lo ≤ i) ↔ (lo ≤ i ∧ i < lo + len) := by omega
    by_cases h : lo ≤ i ∧ i < lo + len
    · have h' := e.mpr h
      simp [hn, h, h'.1]
    · by_cases h1 : lo ≤ i
      · have h2 : ¬ i - lo < len := by omega
        simp [hn, h, h2]
      · simp [hn, h1]
  · simp only [hn, if_false]
    exact BitVec.getLsbD_of_ge _ _ (Nat.le_of_not_lt hn)

/-- A bit of a slice. -/
theorem slice_testBit (w : BitVec n) (lo len i : Nat) :
    (slice w lo len).testBit i = (decide (i < len) && w.getLsbD (lo + i)) := by
  simp [slice, Nat.testBit_mod_two_pow, Nat.testBit_div_two_pow, BitVec.getLsbD, Nat.add_comm]

/-- The spliced bits read back. -/
theorem slice_splice_same (w : BitVec n) (lo len v : Nat) (h : lo + len ≤ n) :
    slice (splice w lo len v) lo len = v % 2 ^ len := by
  apply Nat.eq_of_testBit_eq
  intro i
  rw [slice_testBit, splice_getLsbD, Nat.testBit_mod_two_pow]
  by_cases hi : i < len
  · have h1 : lo + i < n := by omega
    simp [hi, h1]
  · simp [hi]

/-- Bits outside the splice are as before. -/
theorem slice_splice_other (w : BitVec n) (lo len v j k : Nat) (h : j + k ≤ lo ∨ lo + len ≤ j) :
    slice (splice w lo len v) j k = slice w j k := by
  apply Nat.eq_of_testBit_eq
  intro i
  rw [slice_testBit, slice_testBit, splice_getLsbD]
  by_cases hi : i < k
  · have h1 : ¬ (lo ≤ j + i ∧ j + i < lo + len) := by omega
    by_cases hn : j + i < n
    · simp [hn, h1]
    · simp [hn, BitVec.getLsbD_of_ge _ _ (Nat.le_of_not_lt hn)]
  · simp [hi]

/-! ### One byte -/

/-- A byte written reads back. -/
@[simp] theorem State.setByte_byte (s : State) (k : Nat) (b : Byte) : (s.setByte k b).byte k = b := by
  unfold State.setByte State.byte
  by_cases h : k < 2 ^ 60
  · rw [if_pos h, if_pos h]; simp
  · rw [if_neg h, if_neg h]
    simp only [cellGet_put_same]
    rw [slice_splice_same _ _ _ _ (by omega)]
    exact BitVec.eq_of_toNat_eq (by simpa using b.isLt)

/-- Every other byte is as before. -/
theorem State.setByte_other (s : State) {k j : Nat} (h : j ≠ k) (b : Byte) : (s.setByte k b).byte j = s.byte j := by
  unfold State.setByte State.byte
  by_cases hk : k < 2 ^ 60
  · rw [if_pos hk]
    by_cases hj : j < 2 ^ 60
    · simp only [if_pos hj]; rw [cellGet_put_other _ h]
    · simp only [if_neg hj]
  · rw [if_neg hk]
    by_cases hj : j < 2 ^ 60
    · simp only [if_pos hj]
    · simp only [if_neg hj]
      by_cases hr : (j - 2 ^ 60) / 1024 = (k - 2 ^ 60) / 1024
      · rw [hr, cellGet_put_same, slice_splice_other]
        omega
      · rw [cellGet_put_other _ hr]

/-- A byte written leaves everything that is not memory. -/
theorem State.setByte_keeps (s : State) (k : Nat) (b : Byte) :
    ∃ m r, s.setByte k b = { s with mem := m, rows := r } := by
  unfold State.setByte
  split
  · exact ⟨_, s.rows, rfl⟩
  · exact ⟨s.mem, _, rfl⟩

/-! ### Several bytes -/

/-- Bytes below a run are not the run's. -/
theorem State.writeN_other (n : Nat) : ∀ (s : State) (k v j : Nat), j < k ∨ k + n ≤ j →
    (s.writeN k v n).byte j = s.byte j := by
  induction n with
  | zero => intros; rfl
  | succ n ih =>
    intro s k v j h
    unfold State.writeN
    rw [ih _ _ _ _ (by omega), State.setByte_other _ (by omega)]

/-- Reading depends on the bytes read only. -/
theorem State.readN_congr (n : Nat) : ∀ (s t : State) (k : Nat), (∀ j, k ≤ j → j < k + n → s.byte j = t.byte j) →
    s.readN k n = t.readN k n := by
  induction n with
  | zero => intros; rfl
  | succ n ih =>
    intro s t k h
    unfold State.readN
    rw [h k (by omega) (by omega), ih s t (k + 1) fun j _ _ => h j (by omega) (by omega)]

/-- A value written reads back, modulo its width. -/
theorem State.readN_writeN (n : Nat) : ∀ (s : State) (k v : Nat), (s.writeN k v n).readN k n = v % 256 ^ n := by
  induction n with
  | zero => intro s k v; simp [State.readN, Nat.mod_one]
  | succ n ih =>
    intro s k v
    unfold State.writeN State.readN
    rw [ih, State.writeN_other _ _ _ _ _ (by omega), State.setByte_byte, Nat.pow_succ', Nat.mod_mul]
    simp

/-- A write leaves everything that is not memory. -/
theorem State.writeN_keeps (n : Nat) : ∀ (s : State) (k v : Nat),
    ∃ m r, s.writeN k v n = { s with mem := m, rows := r } := by
  induction n with
  | zero => intro s _ _; exact ⟨s.mem, s.rows, rfl⟩
  | succ n ih =>
    intro s k v
    obtain ⟨m, r, h⟩ := State.setByte_keeps s k (BitVec.ofNat 8 v)
    obtain ⟨m', r', h'⟩ := ih (s.setByte k (BitVec.ofNat 8 v)) (k + 1) (v / 256)
    exact ⟨m', r', by unfold State.writeN; rw [h', h]⟩

/-! ### The canonical form (State.Inv) -/

/-- The form depends on memory and rows only. -/
theorem State.Inv.congr {s t : State} (h : s.Inv) (hm : t.mem = s.mem) (hr : t.rows = s.rows) : t.Inv := by
  unfold State.Inv; rw [hm, hr]; exact h

/-- One byte keeps it. -/
theorem State.Inv.setByte {s : State} (h : s.Inv) (k : Nat) (b : Byte) : (s.setByte k b).Inv := by
  unfold State.setByte
  split
  · exact ⟨cellsWf_put _ _ h.1, h.2⟩
  · exact ⟨h.1, cellsWf_put _ _ h.2⟩

/-- Several bytes keep it. -/
theorem State.Inv.writeN (n : Nat) : ∀ {s : State} (_ : s.Inv) (k v : Nat), (s.writeN k v n).Inv := by
  induction n with
  | zero => intro s h _ _; exact h
  | succ n ih => intro s h k v; exact ih (h.setByte k _) (k + 1) (v / 256)

/-- A row keeps it. -/
theorem State.Inv.setRow {s : State} (h : s.Inv) (k : Nat) (v : RowData) : (s.setRow k v).Inv :=
  ⟨h.1, cellsWf_put _ _ h.2⟩

/-! ### What an access notes beside its bytes -/

/-- What no access notes: counters, earlier values, tags, host lines, messages, presence and full-empty bits are cleared. -/
def State.rest (s : State) : State :=
  { s with chunks := [], history := [], codeNew := 0, redTags := [], hostLines := [], outbox := [], present := [],
           full := [], restoreFull := [], emptied := [], hdmLines := [] }

/-- Equal rests have equal memory. -/
theorem State.rest_mem {s t : State} (h : s.rest = t.rest) : s.mem = t.mem := by
  have := congrArg State.mem h; exact this
theorem State.rest_rows {s t : State} (h : s.rest = t.rest) : s.rows = t.rows := by
  have := congrArg State.rows h; exact this
theorem State.rest_ctxs {s t : State} (h : s.rest = t.rest) : s.ctxs = t.ctxs := by
  have := congrArg State.ctxs h; exact this
theorem State.rest_cur {s t : State} (h : s.rest = t.rest) : s.cur = t.cur := by
  have := congrArg State.cur h; exact this
theorem State.rest_parts {s t : State} (h : s.rest = t.rest) : s.parts = t.parts := by
  have := congrArg State.parts h; exact this
theorem State.rest_tiles {s t : State} (h : s.rest = t.rest) : s.tiles = t.tiles := by
  have := congrArg State.tiles h; exact this
theorem State.rest_launches {s t : State} (h : s.rest = t.rest) : s.launches = t.launches := by
  have := congrArg State.launches h; exact this
theorem State.rest_sd {s t : State} (h : s.rest = t.rest) : s.sd = t.sd := by
  have := congrArg State.sd h; exact this
theorem State.rest_acc {s t : State} (h : s.rest = t.rest) : s.acc = t.acc := by
  have := congrArg State.acc h; exact this
theorem State.rest_wm {s t : State} (h : s.rest = t.rest) : s.wm = t.wm := by
  have := congrArg State.wm h; exact this
theorem State.rest_mgmt {s t : State} (h : s.rest = t.rest) : s.mgmt = t.mgmt := by
  have := congrArg State.mgmt h; exact this
theorem State.rest_checks {s t : State} (h : s.rest = t.rest) : s.checks = t.checks := by
  have := congrArg State.checks h; exact this

theorem State.rest_pending {s t : State} (h : s.rest = t.rest) : s.pending = t.pending := by
  have := congrArg State.pending h; exact this
theorem State.rest_late {s t : State} (h : s.rest = t.rest) : s.late = t.late := by
  have := congrArg State.late h; exact this

/-- The same bytes. -/
theorem State.rest_byte {s t : State} (h : s.rest = t.rest) (k : Nat) : s.byte k = t.byte k := by
  unfold State.byte; rw [State.rest_mem h, State.rest_rows h]

theorem State.countAccess_rest (s : State) (k : Nat) : (s.countAccess k).rest = s.rest := by
  unfold State.countAccess; split <;> rfl

/-- What the host and the peers are told changes nothing else. -/
theorem State.announce_rest (s : State) (k n : Nat) : (s.announce k n).rest = s.rest := rfl

theorem State.noteBlock_rest (s : State) (k n : Nat) : (s.noteBlock k n).rest = s.rest := by
  unfold State.noteBlock; split <;> rfl

theorem State.touch_rest (s : State) (g : Nat) : (s.touch g).rest = s.rest := by
  unfold State.touch; split <;> rfl

theorem State.clearTags_rest (s : State) (k n : Nat) : (s.clearTags k n).rest = s.rest := by
  unfold State.clearTags; split <;> rfl

theorem State.keepOld_rest (s : State) (k n : Nat) : (s.keepOld k n).rest = s.rest := by
  unfold State.keepOld; split <;> rfl

/-- A read changes nothing but what it notes. -/
theorem State.noteRead_rest (s : State) (ph : Phys) : (s.noteRead ph).rest = s.rest := by
  unfold State.noteRead
  rw [← State.countAccess_rest s ph.key]
  generalize s.countAccess ph.key = u
  have line : State.rest (match hostLine ph.key with
      | some l => if (u.line? l).isSome then u else (u.setLine l (some .shared)).send (.cxl 0 l)
      | none => u) = u.rest := by
    split
    · split <;> rfl
    · rfl
  dsimp only
  split
  · rw [State.touch_rest]; exact line
  · exact line

/-- Writing a byte and clearing what accesses note commute. -/
theorem State.setByte_rest (s : State) (k : Nat) (b : Byte) : (s.setByte k b).rest = s.rest.setByte k b := by
  unfold State.setByte
  split <;> rfl

/-- So do writing bytes and clearing what accesses note. -/
theorem State.writeN_rest (n : Nat) : ∀ (s : State) (k v : Nat), (s.writeN k v n).rest = s.rest.writeN k v n := by
  induction n with
  | zero => intros; rfl
  | succ n ih =>
    intro s k v
    unfold State.writeN
    rw [ih, State.setByte_rest]

/-- Owning a host line changes nothing else. -/
theorem State.ownLine_rest (s : State) (l : Nat) : (s.ownLine l).rest = s.rest := by
  unfold State.ownLine; split <;> rfl

/-- A write changes nothing but its bytes and what it notes. -/
theorem State.put_rest (s : State) (ph : Phys) (n v : Nat) : (s.put ph n v).rest = (s.writeN ph.key v n).rest := by
  unfold State.put
  have base : (((((s.announce ph.key n).countAccess ph.key).keepOld ph.key n).clearTags ph.key n).noteBlock
      ph.key n).rest = s.rest := by
    rw [State.noteBlock_rest, State.clearTags_rest, State.keepOld_rest, State.countAccess_rest, State.announce_rest]
  dsimp only
  generalize ((((s.announce ph.key n).countAccess ph.key).keepOld ph.key n).clearTags ph.key n).noteBlock
    ph.key n = u at base
  have line : State.rest (match hostLine ph.key with
      | some l => u.ownLine l
      | none => u) = s.rest := by
    split
    · rw [State.ownLine_rest]; exact base
    · exact base
  split
  · rw [State.writeN_rest n s, ← line, ← State.writeN_rest]
    exact State.touch_rest _ _
  · rw [State.writeN_rest n _ ph.key v, State.writeN_rest n s]
    exact congrArg (fun u : State => u.writeN ph.key v n) line

/-- A read keeps the canonical form. -/
theorem State.Inv.noteRead {s : State} (h : s.Inv) (ph : Phys) : (s.noteRead ph).Inv :=
  h.congr (State.rest_mem (s.noteRead_rest ph)) (State.rest_rows (s.noteRead_rest ph))

/-- A write keeps the canonical form. -/
theorem State.Inv.put {s : State} (h : s.Inv) (ph : Phys) (n v : Nat) : (s.put ph n v).Inv :=
  (State.Inv.writeN n h ph.key v).congr (State.rest_mem (s.put_rest ph n v)) (State.rest_rows (s.put_rest ph n v))

/-- The bytes written read back. -/
theorem State.put_readN (s : State) (ph : Phys) (n v : Nat) : (s.put ph n v).readN ph.key n = v % 256 ^ n := by
  rw [← State.readN_writeN n s ph.key v]
  exact State.readN_congr n _ _ _ fun j _ _ => State.rest_byte (s.put_rest ph n v) j

/-! ### Stores that others do not see yet -/

/-- No store is to be performed: nothing changes. -/
theorem State.settleStores_none {s : State} (h : s.pending = []) (hit : PendStore → Bool) : s.settleStores hit = s := by
  unfold State.settleStores
  rw [h]
  show { s with pending := [] } = s
  rw [← h]

/-- Setting a context to itself changes nothing. -/
theorem State.upd_same {s : State} {f : Ctx → Ctx} (h : f s.ctx = s.ctx) : s.upd f = s := by
  unfold State.upd State.updAt
  have e : f (s.ctxs.get s.cur) = s.ctxs.get s.cur := h
  rw [e, show s.ctxs.get s.cur = s.ctxs[s.cur.val] from rfl, Vector.set_getElem_self]

/-- Nothing was read ahead: nothing is forgotten. -/
theorem State.dropEarly_none {s : State} (h : s.ctx.early = []) (k n : Nat) : s.dropEarly k n = s :=
  State.upd_same (by rw [h, List.filter_nil, ← h])

/-- In program order an access finds nothing to perform first. -/
theorem State.InOrder.claim {s : State} (h : s.InOrder) (ph : Phys) (n : Nat) : s.claim ph n = s := by
  unfold State.claim
  dsimp only
  rw [State.settleStores_none h.1, State.dropEarly_none h.2.2.1]

/-- In program order a load reads memory. -/
theorem State.InOrder.known {s : State} (h : s.InOrder) (ph : Phys) (n : Nat) : s.known ph n = none := by
  unfold State.known
  rw [h.2.2.1, h.1]; rfl

theorem State.InOrder.loadValue {s : State} (h : s.InOrder) (ph : Phys) (n : Nat) :
    s.loadValue ph n = s.readN ph.key n := by
  unfold State.loadValue
  rw [h.known, h.claim]

theorem State.InOrder.afterLoad {s : State} (h : s.InOrder) (ph : Phys) (n : Nat) : s.afterLoad ph n = s.noteRead ph := by
  unfold State.afterLoad
  rw [h.known, h.claim]

theorem State.InOrder.noteStore {s : State} (h : s.InOrder) (k n : Nat) : s.noteStore k n = s := by
  unfold State.noteStore; rw [h.2.2.2]; rfl

/-- A write to bytes leaves the order as it is. -/
theorem State.InOrder.writeN {s : State} (h : s.InOrder) (k v n : Nat) : (s.writeN k v n).InOrder := by
  obtain ⟨m, r, e⟩ := State.writeN_keeps n s k v
  rw [e]; exact h

theorem State.InOrder.put {s : State} (h : s.InOrder) (ph : Phys) (n v : Nat) : (s.put ph n v).InOrder := by
  have e := State.put_rest s ph n v
  have hx : (s.put ph n v).ctx = (s.writeN ph.key v n).ctx := by
    unfold State.ctx; rw [State.rest_ctxs e, State.rest_cur e]
  have := h.writeN ph.key v n
  exact ⟨by rw [State.rest_pending e]; exact this.1, by rw [State.rest_late e]; exact this.2.1,
    by rw [hx]; exact this.2.2.1, by rw [hx]; exact this.2.2.2⟩

/-- In program order a store to memory of this module is performed at once. -/
theorem State.InOrder.store {s : State} (h : s.InOrder) {ph : Phys} (hp : ph.cls ≠ .peer) (a : Word) (n v : Nat) :
    s.store a ph n v = s.put ph n v := by
  have hd : s.delayable ph = false := by unfold State.delayable; rw [h.2.1]; simp [hp]
  unfold State.store
  dsimp only
  rw [h.noteStore, hd, h.claim]; rfl

/-- Losing stash copies changes no byte. -/
theorem State.dropPresent_bytes (s : State) (k n : Nat) :
    (s.dropPresent k n).mem = s.mem ∧ (s.dropPresent k n).rows = s.rows := by
  have h : ∀ (l : List Nat) (u : State), (l.foldl State.loseCopy u).mem = u.mem ∧ (l.foldl State.loseCopy u).rows = u.rows :=
    fun l => by
      induction l with
      | nil => intro u; exact ⟨rfl, rfl⟩
      | cons g l ih => intro u; exact ih (u.loseCopy g)
  exact h _ s

/-- A write by another agent keeps the canonical form. -/
theorem State.Inv.agentPut {s : State} (h : s.Inv) (ph : Phys) (n v : Nat) : (s.agentPut ph n v).Inv := by
  unfold State.agentPut
  have e := State.dropPresent_bytes (s.put { ph with granule := none } n v) ph.key n
  exact (h.put { ph with granule := none } n v).congr e.1 e.2

/-- So does a combination. -/
theorem State.Inv.reduceAt {s : State} (h : s.Inv) (ph : Phys) (n v : Nat) (tag : RedTag) : (s.reduceAt ph n v tag).Inv :=
  (h.agentPut ph n _).congr rfl rfl

/-- So does a whole host line. -/
theorem State.Inv.putLine {s : State} (h : s.Inv) (line v : Nat) : (s.putLine line v).Inv := by
  unfold State.putLine
  refine State.Inv.writeN 64 (State.Inv.congr h ?_ ?_) _ _
  all_goals split <;> rfl

/-- Performing a store keeps the canonical form. -/
theorem State.Inv.perform {s : State} (h : s.Inv) (e : PendStore) : (s.perform e).Inv := by
  unfold State.perform
  dsimp only
  split
  · exact h.reduceAt _ _ _ _
  · split
    · exact h.putLine _ _
    · exact h.put _ _ _

/-- So does performing several. -/
theorem State.Inv.settleStores {s : State} (h : s.Inv) (hit : PendStore → Bool) : (s.settleStores hit).Inv := by
  unfold State.settleStores
  dsimp only
  have h0 : ∀ (l : List PendStore) (u : State), u.Inv → (l.foldl State.perform u).Inv := fun l => by
    induction l with
    | nil => intro u h; exact h
    | cons e l ih => intro u h; exact ih _ (h.perform e)
  exact h0 _ _ (h.congr rfl rfl)

theorem State.Inv.claim {s : State} (h : s.Inv) (ph : Phys) (n : Nat) : (s.claim ph n).Inv :=
  (h.settleStores _).congr rfl rfl

theorem State.Inv.afterLoad {s : State} (h : s.Inv) (ph : Phys) (n : Nat) : (s.afterLoad ph n).Inv := by
  unfold State.afterLoad
  split
  · exact h.congr rfl rfl
  · exact (h.claim ph n).noteRead ph

theorem State.Inv.releases {s : State} (h : s.Inv) (sc : BitVec 3) : (s.releases sc).Inv := by
  unfold State.releases
  split
  · exact h
  · exact h.settleStores _

theorem State.Inv.acquires {s : State} (h : s.Inv) (sc : BitVec 3) : (s.acquires sc).Inv := by
  unfold State.acquires
  split
  · exact h
  · exact h.congr rfl rfl

theorem State.Inv.noteStore {s : State} (h : s.Inv) (k n : Nat) : (s.noteStore k n).Inv := by
  unfold State.noteStore
  split
  · exact h
  · exact h.congr rfl rfl

theorem State.Inv.store {s : State} (h : s.Inv) (a : Word) (ph : Phys) (n v : Nat) : (s.store a ph n v).Inv := by
  unfold State.store
  have h' := h.noteStore ph.key n
  generalize s.noteStore ph.key n = u at h'
  dsimp only
  split
  · split
    · exact (h'.claim ph n).congr rfl rfl
    · exact h'.congr rfl rfl
  · exact (h'.claim ph n).put ph n v

/-- Every byte outside the write is as before. -/
theorem State.put_other (s : State) (ph : Phys) (n v : Nat) {j : Nat} (h : j < ph.key ∨ ph.key + n ≤ j) :
    (s.put ph n v).byte j = s.byte j := by
  rw [State.rest_byte (s.put_rest ph n v)]
  exact State.writeN_other n s ph.key v j h

end Sys2Proof.Machine
end

