-- ==== Sys2Proof/Laws/Monad.lean ====
section
/-!
SUPPORT. How a meaning evaluates on a state: one equation for each combinator and each named action of Ops.lean.
-/
namespace Sys2Proof.Machine

@[simp] theorem M.pure_run (a : α) (s : State) : (pure a : M α) s = .ok a s := rfl

@[simp] theorem M.bind_run (m : M α) (f : α → M β) (s : State) :
    (m >>= f) s = (match m s with
      | .ok a t => f a t
      | .error e t => .error e t) := by
  change EStateM.bind m f s = _
  unfold EStateM.bind
  cases m s <;> rfl

@[simp] theorem M.map_run (f : α → β) (m : M α) (s : State) :
    (f <$> m) s = (match m s with
      | .ok a t => .ok (f a) t
      | .error e t => .error e t) := by
  change EStateM.map f m s = _
  unfold EStateM.map
  cases m s <;> rfl

@[simp] theorem M.get_run (s : State) : (get : M State) s = .ok s s := rfl
@[simp] theorem M.set_run (t s : State) : (set t : M Unit) s = .ok () t := rfl
@[simp] theorem getC_run (s : State) : getC s = .ok s.ctx s := rfl
@[simp] theorem modC_run (f : Ctx → Ctx) (s : State) : modC f s = .ok () (s.upd f) := rfl
@[simp] theorem modS_run (f : State → State) (s : State) : modS f s = .ok () (f s) := rfl
@[simp] theorem trap_run (c : BitVec 8) (i : Word) (s : State) : (trap c i : M α) s = .error (.trap c i) s := rfl
@[simp] theorem irOf_run (s : State) : irOf s = .ok s.ir s := rfl
@[simp] theorem draw_run (s : State) : draw s = .ok s.draws { s with draws := s.draws + 1 } := rfl
@[simp] theorem illegal_run (s : State) : (illegal : M α) s = .error (.trap 0x01#8 s.ir) s := rfl
@[simp] theorem reserved_run (s : State) : (reserved : M α) s = .error (.trap 0x02#8 s.ir) s := rfl

@[simp] theorem retire_run (n : Nat) (s : State) : retire n s = .ok () (s.done n) := rfl
@[simp] theorem retireX_run (n : Nat) (d : BitVec 5) (v : Word) (s : State) :
    retireX n d v s = .ok () (s.doneX n d v) := rfl

@[simp] theorem demand_true (c : BitVec 8) (i : Word) (s : State) : demand true c i s = .ok () s := rfl
@[simp] theorem demand_false (c : BitVec 8) (i : Word) (s : State) : demand false c i s = .error (.trap c i) s := rfl

/-- A passed demand changes nothing. -/
theorem demand_ok {ok : Bool} (h : ok = true) (c : BitVec 8) (i : Word) (s : State) : demand ok c i s = .ok () s := by
  subst h; rfl

/-- A failed demand traps. -/
theorem demand_no {ok : Bool} (h : ok = false) (c : BitVec 8) (i : Word) (s : State) :
    demand ok c i s = .error (.trap c i) s := by
  subst h; rfl

/-- A meaning that ends well answers the state it ends in. -/
theorem settle_ok {m : M Unit} {s t : State} (h : m s = .ok () t) : settle m s = .next t := by
  simp [settle, h]

/-- A meaning that traps answers the state in which the trap is taken. -/
theorem settle_trap {m : M Unit} {s t : State} {c : BitVec 8} {i : Word} (h : m s = .error (.trap c i) t) :
    settle m s = .next (t.raise c i) := by
  simp [settle, h]

/-- Every meaning that `settle` ends answers a next state. -/
theorem settle_next (m : M Unit) (s : State) : ∃ t, settle m s = .next t := by
  unfold settle
  split <;> exact ⟨_, rfl⟩

end Sys2Proof.Machine
end

