-- ==== Sys2Proof/Laws/Window.lean ====
section
/-!
SUPPORT. What an access to the open part of the stash window does: it passes every check, waits for nothing and changes
no state but the bytes it writes and their granule (R79, R85 to R88, R259, R270, R274).
-/
namespace Sys2Proof.Machine

/-- No map, stage queue, region, reservation, binding or second tile takes part of the stash window from the moving
context. -/
def State.WindowFree (s : State) : Prop :=
  s.kind ≠ .guest ∧ ((s.tileOf s.cur).map (·.desc.second)).getD false = false ∧ s.coreMaps = [] ∧ s.coreQueues = [] ∧
    (∀ n : Fin 8, s.sd.get n = none) ∧ (∀ n : Fin 16, s.wm.get n = none) ∧ ∀ c ∈ s.ctxs.toList, c.reserve = none

/-- OpenStash is WindowFree on a stitch, in program order. -/
theorem State.OpenStash.free {s : State} (h : s.OpenStash) : s.WindowFree :=
  ⟨by rw [h.1]; simp, h.2.1, h.2.2.1, h.2.2.2.1, h.2.2.2.2.1, h.2.2.2.2.2.1, h.2.2.2.2.2.2.1⟩

theorem State.OpenStash.inOrder {s : State} (h : s.OpenStash) : s.InOrder := h.2.2.2.2.2.2.2

/-- It depends on the contexts, the moving one's number, the tiles, the regions and the bindings only. -/
theorem State.WindowFree.congr {s t : State} (h : s.WindowFree) (hx : t.ctxs = s.ctxs) (hc : t.cur = s.cur)
    (ht : t.tiles = s.tiles) (hs : t.sd = s.sd) (hw : t.wm = s.wm) : t.WindowFree := by
  unfold State.WindowFree State.kind State.tileOf State.slotOf State.tileAt State.coreMaps State.coreQueues at *
  rw [hc, ht, hs, hw, hx]; exact h

theorem State.WindowFree.put {s : State} (h : s.WindowFree) (ph : Phys) (n v : Nat) : (s.put ph n v).WindowFree := by
  have e := State.put_rest s ph n v
  obtain ⟨m, r, w⟩ := State.writeN_keeps n s ph.key v
  have f : (s.writeN ph.key v n).cur = s.cur ∧ (s.writeN ph.key v n).tiles = s.tiles ∧
      (s.writeN ph.key v n).sd = s.sd ∧ (s.writeN ph.key v n).wm = s.wm ∧ (s.writeN ph.key v n).ctxs = s.ctxs := by
    rw [w]; exact ⟨rfl, rfl, rfl, rfl, rfl⟩
  exact h.congr (by rw [State.rest_ctxs e, f.2.2.2.2]) (by rw [State.rest_cur e, f.1]) (by rw [State.rest_tiles e, f.2.1]) (by rw [State.rest_sd e, f.2.2.1])
    (by rw [State.rest_wm e, f.2.2.2.1])

theorem State.WindowFree.writeN {s : State} (h : s.WindowFree) (k v n : Nat) : (s.writeN k v n).WindowFree := by
  obtain ⟨m, r, w⟩ := State.writeN_keeps n s k v
  rw [w]; exact h.congr rfl rfl rfl rfl rfl

/-- No region or reservation holds a macro. -/
theorem State.WindowFree.macroHeld {s : State} (h : s.WindowFree) (m : Nat) : s.macroHeld m = false := by
  unfold State.macroHeld
  rw [Bool.or_eq_false_iff]
  refine ⟨?_, List.any_eq_false.mpr fun c hc => by rw [h.2.2.2.2.2.2 c hc]; simp⟩
  rw [List.any_eq_false]
  intro x hx
  rw [Vector.mem_toList_iff] at hx
  obtain ⟨i, hi, e⟩ := Vector.mem_iff_getElem.mp hx
  have := h.2.2.2.2.1 ⟨i, hi⟩
  rw [← e, show s.sd[i] = s.sd.get ⟨i, hi⟩ from rfl, this]; simp

/-- No map takes an offset. -/
theorem State.WindowFree.mapOf {s : State} (h : s.WindowFree) (o : Nat) : s.mapOf o = none := by
  unfold State.mapOf
  rw [h.2.2.1]
  split <;> rfl

/-- An aligned access of the window passes every check. -/
theorem State.WindowFree.check {s : State} (h : s.WindowFree) {a : Word} {n : Nat} (hw : InWindow a n) (acc : Access)
    (hf : acc ≠ .fetch) : checkAccess acc a n s = .ok (windowPlace a) s := by
  obtain ⟨h0, h1, h2⟩ := hw
  have hb : windowBase = 0x7FFFFFFFC00000 := rfl
  have hq : ∀ g, s.queueOf g = none := fun g => by unfold State.queueOf; rw [h.2.2.2.1]; rfl
  have e1 : demand (a.toNat % n == 0) (0x03 : BitVec 8) a s = .ok () s := demand_ok (by simpa using h0) _ _ _
  have e2 : demand (decide (a.toNat < 2 ^ 55)) (0x04 : BitVec 8) a s = .ok () s := demand_ok (by simp; omega) _ _ _
  have e3 : windowOf acc a.toNat s = .ok (windowPlace a) s := by
    unfold windowOf
    have c1 : (s.kind = Kind.guest) = False := by simpa using h.1
    have c2 : (acc = .fetch) = False := by simpa using hf
    have c3 : decide (0x3F0000 ≤ a.toNat - windowBase) = false := by simp; omega
    simp only [M.bind_run, M.get_run, c1, c2, h.2.1, c3, h.macroHeld, h.mapOf, if_false, Bool.or_self, decide_false,
      Bool.false_eq_true]
    rfl
  have e4 : queueCheck acc a.toNat (windowPlace a) s = .ok () s := by
    unfold queueCheck
    split
    · rfl
    · simp [windowPlace, hq]
  unfold checkAccess
  simp only [M.bind_run, e1, e2, if_pos h1, e3, e4, M.pure_run]

/-- It waits for nothing. -/
theorem State.WindowFree.stalls {s : State} (h : s.WindowFree) (acc : Access) (a : Word) (n : Nat) :
    stalls acc a n (windowPlace a) s = .ok () s := by
  have hm : s.markStall s.cur a.toNat n = none := by
    unfold State.markStall
    simp [h.2.2.2.2.2.1]
  have hc : ∀ o, s.chanStall s.cur o n = none := fun o => by
    unfold State.chanStall
    simp [h.2.2.2.2.2.1]
  have hp : (windowPlace a).cls ≠ .plane := by simp [windowPlace]
  unfold Machine.stalls
  simp [hp, hm, hc]

/-- Its granule has room. -/
theorem State.WindowFree.room {s : State} (h : s.WindowFree) (a : Word) : queueRoom (windowPlace a) s = .ok () s := by
  have hq : ∀ g, s.queueOf g = none := fun g => by unfold State.queueOf; rw [h.2.2.2.1]; rfl
  unfold queueRoom
  simp [windowPlace, hq]

/-- A read of it changes nothing. -/
theorem State.WindowFree.noteRead {s : State} (h : s.WindowFree) (a : Word) : s.noteRead (windowPlace a) = s := by
  have hk : (windowPlace a).key = 2 ^ 57 + (a.toNat - windowBase) := rfl
  have h1 : s.countAccess (windowPlace a).key = s := by
    unfold State.countAccess; rw [if_neg (by rw [hk]; omega)]
  have h2 : hostLine (windowPlace a).key = none := by
    unfold hostLine
    rw [if_neg]
    rw [hk]; simp; omega
  unfold State.noteRead
  rw [h1, h2]
  simp only [windowPlace, State.touch, h.mapOf, Option.isNone_none, Bool.true_or, if_true]

/-- MemRead in the window gives what the context sees of the bytes. -/
theorem State.WindowFree.memRead {s : State} (h : s.WindowFree) {a : Word} {n : Nat} (hw : InWindow a n) :
    memRead a n s = .ok (s.loadValue (windowPlace a) n) (s.afterLoad (windowPlace a) n) := by
  unfold Machine.memRead
  simp only [M.bind_run, h.check hw .load (by simp), h.stalls, M.get_run, M.set_run, M.pure_run]

/-- In program order it gives the bytes and changes nothing. -/
theorem State.WindowFree.memRead_inOrder {s : State} (h : s.WindowFree) (ho : s.InOrder) {a : Word} {n : Nat}
    (hw : InWindow a n) : Machine.memRead a n s = .ok (s.readN (windowPlace a).key n) s := by
  rw [h.memRead hw, ho.loadValue, ho.afterLoad, h.noteRead]

/-- MemWrite in the window stores the bytes. -/
theorem State.WindowFree.memWrite {s : State} (h : s.WindowFree) {a : Word} {n : Nat} (hw : InWindow a n) (v : Nat) :
    memWrite a n v s = .ok () (s.store a (windowPlace a) n v) := by
  unfold Machine.memWrite
  simp only [M.bind_run, h.check hw .store (by simp), h.stalls, h.room, modS_run]

/-- In program order it writes them at once. -/
theorem State.WindowFree.memWrite_inOrder {s : State} (h : s.WindowFree) (ho : s.InOrder) {a : Word} {n : Nat}
    (hw : InWindow a n) (v : Nat) : Machine.memWrite a n v s = .ok () (s.put (windowPlace a) n v) := by
  rw [h.memWrite hw, ho.store (by simp [windowPlace])]

/-- A read-modify-write in the window, in program order. -/
theorem State.WindowFree.memRmw_inOrder {s : State} (h : s.WindowFree) (ho : s.InOrder) {a : Word} {n : Nat}
    (hw : InWindow a n) (f : Nat → Option Nat) :
    memRmw a n f s = .ok (s.readN (windowPlace a).key n)
      (match f (s.readN (windowPlace a).key n) with
       | none => s
       | some v => s.put (windowPlace a) n v) := by
  unfold Machine.memRmw
  simp only [M.bind_run, h.check hw .atomic (by simp), h.stalls, h.room, M.get_run, ho.claim]
  cases f (s.readN (windowPlace a).key n) <;> simp [h.noteRead, ho.noteStore]

end Sys2Proof.Machine
end

