-- ==== Sys2Proof/Tests/Slice0.lean ====
section
/-!
SUPPORT. Tests: words written from the spec's encodings, ill-formed terms, single steps with results from the spec's
tables and worked examples, and a witness for the hypotheses of each statement.
-/
namespace Sys2Proof.Tests

open Sys2Proof.Machine

set_option Elab.async false

/-! ### Decoding: one word of every encoded instruction, its fields as the spec's encoding table lays them out (R126 to
R133), its operands distinct values -/

/-- Each word decodes to the instruction beside it. -/
noncomputable def reads (nbits : Nat) (l : List (Nat × Instr)) : Bool := l.all fun r => decodeTableWord nbits r.1 == some r.2

theorem test_decode_compact_a : reads 16 [
    (0b10110_10011_00001_0, .cadd 22 19),
    (0b01000_10101_00010_0, .csub 8 21),
    (0b01001_10111_00011_0, .cand 9 23),
    (0b10000_11100_00100_0, .cor 16 28),
    (0b00001_00001_00101_0, .cxor 1 1),
    (0b01011_11010_00110_0, .csll 11 26),
    (0b01001_01101_00111_0, .csrl 9 13),
    (0b00100_11010_01000_0, .csra 4 26),
    (0b01110_10110_01001_0, .cmul 14 22),
    (0b01000_01001_01010_0, .caddi 8 9),
    (0b11101_11001_01011_0, .candi 29 25),
    (0b00011_00111_01100_0, .cslli 3 7),
    (0b01111_10010_01101_0, .csrli 15 18),
    (0b00001_10010_01110_0, .csrai 1 18),
    (0b00011_0000001111_0, .cmv 3),
    (0b11100_01101_10000_0, .clw 28 13),
    (0b00100_10011_10001_0, .cld 4 19),
    (0b10101_10100_10010_0, .cvadd 21 20),
    (0b11001_11100_10011_0, .cvsub 25 28),
    (0b10111_00010_10100_0, .cvmul 23 2)] = true := by decide +kernel

theorem test_decode_compact_b : reads 16 [
    (0b01111_01010_10101_0, .cvmacc 15 10),
    (0b00001_00011_10110_0, .cvmin 1 3),
    (0b11000_01001_10111_0, .cvmax 24 9),
    (0b01000_00010_11000_0, .cvand 8 2),
    (0b01001_00100_11001_0, .cvor 9 4),
    (0b10000_01101_11010_0, .cvxor 16 13),
    (0b00110_01000_11011_0, .cvaddx 6 8),
    (0b10001_01101_11100_0, .cvmulx 17 13),
    (0b00_010_00_001_11101_0, .ckand 2 1),
    (0b00_001_00_001_11110_0, .ckor 1 1),
    (0b00_011_00_010_11111_0, .ckxor 3 2)] = true := by decide +kernel

theorem test_decode_major00_a : reads 32 [
    (0b01100_01000_111101011110_000_00000_01, .csrrw 12 8 3934),
    (0b01101_01100_110011001010_001_00000_01, .csrrs 13 12 3274),
    (0b11011_01101_100110101100_010_00000_01, .csrrc 27 13 2476),
    (0b11010_11100_100010000000_011_00000_01, .csrrwi 26 28 2176),
    (0b00111_11011_011111000000_100_00000_01, .csrrsi 7 27 1984),
    (0b10010_11010_011001111000_101_00000_01, .csrrci 18 26 1656),
    (0b00000_01011_000000000000110_00000_01, .svc 11),
    (0b00000_10100_000000000001110_00000_01, .brk 20),
    (0b0000000000000000000010110_00000_01, .uret),
    (0b0000000000000000000011110_00000_01, .pmark),
    (0b00000_01010_000000000100110_00000_01, .phase 10),
    (0b0000000000000100000000110_00000_01, .sret),
    (0b0000000000000100000001110_00000_01, .wfi),
    (0b00000_10101_000100000010110_00000_01, .tlbinv 21),
    (0b0000000000000100000011110_00000_01, .tlbinva),
    (0b10100_00110_000100000100110_00000_01, .ctxsv 20 6),
    (0b00110_11001_000100000101110_00000_01, .ctxld 6 25),
    (0b11001_01001_000100000110110_00000_01, .lnset 25 9),
    (0b00100_11101_000100000111110_00000_01, .freeze 4 29),
    (0b00000_10110_000100001000110_00000_01, .ipi 22)] = true := by decide +kernel

theorem test_decode_major00_b : reads 32 [
    (0b0000000000001000000000110_00000_01, .mret),
    (0b00000_01000_001000000001110_00000_01, .creset 8),
    (0b11110_01011_001000000010110_00000_01, .mcrec 30 11)] = true := by decide +kernel

theorem test_decode_major01_a : reads 32 [
    (0b10101_01111_10000_0000000000_00001_01, .add 21 15 16),
    (0b10101_10000_00100_0000000001_00001_01, .sub 21 16 4),
    (0b01000_01000_10110_0000000010_00001_01, .and 8 8 22),
    (0b01101_01000_10110_0000000011_00001_01, .or 13 8 22),
    (0b10011_00101_11100_0000000100_00001_01, .xor 19 5 28),
    (0b11000_10011_01001_0000000101_00001_01, .sll 24 19 9),
    (0b10010_01101_00001_0000000110_00001_01, .srl 18 13 1),
    (0b10101_10100_01111_0000000111_00001_01, .sra 21 20 15),
    (0b01010_00101_01111_0000001000_00001_01, .slt 10 5 15),
    (0b11100_11010_10101_0000001001_00001_01, .sltu 28 26 21),
    (0b01111_01101_11101_0000001010_00001_01, .min 15 13 29),
    (0b01100_00011_00001_0000001011_00001_01, .max 12 3 1),
    (0b10001_00011_01101_0000001100_00001_01, .minu 17 3 13),
    (0b10010_01011_11001_0000001101_00001_01, .maxu 18 11 25),
    (0b00011_11101_01110_0000001110_00001_01, .andn 3 29 14),
    (0b11011_01110_11110_0000001111_00001_01, .orn 27 14 30),
    (0b10011_10010_11001_0000010000_00001_01, .mul 19 18 25),
    (0b10001_01000_01100_0000010001_00001_01, .mulh 17 8 12),
    (0b10010_10001_10111_0000010010_00001_01, .mulhu 18 17 23),
    (0b01010_00011_11011_0000010011_00001_01, .mulhsu 10 3 27)] = true := by decide +kernel

theorem test_decode_major01_b : reads 32 [
    (0b01101_00111_11001_0000010100_00001_01, .div 13 7 25),
    (0b01011_10101_00001_0000010101_00001_01, .divu 11 21 1),
    (0b00011_11101_11101_0000010110_00001_01, .rem 3 29 29),
    (0b10010_00010_01100_0000010111_00001_01, .remu 18 2 12),
    (0b01111_10110_000000000011000_00001_01, .clz 15 22),
    (0b01110_10101_000000000011001_00001_01, .ctz 14 21),
    (0b11000_01011_000000000011010_00001_01, .popc 24 11),
    (0b01111_10100_00100_0000011011_00001_01, .rol 15 20 4),
    (0b01011_10001_00101_0000011100_00001_01, .ror 11 17 5)] = true := by decide +kernel

theorem test_decode_major02 : reads 32 [
    (0b11110_10011_010101111111_000_00010_01, .addi 30 19 1407),
    (0b00011_10011_100110011111_001_00010_01, .andi 3 19 2463),
    (0b00110_01011_100101101111_010_00010_01, .ori 6 11 2415),
    (0b01010_10010_011101111001_011_00010_01, .xori 10 18 1913),
    (0b11110_10001_111011001110_100_00010_01, .slti 30 17 3790),
    (0b01001_01011_000000_110000_101_00010_01, .slli 9 11 48),
    (0b01000_10110_000000_100011_110_00010_01, .srli 8 22 35),
    (0b00011_01010_000000_011101_111_00010_01, .srai 3 10 29)] = true := by decide +kernel

theorem test_decode_major03 : reads 32 [
    (0b10010_0101101001000000110_0_00011_01, .lih 18 184838),
    (0b00001_0001011110000011010_1_00011_01, .addpc 1 48154)] = true := by decide +kernel

theorem test_decode_major04 : reads 32 [
    (0b00100_10100_010011011000_000_00100_01, .lb 4 20 1240),
    (0b01001_00100_001001001010_001_00100_01, .lbu 9 4 586),
    (0b11100_00101_110011100000_010_00100_01, .lh 28 5 3296),
    (0b00100_11001_111100101011_011_00100_01, .lhu 4 25 3883),
    (0b00010_11101_111010011011_100_00100_01, .lw 2 29 3739),
    (0b10111_10110_101110110010_101_00100_01, .lwu 23 22 2994),
    (0b01110_00101_110011101010_110_00100_01, .ld 14 5 3306),
    (0b01000_11101_010100110000_111_00100_01, .lq 8 29 1328)] = true := by decide +kernel

theorem test_decode_major05 : reads 32 [
    (0b01000_10101_10101_1010101_000_00101_01, .sb 21 21 1109),
    (0b11101_10001_00010_0110000_001_00101_01, .sh 17 2 3760),
    (0b10100_01101_10000_1011101_010_00101_01, .sw 13 16 2653),
    (0b11011_10001_01010_0110111_011_00101_01, .sd 17 10 3511),
    (0b11100_11001_11101_1011011_100_00101_01, .sq 25 29 3675)] = true := by decide +kernel

theorem test_decode_major06 : reads 32 [
    (0b00100_10111_10101_0100101_000_00110_01, .beq 23 21 549),
    (0b00001_00011_11101_0110001_001_00110_01, .bne 3 29 177),
    (0b11000_11110_00010_1011010_010_00110_01, .blt 30 2 3162),
    (0b11100_01101_10001_0111101_011_00110_01, .bge 13 17 3645),
    (0b10111_01011_10011_0110110_100_00110_01, .bltu 11 19 2998),
    (0b10101_10110_10111_1100000_101_00110_01, .bgeu 22 23 2784)] = true := by decide +kernel

theorem test_decode_major07 : reads 32 [
    (0b00001_11001001110100001000_00111_01, .jal 1 826632)] = true := by decide +kernel

theorem test_decode_major08 : reads 32 [
    (0b00111_11001_111000001000_000_01000_01, .jalr 7 25 3592),
    (0b11101_00000_101000010000_001_01000_01, .vloop 29 2576)] = true := by decide +kernel

theorem test_decode_major09_a : reads 32 [
    (0b11011_10110_10011_110_01_00000_01001_01, .fadd 27 22 19 6 1),
    (0b10111_00100_11101_100_10_00001_01001_01, .fsub 23 4 29 4 2),
    (0b01101_11000_10100_001_10_00010_01001_01, .fmul 13 24 20 1 2),
    (0b11100_10101_00001_110_01_00011_01001_01, .fdiv 28 21 1 6 1),
    (0b01100_00101_00000_110_10_00100_01001_01, .fsqrt 12 5 6 2),
    (0b10100_11000_01111_000_01_00101_01001_01, .fmin 20 24 15 1),
    (0b01011_00101_10010_000_10_00110_01001_01, .fmax 11 5 18 2),
    (0b01011_11001_10110_101_01_00111_01001_01, .fmac 11 25 22 5 1),
    (0b00011_10101_01100_001_01_01000_01001_01, .fnmac 3 21 12 1 1),
    (0b01100_11101_11110_000_01_01001_01001_01, .fsgnj 12 29 30 1),
    (0b10111_10111_11101_000_10_01010_01001_01, .fsgnjn 23 23 29 2),
    (0b10001_00110_10010_000_10_01011_01001_01, .fsgnjx 17 6 18 2),
    (0b10111_10110_11000_000_10_01100_01001_01, .feq 23 22 24 2),
    (0b00101_10010_01101_000_01_01101_01001_01, .flt 5 18 13 1),
    (0b10111_00111_01011_000_10_01110_01001_01, .fle 23 7 11 2),
    (0b01001_00001_00000000_01_01111_01001_01, .fclass 9 1 1),
    (0b11000_10110_00000_011_01_10000_01001_01, .fcvtfs 24 22 3 1),
    (0b00011_11011_00000_011_10_10001_01001_01, .fcvtfu 3 27 3 2),
    (0b11001_10100_00000_011_01_10010_01001_01, .fcvtsf 25 20 3 1),
    (0b00110_11100_00000_011_01_10011_01001_01, .fcvtuf 6 28 3 1)] = true := by decide +kernel

theorem test_decode_major09_b : reads 32 [
    (0b10110_10000_000_01_100_01_10100_01001_01, .fcvtff 22 16 1 4 1)] = true := by decide +kernel

theorem test_decode_major10 : reads 32 [
    (0b00001_01110_0000010_101_0000_1_01010_01, .lda 1 14 5 1),
    (0b00000_11100_00001_01_101_0001_1_01010_01, .stl 28 1 5 1),
    (0b01101_10110_11001_1_1_011_0010_1_01010_01, .swap 13 22 25 1 1 3 1),
    (0b11101_11110_11010_1_1_010_0011_1_01010_01, .cas 29 30 26 1 1 2 1),
    (0b11110_00100_11010_1_1_010_0100_1_01010_01, .aadd 30 4 26 1 1 2 1),
    (0b10000_01001_01101_1_1_101_0101_1_01010_01, .aand 16 9 13 1 1 5 1),
    (0b10100_01011_00010_1_1_101_0110_1_01010_01, .aor 20 11 2 1 1 5 1),
    (0b01100_00100_10001_1_1_010_0111_1_01010_01, .axor 12 4 17 1 1 2 1),
    (0b00110_00001_01010_1_1_101_1000_1_01010_01, .amin 6 1 10 1 1 5 1),
    (0b00001_11000_01001_1_1_100_1001_1_01010_01, .amax 1 24 9 1 1 4 1),
    (0b00101_00110_01010_1_1_101_1010_1_01010_01, .aminu 5 6 10 1 1 5 1),
    (0b01100_01001_00111_1_1_001_1011_1_01010_01, .amaxu 12 9 7 1 1 1 1),
    (0b00001_00000_00111_00_100_11000_01010_01, .fence 1 7 4),
    (0b0000000_00000011_0000011010_01010_01, .sbar 3)] = true := by decide +kernel

theorem test_decode_major11 : reads 32 [
    (0b00111_10000_00111010100_0000_01011_01, .vsetl 7 16 468),
    (0b10000_01000_1101_00000_01_0001_01011_01, .vretag 16 8 13 1)] = true := by decide +kernel

theorem test_decode_major12_a : reads 32 [
    (0b10111_10100_01011_100_0000000_01100_01, .vaddVv 23 20 11 4),
    (0b10111_10111_00001_100_0000001_01100_01, .vsubVv 23 23 1 4),
    (0b01010_00010_11110_101_0000011_01100_01, .vmulVv 10 2 30 5),
    (0b10100_11010_10010_110_0000100_01100_01, .vmulhVv 20 26 18 6),
    (0b01001_01010_01001_010_0000101_01100_01, .vdivVv 9 10 9 2),
    (0b01001_00100_00011_011_0000110_01100_01, .vremVv 9 4 3 3),
    (0b10100_01101_00111_011_0000111_01100_01, .vminVv 20 13 7 3),
    (0b01011_00110_11100_010_0001000_01100_01, .vmaxVv 11 6 28 2),
    (0b01100_01101_00010_101_0001001_01100_01, .vandVv 12 13 2 5),
    (0b11000_11110_10010_100_0001010_01100_01, .vorVv 24 30 18 4),
    (0b10001_11100_11101_100_0001011_01100_01, .vxorVv 17 28 29 4),
    (0b11011_11101_00110_011_0001100_01100_01, .vsllVv 27 29 6 3),
    (0b11001_10011_10010_110_0001101_01100_01, .vsrlVv 25 19 18 6),
    (0b10000_10011_00101_010_0001110_01100_01, .vsraVv 16 19 5 2),
    (0b00101_10001_00011_100_0001111_01100_01, .vsaddVv 5 17 3 4),
    (0b11001_00100_01111_101_0010000_01100_01, .vssubVv 25 4 15 5),
    (0b11101_11000_11001_001_0010001_01100_01, .vavgVv 29 24 25 1),
    (0b11011_01111_10101_011_0010010_01100_01, .vsmulVv 27 15 21 3),
    (0b10101_00100_00100_011_0010011_01100_01, .vsgnjVv 21 4 4 3),
    (0b01010_11001_00111_011_0010100_01100_01, .vsgnjnVv 10 25 7 3)] = true := by decide +kernel

theorem test_decode_major12_b : reads 32 [
    (0b11001_01101_11100_001_0010101_01100_01, .vsgnjxVv 25 13 28 1),
    (0b00100_00010_00100_011_0010110_01100_01, .vmergeVv 4 2 4 3),
    (0b11000_00000_10100_011_0010111_01100_01, .vmvVv 24 20 3),
    (0b10010_01111_01001_010_0011001_01100_01, .vbsclVv 18 15 9 2),
    (0b01011_10001_10101_0001000000_01100_01, .vaddPVv 11 17 21),
    (0b00011_10000_01101_0001000001_01100_01, .vsubPVv 3 16 13),
    (0b01110_01011_10011_0001000011_01100_01, .vmulPVv 14 11 19),
    (0b01110_11010_11011_0001000111_01100_01, .vminPVv 14 26 27),
    (0b00110_11011_00001_0001001000_01100_01, .vmaxPVv 6 27 1),
    (0b01100_11010_10101_0001001001_01100_01, .vandPVv 12 26 21),
    (0b00010_00111_10011_0001001010_01100_01, .vorPVv 2 7 19),
    (0b11001_01010_01110_0001001011_01100_01, .vxorPVv 25 10 14),
    (0b00111_11011_11101_0001001111_01100_01, .vsaddPVv 7 27 29),
    (0b11001_01001_10100_0001010000_01100_01, .vssubPVv 25 9 20),
    (0b11011_00100_01101_0001010110_01100_01, .vmergePVv 27 4 13)] = true := by decide +kernel

theorem test_decode_major13_a : reads 32 [
    (0b01110_01000_10101_110_0000000_01101_01, .vaddVx 14 8 21 6),
    (0b00010_01010_11000_101_0000001_01101_01, .vsubVx 2 10 24 5),
    (0b01011_10101_01101_001_0000010_01101_01, .vrsubVx 11 21 13 1),
    (0b11000_11101_10010_101_0000011_01101_01, .vmulVx 24 29 18 5),
    (0b01011_00100_01011_010_0000100_01101_01, .vmulhVx 11 4 11 2),
    (0b11010_01011_11000_011_0000101_01101_01, .vdivVx 26 11 24 3),
    (0b00100_10001_10111_100_0000110_01101_01, .vremVx 4 17 23 4),
    (0b01000_10110_01001_011_0000111_01101_01, .vminVx 8 22 9 3),
    (0b01000_11001_01111_010_0001000_01101_01, .vmaxVx 8 25 15 2),
    (0b00010_11100_00111_011_0001001_01101_01, .vandVx 2 28 7 3),
    (0b01111_01000_10001_001_0001010_01101_01, .vorVx 15 8 17 1),
    (0b10100_11110_00010_010_0001011_01101_01, .vxorVx 20 30 2 2),
    (0b10110_10010_11110_110_0001100_01101_01, .vsllVx 22 18 30 6),
    (0b11001_10111_01000_011_0001101_01101_01, .vsrlVx 25 23 8 3),
    (0b10110_00011_00101_011_0001110_01101_01, .vsraVx 22 3 5 3),
    (0b10001_00111_11001_011_0001111_01101_01, .vsaddVx 17 7 25 3),
    (0b01110_11010_01000_100_0010000_01101_01, .vssubVx 14 26 8 4),
    (0b10011_10101_01111_001_0010001_01101_01, .vavgVx 19 21 15 1),
    (0b00011_10110_11000_010_0010010_01101_01, .vsmulVx 3 22 24 2),
    (0b11110_11001_00101_010_0010011_01101_01, .vsgnjVx 30 25 5 2)] = true := by decide +kernel

theorem test_decode_major13_b : reads 32 [
    (0b00100_00001_10101_001_0010100_01101_01, .vsgnjnVx 4 1 21 1),
    (0b10101_11000_01000_001_0010101_01101_01, .vsgnjxVx 21 24 8 1),
    (0b10001_11110_11110_100_0010110_01101_01, .vmergeVx 17 30 30 4),
    (0b11000_00000_01010_010_0010111_01101_01, .vmvVx 24 10 2),
    (0b11100_11010_00100_0001000000_01101_01, .vaddPVx 28 26 4),
    (0b00011_10001_11000_0001000011_01101_01, .vmulPVx 3 17 24)] = true := by decide +kernel

theorem test_decode_major14 : reads 32 [
    (0b10000_01001_11000_010_0000000_01110_01, .vaddVi 16 9 24 2),
    (0b11100_10100_01100_100_0000010_01110_01, .vrsubVi 28 20 12 4),
    (0b11000_00011_01000_101_0001001_01110_01, .vandVi 24 3 8 5),
    (0b01001_11110_10001_011_0001010_01110_01, .vorVi 9 30 17 3),
    (0b11110_01001_01100_110_0001011_01110_01, .vxorVi 30 9 12 6),
    (0b11100_11011_11110_100_0001100_01110_01, .vsllVi 28 27 30 4),
    (0b00111_00011_01010_101_0001101_01110_01, .vsrlVi 7 3 10 5),
    (0b00011_01110_10110_001_0001110_01110_01, .vsraVi 3 14 22 1),
    (0b10100_01110_00100_100_0001111_01110_01, .vsaddVi 20 14 4 4),
    (0b01001_10001_00010_011_0010110_01110_01, .vmergeVi 9 17 2 3),
    (0b01110_00000_00111_010_0010111_01110_01, .vmvVi 14 7 2),
    (0b11000_10010_00011_110_0011000_01110_01, .vsatVi 24 18 3 6),
    (0b10011_01110_01110_0001000010_01110_01, .vrsubPVi 19 14 14),
    (0b01011_00011_00101_0001001011_01110_01, .vxorPVi 11 3 5),
    (0b10001_10011_01111_0001001100_01110_01, .vsllPVi 17 19 15),
    (0b11110_01100_11000_0001001101_01110_01, .vsrlPVi 30 12 24),
    (0b11000_00010_11011_0001001110_01110_01, .vsraPVi 24 2 27),
    (0b11110_00111_10110_0001011000_01110_01, .vsatPVi 30 7 22)] = true := by decide +kernel

theorem test_decode_major15 : reads 32 [
    (0b11101_10111_01110_011_0000000_01111_01, .vmacc 29 23 14 3),
    (0b00110_11001_11100_001_0000001_01111_01, .vnmsac 6 25 28 1),
    (0b10100_00001_11101_010_0000010_01111_01, .vmadd 20 1 29 2),
    (0b10011_01010_11100_011_0000011_01111_01, .vnmsub 19 10 28 3),
    (0b01110_10010_00111_011_0000100_01111_01, .vwmacc 14 18 7 3),
    (0b10010_10011_00111_100_0000101_01111_01, .vwmul 18 19 7 4),
    (0b01011_01010_01011_101_0000110_01111_01, .vwadd 11 10 11 5),
    (0b00100_10010_11110_101_0000111_01111_01, .vwsub 4 18 30 5),
    (0b01011_01001_01011_011_0001000_01111_01, .vqmacc 11 9 11 3)] = true := by decide +kernel

theorem test_decode_major16 : reads 32 [
    (0b01010_00_001_01010_100_0000000_10000_01, .vsqrt 10 1 10 4),
    (0b01101_00_101_00101_011_0000001_10000_01, .vrsqrt 13 5 5 3),
    (0b00010_00_110_01011_010_0000010_10000_01, .vrcp 2 6 11 2),
    (0b10011_00_100_11011_101_0000011_10000_01, .vexp2 19 4 27 5),
    (0b01101_00_011_00010_101_0000100_10000_01, .vlog2 13 3 2 5),
    (0b11100_00_001_01100_101_0000101_10000_01, .vtanh 28 1 12 5),
    (0b01100_00_110_00100_011_0000110_10000_01, .vsigm 12 6 4 3),
    (0b01000_00000_01011_100_0000111_10000_01, .vclass 8 11 4),
    (0b00101_00_101_01001_001_0001000_10000_01, .vcvt 5 5 9 1),
    (0b10111_00_001_01101_110_0001001_10000_01, .vwcvt 23 1 13 6),
    (0b00100_00_001_10010_001_0001010_10000_01, .vncvt 4 1 18 1),
    (0b01001_00000_01001_101_0001011_10000_01, .vsext 9 9 5),
    (0b01100_00000_00010_001_0001100_10000_01, .vzext 12 2 1),
    (0b10011_00000_01100_010_0001101_10000_01, .vnclip 19 12 2),
    (0b11101_00000_00101_0001001011_10000_01, .vsextP 29 5),
    (0b11100_00000_11110_0001001100_10000_01, .vzextP 28 30),
    (0b00011_00000_01010_0001001101_10000_01, .vnclipP 3 10)] = true := by decide +kernel

theorem test_decode_major17 : reads 32 [
    (0b11010_11010_10101_100_0000000_10001_01, .vgather 26 26 21 4),
    (0b10011_11010_10100_001_0000001_10001_01, .vslideup 19 26 20 1),
    (0b10011_11010_10000_010_0000010_10001_01, .vslidedn 19 26 16 2),
    (0b00110_10101_00000_001_0000011_10001_01, .vcompress 6 21 1),
    (0b11110_11000_00000_010_0000100_10001_01, .vrev 30 24 2),
    (0b01110_01000_10100_110_0000101_10001_01, .vbcast 14 8 20 6),
    (0b10100_11010_00111_0000000110_10001_01, .vextr 20 26 7),
    (0b00101_01111_01011_100_0000111_10001_01, .vinsr 5 15 11 4),
    (0b00111_01010_01110_001_0001000_10001_01, .vzip 7 10 14 1),
    (0b10001_10011_11110_010_0001001_10001_01, .vunzip 17 19 30 2)] = true := by decide +kernel

theorem test_decode_major18_a : reads 32 [
    (0b00_001_10100_11000_110_0000000_10010_01, .vcmpeqVv 1 20 24 6),
    (0b00_100_11010_11000_110_0000001_10010_01, .vcmpneVv 4 26 24 6),
    (0b00_110_10000_11010_110_0000010_10010_01, .vcmpltVv 6 16 26 6),
    (0b00_010_00011_11001_110_0000011_10010_01, .vcmpleVv 2 3 25 6),
    (0b00_011_00110_10010_001_0000100_10010_01, .vcmpgtVv 3 6 18 1),
    (0b00_101_10000_00001_101_0000101_10010_01, .vcmpgeVv 5 16 1 5),
    (0b00_010_00010_00010_001_0001000_10010_01, .vcmpeqVx 2 2 2 1),
    (0b00_100_01100_10000_100_0001001_10010_01, .vcmpneVx 4 12 16 4),
    (0b00_100_10111_01000_110_0001010_10010_01, .vcmpltVx 4 23 8 6),
    (0b00_011_10011_00110_101_0001011_10010_01, .vcmpleVx 3 19 6 5),
    (0b00_110_00101_00110_100_0001100_10010_01, .vcmpgtVx 6 5 6 4),
    (0b00_101_01001_00011_100_0001101_10010_01, .vcmpgeVx 5 9 3 4),
    (0b0_1000_11011_11010_0001000000_10010_01, .vcmpeqPVv 8 27 26),
    (0b0_1011_01011_00010_0001000001_10010_01, .vcmpnePVv 11 11 2),
    (0b0_0111_01101_01001_0001000010_10010_01, .vcmpltPVv 7 13 9),
    (0b0_1001_00110_11101_0001000011_10010_01, .vcmplePVv 9 6 29),
    (0b0_1000_11101_10010_0001000100_10010_01, .vcmpgtPVv 8 29 18),
    (0b0_1001_11001_01010_0001000101_10010_01, .vcmpgePVv 9 25 10),
    (0b0_1000_11011_00010_0001001000_10010_01, .vcmpeqPVx 8 27 2),
    (0b0_1100_00100_00011_0001001001_10010_01, .vcmpnePVx 12 4 3)] = true := by decide +kernel

theorem test_decode_major18_b : reads 32 [
    (0b0_0111_00111_00010_0001001010_10010_01, .vcmpltPVx 7 7 2),
    (0b0_0011_00100_11110_0001001011_10010_01, .vcmplePVx 3 4 30),
    (0b0_1101_10001_10101_0001001100_10010_01, .vcmpgtPVx 13 17 21),
    (0b0_0110_10010_10110_0001001101_10010_01, .vcmpgePVx 6 18 22),
    (0b00_110_00_011_00_101_0000010000_10010_01, .kand 6 3 5),
    (0b00_101_00_010_00_001_0000010001_10010_01, .kor 5 2 1),
    (0b00_010_00_100_00_110_0000010010_10010_01, .kxor 2 4 6),
    (0b00_011_00_100_00_101_0000010011_10010_01, .kandn 3 4 5),
    (0b00_110_00_110_000000000010100_10010_01, .knot 6 6),
    (0b11000_00_101_000000000010101_10010_01, .kpopc 24 5),
    (0b00101_00_110_000000000010110_10010_01, .kfirst 5 6),
    (0b10010_01000_11000_110_0100000_10010_01, .vred 18 8 24 6),
    (0b01110_10001_00011_011_0100001_10010_01, .vredmax 14 17 3 3),
    (0b00111_00101_00010_010_0100010_10010_01, .vredmin 7 5 2 2),
    (0b11010_10000_10000_100_0100011_10010_01, .vredand 26 16 16 4),
    (0b00011_11110_01011_001_0100100_10010_01, .vredor 3 30 11 1),
    (0b11101_11010_01101_110_0100101_10010_01, .vredxor 29 26 13 6),
    (0b00110_10001_10010_001_0100110_10010_01, .vredo 6 17 18 1)] = true := by decide +kernel

theorem test_decode_major19 : reads 32 [
    (0b11000_01111_00000_011_000_1_01_0_10011_01, .vld 24 15 3 1 1),
    (0b01001_11001_01110_001_001_1_10_0_10011_01, .vlds 9 25 14 1 1 2),
    (0b11001_00001_01010_011_010_1_10_0_10011_01, .vldx 25 1 10 3 1 2),
    (0b11010_11011_00000_110_011_1_110_10011_01, .vlseg 26 27 6 1 6),
    (0b00100_11001_10001_001_100_1_110_10011_01, .vlsseg 4 25 17 1 1 6)] = true := by decide +kernel

theorem test_decode_major20 : reads 32 [
    (0b11000_01110_00000_001_000_1_000_10100_01, .vst 24 14 1 1),
    (0b01000_10010_11011_101_001_1_000_10100_01, .vsts 8 18 27 5 1),
    (0b01000_01010_11101_101_010_1_000_10100_01, .vstx 8 10 29 5 1),
    (0b10001_11110_00000_011_011_1_100_10100_01, .vsseg 17 30 3 1 4),
    (0b01000_11010_10101_110_100_1_001_10100_01, .vssseg 8 26 21 6 1 1)] = true := by decide +kernel

theorem test_decode_major21 : reads 32 [
    (0b01111_01100_00111_101_101_0000_10101_01, .vamoSwap 15 12 7 5 5),
    (0b01010_10011_11010_010_100_0001_10101_01, .vamoAdd 10 19 26 2 4),
    (0b11000_01000_00100_110_010_0010_10101_01, .vamoAnd 24 8 4 6 2),
    (0b11100_00001_01011_100_001_0011_10101_01, .vamoOr 28 1 11 4 1),
    (0b11100_11100_10100_100_010_0100_10101_01, .vamoXor 28 28 20 4 2),
    (0b01001_10100_10010_110_001_0101_10101_01, .vamoMin 9 20 18 6 1),
    (0b01000_10100_11001_101_110_0110_10101_01, .vamoMax 8 20 25 5 6),
    (0b01001_01101_10001_110_011_0111_10101_01, .vrdwAdd 9 13 17 6 3),
    (0b10110_00001_11011_010_110_1000_10101_01, .vrdwMax 22 1 27 2 6),
    (0b10001_11011_01001_001_100_1001_10101_01, .vrdwMin 17 27 9 1 4),
    (0b01100_11101_01011_100_001_1010_10101_01, .vrdwExpsum 12 29 11 4 1),
    (0b01110_10111_10101_110_001_1011_10101_01, .vwaitEq 14 23 21 6 1),
    (0b11010_11100_11010_010_101_1100_10101_01, .vwaitNe 26 28 26 2 5),
    (0b01110_00101_01101_100_010_1101_10101_01, .vwaitGe 14 5 13 4 2),
    (0b11110_01101_00011_110_010_1110_10101_01, .vwaitLt 30 13 3 6 2),
    (0b00_110_11001_00011_101_0001111_10101_01, .vmatch 6 25 3 5)] = true := by decide +kernel

theorem test_decode_major22 : reads 32 [
    (0b00111_00001_11101_0000000000_10110_01, .pdset 7 1 29),
    (0b01011_11001_000000000000001_10110_01, .pxin 11 25),
    (0b01001_01110_000000000000010_10110_01, .pxout 9 14),
    (0b00000_01110_01000_0000000011_10110_01, .prun 14 8),
    (0b0000000000000000000000100_10110_01, .pfence),
    (0b00000_11011_00000_010_0_1_00101_10110_01, .bkacq 27 2 1),
    (0b00000_10001_00000_100_0000110_10110_01, .bkrel 17 4),
    (0b00111_11011_10000_101_0_10_0111_10110_01, .nred 7 27 16 5 2)] = true := by decide +kernel

theorem test_decode_major23 : reads 32 [
    (0b11101_00001_00_010_0000000000_10111_01, .mmac 29 1 2),
    (0b01111_01011_00_110_0000000001_10111_01, .mmact 15 11 6),
    (0b11110_000000000000000_1_0010_10111_01, .mzero 30 1),
    (0b10010_00111_11011_110_0000011_10111_01, .mdrain 18 7 27 6),
    (0b11110_10101_01010_101_0000100_10111_01, .mdrainx 30 21 10 5),
    (0b11010_00000000000000_1_00101_10111_01, .mrel 26 1)] = true := by decide +kernel

theorem test_decode_major24 : reads 32 [
    (0b01010111_0001100_0000000000_11000_01, .cast 87 12),
    (0b011100111001010010100_0001_11000_01, .sfetch 946836),
    (0b0000000000000000000000010_11000_01, .stop),
    (0b00110010_0000000000_1_000011_11000_01, .waits 50 1),
    (0b10111_0000000000_110_0000100_11000_01, .sstat 23 6),
    (0b00000_11001_000000000000101_11000_01, .voffer 25),
    (0b11110_00010_00000_101_0000110_11000_01, .vlink 30 2 5),
    (0b000000000000000_110_0000111_11000_01, .sresume 6),
    (0b000000000000000_101_0001000_11000_01, .skill 5)] = true := by decide +kernel

theorem test_decode_major25 : reads 32 [
    (0b10000_00100_00101_0000000000_11001_01, .vpush 16 4 5),
    (0b10000_00110_01000_0000000001_11001_01, .vpushm 16 6 8)] = true := by decide +kernel

theorem test_decode_major26 : reads 32 [
    (0b00001_01100_00000_101_0_1_00000_11010_01, .sbind 1 12 5 1),
    (0b000000000000000_010_0000001_11010_01, .sunbind 2)] = true := by decide +kernel

theorem test_decode_major27 : reads 32 [
    (0b01110_00000000000000000000_11011_01, .chkick 14),
    (0b11001_00111_000000000000001_11011_01, .wmpub 25 7),
    (0b10011_00010_00000_110_0_1_00010_11011_01, .wmbind 19 2 6 1),
    (0b00001_10110_00000000_1_000011_11011_01, .wmwait 1 22 1),
    (0b01001_01100_00000_100_0000100_11011_01, .sigp 9 12 4),
    (0b11100_00001_00000_001_1_000101_11011_01, .sigw 28 1 1 1)] = true := by decide +kernel

theorem test_decode_major28 : reads 32 [
    (0b01101_01110_01100_011_0000000_11100_01, .throwCall 13 14 12 3),
    (0b01001_11100_00000000_1_000001_11100_01, .catchReply 9 28 1)] = true := by decide +kernel

theorem test_decode_major29 : reads 32 [
    (0b00000_00111_01101_0000000000_11101_01, .launch 7 13)] = true := by decide +kernel

/-! ### Long words, written field by field (R132, R234, R269, R284, R327), and R327's own example -/

theorem test_decode_long : reads 64 [
    (0b1000000000000000000000000000000000000000000000011_000_00110_00000_11, .lix 6 0x1000000000003),
    (0b000000000000000000000000000000000_1000000000000101_001_00110_00000_11, .lixh 6 0x8005),
    (0b10101_01010_100000000000000001_0_111111111110_10_000000_000_01111_00001_11, .chdecl 21 10 0x20001 4094 2 15),
    (0b10_011_00_100_000_11001_00010_11, .coll 2 3 0 4 25),
    (0b101_010_11111011_000001_000001_0100_0000000000000000000_000_01001_00011_11, .mstat 5 2 251 1 1 4 9),
    (0x0300000020218293, .launchInline 6 64 1 3 5)] = true := by decide +kernel

theorem test_decode_launchInline_fields : reads 64 [
    (0b0000_10001_10000000000000000000000000000001_11_100001_000_10010_00100_11,
      .launchInline 17 0x80000001 3 33 18)] = true := by decide +kernel

/-- The words of the spec's own examples: VBSCL (R174). -/
theorem test_decode_spec_words : reads 32 [(0x40200CB1, .vbsclVv 8 0 16 0)] = true := by decide +kernel

/-- Each word is rejected with the cause. -/
noncomputable def rejects (cause : BitVec 8) (l : List (Nat × Nat)) : Bool :=
  l.all fun (n, w) => match decode (leBytes n w) with
    | .error r => r.cause == cause
    | .ok _ => false

/-- Step 2 of R136: a code that its major does not define raises 0x01. -/
theorem test_reserved_codes : rejects 0x01#8 [
    (4, 0b00000_00000_000000000101_110_00000_01), (4, 0b00000_00000_001000000011_110_00000_01),
    (4, 0b00000_00000_00000_0000000000_11110_01), (8, 0b00000_101_11), (2, 0),
    (8, 0b010_00000_00000_11), (8, 0b001_00000_00001_11)] = true := by decide +kernel

/-- Step 3 of R136: a zero field that is not zero raises 0x02. -/
theorem test_zero_fields : rejects 0x02#8 [
    (4, 0b00001_00000_000000000011_110_00000_01), (4, 0b00001_00001_000000000001_110_00000_01),
    (8, 0b1_00000000000000000000000000000000_0000000000000000_001_00110_00000_11),
    (8, 0b10101_01010_100000000000000001_1_111111111110_10_000000_000_01111_00001_11),
    (8, 0b0001_00000_00000000000000000000000000000000_00_000000_000_00000_00100_11)] = true := by decide +kernel

/-! ### Well-formedness: for each check of steps 3 and 4 of R136 a term that it refuses -/

/-- Each term is ill formed and raises the cause. -/
def illFormed (cause : BitVec 8) (l : List Instr) : Bool :=
  l.all fun i => !i.wellFormed && i.staticFault == some cause

theorem test_illformed_events : [Instr.castDelivery 0, .refresh 0, .moduleReset, .snpinv 0].all
    (fun i => !i.wellFormed) = true := by decide +kernel

theorem test_illformed_odd_pair : illFormed 0x02#8 [.lq 3 1 0, .sq 1 31 0] = true := by decide +kernel

theorem test_illformed_rounding : illFormed 0x01#8 [.fadd 1 2 3 6 0, .fsub 1 2 3 6 0, .fmul 1 2 3 6 1,
    .fdiv 1 2 3 6 2, .fsqrt 1 2 6 0, .fmac 1 2 3 6 0, .fnmac 1 2 3 6 0, .fcvtfs 1 2 6 0, .fcvtfu 1 2 6 0,
    .fcvtsf 1 2 6 0, .fcvtuf 1 2 6 0, .fcvtff 1 2 0 6 1, .vsqrt 1 6 2 0, .vrsqrt 1 6 2 0, .vrcp 1 6 2 0,
    .vexp2 1 6 2 0, .vlog2 1 6 2 0, .vtanh 1 6 2 0, .vsigm 1 6 2 0, .vcvt 1 6 2 0, .vwcvt 1 6 2 0,
    .vncvt 1 6 2 0] = true := by decide +kernel

theorem test_illformed_scope : illFormed 0x01#8 [.lda 1 2 7 0, .stl 1 2 7 0, .swap 1 2 3 0 0 7 0,
    .cas 1 2 3 0 0 7 0, .aadd 1 2 3 0 0 7 0, .aand 1 2 3 0 0 7 0, .aor 1 2 3 0 0 7 0, .axor 1 2 3 0 0 7 0,
    .amin 1 2 3 0 0 7 0, .amax 1 2 3 0 0 7 0, .aminu 1 2 3 0 0 7 0, .amaxu 1 2 3 0 0 7 0, .fence 0 0 7,
    .vamoSwap 1 2 3 0 7, .vamoAdd 1 2 3 0 7, .vamoAnd 1 2 3 0 7, .vamoOr 1 2 3 0 7, .vamoXor 1 2 3 0 7,
    .vamoMin 1 2 3 0 7, .vamoMax 1 2 3 0 7, .vrdwAdd 1 2 3 0 7, .vrdwMax 1 2 3 0 7, .vrdwMin 1 2 3 0 7,
    .vrdwExpsum 1 2 3 0 7, .vwaitEq 1 2 3 0 7, .vwaitNe 1 2 3 0 7, .vwaitGe 1 2 3 0 7, .vwaitLt 1 2 3 0 7,
    .bkacq 1 7 0, .bkrel 1 7, .nred 1 2 3 7 0, .wmbind 1 2 7 0, .coll 2 0 0 7 1] = true := by decide +kernel

theorem test_illformed_plane_register : illFormed 0x02#8 [.vaddPVv 16 0 0, .vaddPVv 0 16 0, .vaddPVv 0 0 16,
    .vaddPVx 16 0 31, .vmulPVx 0 16 31, .vrsubPVi 16 0 31, .vxorPVi 0 31 0, .vsllPVi 16 0 0, .vsrlPVi 16 0 0,
    .vsraPVi 16 0 0, .vsatPVi 16 0 0, .vmergePVv 0 0 16, .vsextP 16 0, .vzextP 0 16, .vnclipP 16 16,
    .vcmpeqPVv 15 16 0, .vcmpltPVv 15 0 16, .vcmpgePVx 0 16 0, .pdset 16 0 0, .pxin 16 0, .pxout 16 0]
    = true := by decide +kernel

theorem test_illformed_register_number : illFormed 0x02#8 [.mmac 2 0 0, .mmact 31 0 0, .mzero 2 0, .mdrain 2 0 0 0,
    .mdrainx 2 0 0 0, .mrel 8 0, .mrel 2 1, .sbind 15 0 0 0, .chkick 16, .wmpub 16 0, .wmbind 16 0 0 1,
    .wmwait 16 0 0, .chdecl 1 2 0 0 0 16, .freeze 2 0] = true := by decide +kernel

theorem test_illformed_value : illFormed 0x02#8 [.sbar 0, .waits 0 0, .cast 0 1, .cast 1 0, .cast 1 65,
    .fcvtff 1 2 1 0 1, .vld 1 2 0 0 3, .vlds 1 2 3 0 0 3, .vldx 1 2 3 0 0 3, .vlseg 1 2 0 0 0, .vlsseg 1 2 3 0 0 0,
    .vsseg 1 2 0 0 0, .vssseg 1 2 3 0 0 0, .wmbind 1 0 1 1, .wmbind 1 0 0 1, .coll 2 4 0 4 1, .coll 2 1 2 4 1,
    .coll 3 1 0 4 1, .coll 3 3 1 4 1, .coll 2 0 0 3 1, .coll 2 0 0 6 1] = true := by decide +kernel

/-- A vtype with a reserved format, a reserved tail policy or a width that its format does not allow (R41, R57). -/
theorem test_illformed_vtype : illFormed 0x02#8 [.vsetl 1 2 0b1010_0_00_00_00, .vsetl 1 2 0b0000_0_11_00_00,
    .vsetl 1 2 0b0011_0_00_00_00, .vsetl 1 2 0b0100_0_00_00_10, .vsetl 1 2 0b0101_0_00_00_01, .vretag 1 2 0 0,
    .vretag 1 2 3 0, .vretag 1 2 4 0, .vretag 1 2 9 1, .vretag 1 2 10 0] = true := by decide +kernel

/-- MSTAT beyond a limit of R233. -/
theorem test_illformed_region : illFormed 0x02#8 [.mstat 0 0 0 1 1 6 1, .mstat 0 0 252 1 1 0 1, .mstat 0 0 0 3 1 0 1,
    .mstat 0 0 0 2 1 5 1, .mstat 0 0 0 1 0 5 1, .mstat 0 0 0 1 33 5 1, .mstat 0 0 0 2 17 0 1, .mstat 0 0 0 1 17 1 1,
    .mstat 0 0 221 1 32 0 1] = true := by decide +kernel

theorem test_wellformed : [Instr.lq 2 1 0, .fadd 1 2 3 7 3, .lda 1 2 6 1, .sbar 1, .waits 128 1, .cast 255 64,
    .vsetl 1 2 0b1001_1_10_11_00, .vretag 1 2 4 1, .vld 1 2 7 1 2, .vlseg 1 2 0 0 7, .vaddPVv 15 15 15, .mrel 7 0,
    .mrel 1 1, .sbind 16 0 7 1, .wmbind 15 0 0 0, .wmbind 15 1 6 1, .coll 2 3 1 5 1, .mstat 0 0 220 1 32 0 1, .mstat 7 6 0 2 16 0 1,
    .mstat 0 0 251 1 1 5 1].all (fun i => i.wellFormed) = true := by decide +kernel

/-! ### States that the tests and witnesses start from -/

/-- The computation answers at `s`, and `p` holds of what it gives. -/
def gives (m : M α) (s : State) (p : α → State → Bool) : Bool :=
  match m s with
  | .ok a t => p a t
  | .error _ _ => false

/-- The outcome is a next state of which `p` holds. -/
def nextIs (o : Host.Outcome State Fault Refusal) (p : State → Bool) : Bool :=
  match o with
  | .next t => p t
  | _ => false

/-- The stitch of a placed program moves (log 7): 512 MiB are mapped for every access, the program is at 0x1000. -/
def stitch (w : Nat := 0) : State := { State.reset.withFetchWord 64 w with cur := 2 }

/-- The needle of its tile moves, at U. -/
def needle : State := { stitch with cur := 0 }

/-- The needle at a level. -/
def needleAt (p : BitVec 2) : State := needle.upd fun c => { c with priv := p }

/-- A guest moves, thrown by the stitch with ticket 0x18. -/
def guest : State :=
  { stitch with cur := 10 }.upd fun c => { c with
    run := .running, guest := some (GuestInfo.mk false false 2 100 8 0x18 0 0 0 none 0) }

/-- The moving context with X[n] = v. -/
def withX (n : BitVec 5) (v : Word) (s : State) : State := s.upd fun c => c.setX n v

/-- The state with a value in memory at a virtual address of the placed map. -/
def withMem (a n v : Nat) (s : State) : State := s.writeN (generalKey 0 a) v n

/-- The access passes its checks and waits for nothing, its granule has room. -/
def reachable (acc : Access) (a : Word) (n : Nat) (s : State) : Bool :=
  gives (checkAccess acc a n) s fun ph u => gives (stalls acc a n ph) u fun _ v =>
    v == u && gives (queueRoom ph) u fun _ w => w == u

/-- The last bytes of the mapped space, and the first of the stash window. -/
def edges (n : Nat) : List Word := [BitVec.ofNat 64 (0x20000000 - n), 0x7FFFFFFFC00000]

/-! ### Witnesses: states and operands that meet the hypotheses of each statement -/

theorem witness_StepKeepsMemoryCanonical :
    cellsWf 0 stitch.mem = true ∧ cellsWf 0 stitch.rows = true ∧
    nextIs (step (stitch 0b00011_00001_00010_0000000000_00001_01)) (fun t => t.ctxs.get 2 != stitch.ctxs.get 2) = true := by
  decide +kernel

/-- ADDI x3, x1, -1 stands at the pc. -/
theorem witness_ScheduledThreadRunsDecodedInstruction :
    let s := stitch 0b00011_00001_111111111111_000_00010_01
    let p := { s with sched := [] }.prepared
    s.sched = [.thread 2] ∧ p.movable 2 = true ∧ p.active = true ∧ threadEvent 2 p = none ∧
    castOver (p.ctxs.get 2) = false ∧ (p.ctxs.get 2).guest = none ∧
    gives fetchBits { p with cur := 2 } (fun w _ => decodeTableWord 32 w == some (.addi 3 1 0xFFF) &&
      (Instr.addi 3 1 0xFFF).staticFault.isNone) = true := by decide +kernel

/-- A guest with budget left executes, too. -/
theorem witness_ScheduledThreadRunsDecodedInstruction_guest :
    let p := { guest with sched := [] }.prepared
    p.movable 10 = true ∧ p.active = true ∧ threadEvent 10 p = none ∧ castOver (p.ctxs.get 10) = false ∧
    (p.ctxs.get 10).guest.map (·.budget) = some 100 := by decide +kernel

/-- Fetch of each length, with the leaf already in the TLB so that the check changes nothing. -/
theorem witness_FetchReadsTheBytesAtThePc :
    ([(2, 0b10110_10011_00001_0), (4, 0x00000081), (8, 0x1003)].all fun (n, w) =>
      gives fetchBits (stitch w) fun b s => s.codeNew == 0 && s.ctx.castEnd.isNone && b == w &&
        instrLength (s.readN (generalKey 0 0x1000) 2) == n && (List.range (n / 2)).all fun i =>
          gives (checkAccess .fetch (s.ctx.pc + BitVec.ofNat 64 (2 * i)) 2) s fun ph t =>
            t == s && ph.key == generalKey 0 (0x1000 + 2 * i)) = true := by decide +kernel

/-- A reserved major, a zero field, an odd pair. -/
theorem witness_IllFormedInstructionTraps :
    gives fetchBits (stitch 0b11110_01) (fun w _ => rejects 0x01 [(8, w)]) = true ∧
    gives fetchBits (stitch 0b00001_00000_000000000000_110_00000_01) (fun w _ => rejects 0x02 [(8, w)]) = true ∧
    gives fetchBits (stitch 0b00011_00001_000000000000_111_00100_01)
      (fun w _ => ((decodeTableWord 32 w).map fun i => i.staticFault) == some (some 0x02)) = true := by decide +kernel

/-- Both ways of each comparison: equal operands, and -1 beside 1. -/
theorem witness_BranchesGoWhereTheyCompare :
    let c := (withX 1 (-1) (withX 2 1 stitch)).ctx
    c.rx 1 = c.rx 1 ∧ c.rx 1 ≠ c.rx 2 ∧ (c.rx 1).slt (c.rx 2) = true ∧ (c.rx 2).slt (c.rx 1) = false ∧
    (c.rx 2).ult (c.rx 1) = true ∧ (c.rx 1).ult (c.rx 2) = false := by decide +kernel

theorem witness_JumpsLinkAndGo :
    let t (v : Word) : Word := (withX 1 v stitch).ctx.rx 1 + (0xFFF : BitVec 12).signExtend 64
    (t 0x2001).getLsbD 0 = false ∧ (t 0x2002).getLsbD 0 = true := by decide +kernel

/-- A tile with one level of each use: a T level from 0x1000 to 0x1010. -/
def looped : State :=
  needle.setTile 0 (some { plainTile with desc := { plainDesc with
    levels := [Level.mk 0 4 8 0 0, Level.mk 2 3 1 0x1000 0x1010] } })

/-- Targets at the first address of the level, at its end and below it; the exit address of a guest and another. -/
theorem witness_JumpsLeaveLevelsAndEndGuests :
    looped.kind = .needle ∧ looped.ctx.seqOn = true ∧
    (((looped.tileOf looped.cur).bind fun t => t.desc.levels[1]?).map fun l =>
      decide (l.kind = 2 ∧ ¬((0x1000 : Word).toNat < l.start ∨ l.stop ≤ (0x1000 : Word).toNat) ∧
        l.stop ≤ (0x1010 : Word).toNat ∧ (0xFFE : Word).toNat < l.start)) = some true ∧
    stitch.kind ≠ .guest ∧ guest.kind = .guest ∧ (0x7FFFFFFFBFFFF0#64 : Word) ≠ 0x1000 := by decide +kernel

/-- vl = 0; a count equal to vl; a count one above. -/
theorem witness_VloopCountsDown :
    (withX 1 5 stitch).ctx.vl.toNat = 0 ∧
    (let c := (withX 1 16 (stitch.upd fun c => { c with vl := 16 })).ctx
     c.vl.toNat ≠ 0 ∧ (c.rx 1).toNat ≤ c.vl.toNat) ∧
    (let c := (withX 1 17 (stitch.upd fun c => { c with vl := 16 })).ctx
     c.vl.toNat ≠ 0 ∧ c.vl.toNat < (c.rx 1).toNat) := by decide +kernel

theorem witness_ScalarLoadsRead :
    ([1, 2, 4, 8, 16].all fun n => (edges n).all fun a =>
      let s := withX 1 (a + 1) stitch
      reachable .load (s.ctx.rx 1 + (0xFFF : BitVec 12).signExtend 64) n s) = true := by decide +kernel

theorem witness_ScalarStoresWrite :
    ([1, 2, 4, 8, 16].all fun n => (edges n).all fun a =>
      let s := withX 1 (a + 1) stitch
      reachable .store (s.ctx.rx 1 + (0xFFF : BitVec 12).signExtend 64) n s) = true := by decide +kernel

/-- A state in program order and one in which stores stay unseen; a pending store to this module and one to a peer; a
value read ahead that the host has overwritten, and one of peer memory. -/
theorem witness_MemoryReachedIsTheAccess_order :
    let home : Phys := { cls := .general, key := 0x3000, granule := none }
    let far : Phys := { cls := .peer, key := 2 ^ 53 + 0x40, granule := none }
    let late : State := { stitch with late := true, pending :=
      [PendStore.mk 2 0 0x3000 0x3000 none 8 1 none, PendStore.mk 2 0 0x9000 (2 ^ 53) none 8 1 none] }
    let ahead : State := stitch.upd fun c => { c with
      early := [EarlyRead.mk 0x3000 0x3000 4 7 (some (6, 0)) 0, EarlyRead.mk 0x9000 (2 ^ 53) 4 7 none 0] }
    stitch.pending = [] ∧ stitch.late = false ∧ stitch.ctx.early = [] ∧ stitch.ctx.colls = [] ∧ home.cls ≠ .peer ∧
    late.delayable home = true ∧ stitch.delayable far = true ∧ stitch.delayable home = false ∧
    (late.releases 4).pending.length = 1 ∧ (late.releases 5).pending = [] ∧ (late.releases 0).pending.length = 2 ∧
    (ahead.acquires 4).ctx.early.length = 2 ∧ (ahead.acquires 5).ctx.early.length = 1 ∧ (ahead.acquires 6).ctx.early = [] := by
  decide +kernel

/-- The last bytes below the row store, and its first. -/
theorem witness_MemoryReachedIsTheAccess :
    let p : Phys := { cls := .stash, key := 2 ^ 60 - 8, granule := some 3 }
    let q : Phys := { cls := .plane, key := 2 ^ 60, granule := none }
    p.key + 8 ≤ 2 ^ 60 ∧ 2 ^ 60 ≤ q.key ∧ p.granule = some 3 ∧ (p.key - 1 < p.key ∧ p.key + 8 ≤ p.key + 8) := by decide

theorem witness_MisalignedAccessTraps :
    let ea := (withX 1 0x2000 stitch).ctx.rx 1 + (0xFFF : BitVec 12).signExtend 64
    ea.toNat % 2 ≠ 0 ∧ ea.toNat % 4 ≠ 0 ∧ ea.toNat % 8 ≠ 0 ∧ ea.toNat % 16 ≠ 0 := by decide +kernel

/-- A needle with RSR in the field and in frm, a needle and a stitch without. -/
theorem witness_ScalarFloatsComplete :
    needle.kind = .needle ∧ (if (5 : BitVec 3) = 7 then needle.ctx.frm else 5) = 5 ∧
    (let s := needle.upd fun c => { c with frm := 5 }
     (if (7 : BitVec 3) = 7 then s.ctx.frm else 7) = 5) ∧
    ¬(needle.kind = .needle ∧ needle.ctx.frm = 5) ∧ ¬(stitch.kind = .needle ∧ (5 : BitVec 3) = 5) := by decide +kernel

/-- frm (RW) on a stitch, ctxstat (W1C), ident (RO), qbell (WO); an S register at U; a reserved frm; addresses 0x000 and
0x206 just outside the map. -/
theorem witness_CsrAccesses :
    stitch.csrAllowed 2 = true ∧ csrMap 2 = some (.rw, true) ∧ stitch.csrReserved 2 ((withX 1 5 stitch).ctx.rx 1) = false ∧
    stitch.csrReserved 2 (stitch.csrValue 2 ||| 5) = false ∧ stitch.csrReserved 2 (stitch.csrValue 2 &&& ~~~5) = false ∧
    stitch.csrReserved 2 ((withX 1 6 stitch).ctx.rx 1) = true ∧ csrMap 2 ≠ some (.wo, false) ∧
    csrMap 0x01A = some (.w1c, true) ∧ stitch.csrAllowed 0x01A = true ∧ csrMap 0x01B = some (.ro, true) ∧
    (needleAt 1).csrAllowed 0x10C = true ∧ csrMap 0x10C = some (.wo, false) ∧
    needle.csrAllowed 0x100 = false ∧ stitch.csrAllowed 0 = false ∧ (needleAt 2).csrAllowed 0x206 = false ∧
    (needleAt 2).csrAllowed 0x205 = true := by decide +kernel

/-- Words of 4 and 8 bytes at both edges; the old word equal to X[rd] and not. -/
theorem witness_AtomicsReadModifyWrite :
    ([4, 8].all fun n => (edges n).all fun a =>
      let s := withX 1 a (withX 4 7 stitch)
      reachable .atomic (s.ctx.rx 1) n s && reachable .atomic (s.ctx.rx 1) n (s.releases 6) && reachable .load (s.ctx.rx 1) n s &&
        s.readN (generalKey 0 0x3000) n == (s.ctx.rx 0).toNat % 2 ^ (8 * n) &&
        s.readN (generalKey 0 0x3000) n != (s.ctx.rx 4).toNat % 2 ^ (8 * n)) = true ∧ (6 : BitVec 3) ≠ 7 := by
  decide +kernel

/-- A fence of every class, both without and with its conditions; SBAR; STL at system scope. -/
theorem witness_OrderingInstructionsComplete :
    (31 : BitVec 5).getLsbD 2 = true ∧ stitch.ctx.streamsDrained 255 = true ∧ (31 : BitVec 5).getLsbD 3 = true ∧
    stitch.ctx.planes = [] ∧ stitch.ctx.planeErr = [] ∧ (31 : BitVec 5).getLsbD 4 = true ∧ stitch.ctx.colls = [] ∧
    stitch.stripsWritten stitch.cur = true ∧ (0 : BitVec 5).getLsbD 2 = false ∧ stitch.kind = .stitch ∧
    stitch.ctx.streamsDrained 128 = true ∧ (6 : BitVec 3) ≠ 7 ∧
    (let s := withX 1 0x1FFFFFF8 stitch
     reachable .store (s.ctx.rx 1) 8 (s.releases 6)) = true := by decide +kernel

/-- Majors 30 and 31, long major 5, an op of 0, and a decoded word. -/
theorem witness_SampleWordsDecodeAndReservedMajorsDoNot :
    (0b11110_01 % 4 = 1 ∧ 30 ≤ bitsAt 0b11110_01 2 5) ∧ (0b11111_01 % 4 = 1 ∧ 30 ≤ bitsAt 0b11111_01 2 5) ∧
    (0b00101_11 % 4 = 3 ∧ 5 ≤ bitsAt 0b00101_11 2 5) ∧ 0xFFC0 % 64 = 0 := by decide

theorem witness_DecodeOfEncodeIsTheInstruction :
    ([Instr.lq 3 1 0, .cadd 31 31, .launchInline 31 0xFFFFFFFF 3 63 31].all fun i => i.encodable) = true := by decide +kernel

theorem witness_EncodeOfDecodeIsTheBytes :
    (match decode (leBytes 8 0b10110_10011_00001_0) with
     | .ok r => r.2 == 2
     | .error _ => false) = true := by decide +kernel

/-- The needle with its handlers. -/
def vectored (p : BitVec 2) : State :=
  (needleAt p).upd fun c => { c with sys := { c.sys with svec := 0x4000, mvec := 0x5000, uevec := 0x6000 } }

/-- A second, frozen or running tile of one stitch in slot 1; the needle of slot 0 at S with X[1] = id. -/
def besideTile (frozen : Bool) (id : Word) : State :=
  withX 1 id ((needleAt 1).setTile 1 (some { plainTile with base := 1, frozen := frozen }))

theorem witness_TrapsEnterAndSynchronousTrapsGoWhereR300Says :
    (vectored 0).ctx.sys.svec ≠ 0 ∧ (vectored 0).ctx.sys.mvec ≠ 0 ∧ needle.ctx.sys.svec = 0 ∧ needle.ctx.sys.mvec = 0 ∧
    ([0, 1, 2].all fun p => (vectored p).kind == .needle && (vectored p).ctx.priv == p) = true ∧
    stitch.kind = .stitch ∧ guest.kind = .guest := by decide +kernel

/-- The compatibility feature accepted or not, a needle of a tile and a needle without one, a guest. -/
theorem witness_SoftwareTrapsAndPhase :
    stitch.kind ≠ .guest ∧ stitch.mgmt.accepted.getLsbD 0 = false ∧ needle.launchOf needle.cur = some 1 ∧
    (let s := { needle with mgmt := { needle.mgmt with accepted := 1 } }
     s.mgmt.accepted.getLsbD 0 = true ∧ s.kind ≠ .guest) ∧
    State.reset.launchOf State.reset.cur = none ∧ guest.kind = .guest := by decide +kernel

theorem witness_SoftwareTrapAtUSavesItsSuccessor :
    (vectored 0).kind = .needle ∧ (vectored 0).ctx.priv = 0 ∧ (vectored 0).ctx.sys.svec ≠ 0 := by decide +kernel

/-- URET in the U handler, outside it and at S; SRET at S and at M; MRET at M. -/
theorem witness_ReturnsEndHandlers :
    (let s := needle.upd fun c => { c with sys := { c.sys with ustat := 1 } }
     s.kind = .needle ∧ s.ctx.priv = 0 ∧ s.ctx.sys.ustat.getLsbD 0 = true) ∧
    ([(0x1000 : Word), 0x1001].all fun a =>
      let s := needle.upd fun c => { c with sys := { c.sys with ustat := 1, uepc := a, sepc := a, mepc := a } }
      s.ctx.sys.uepc.getLsbD 0 == s.ctx.sys.sepc.getLsbD 0 && s.ctx.sys.mepc.getLsbD 0 == (a == 0x1001)) = true ∧
    needle.ctx.sys.ustat.getLsbD 0 = false ∧ (needleAt 1).ctx.priv ≠ 0 ∧ 1 ≤ (needleAt 1).ctx.priv.toNat ∧
    2 ≤ (needleAt 2).ctx.priv.toNat := by decide +kernel

/-- A needle in its U handler and one at S whose descriptor has a T level: targets inside and outside its range, with the
sequencer on after the return and off. -/
theorem witness_ReturnsEndHandlers_levels :
    let s := looped.upd fun c => { c with seqOn := false, sys := { c.sys with ustat := 1, uepc := 0x1004, sepc := 0x1010 } }
    let t := s.upd fun c => { c with priv := 1, sys := { c.sys with ustat := 1 } }
    s.kind = .needle ∧ s.ctx.priv = 0 ∧ s.ctx.sys.ustat.getLsbD 0 = true ∧ s.ctx.sys.uepc.getLsbD 0 = false ∧
    ((s.tileOf s.cur).bind fun t => t.desc.levels[1]?).map (·.kind) = some 2 ∧
    (s.ctx.seqOn || ((0 : BitVec 2) == 0 && !(s.ctx.sys.ustat &&& ~~~1#64).getLsbD 0)) = true ∧
    t.kind = .needle ∧ 1 ≤ t.ctx.priv.toNat ∧ t.ctx.sys.sepc.getLsbD 0 = false ∧
    (t.ctx.seqOn || (t.ctx.sys.sstat.extractLsb' 4 2 == 0 && !t.ctx.sys.ustat.getLsbD 0)) = false := by decide +kernel

/-- Nothing pending; the timer pending and enabled; a machine check of the same slot. -/
theorem witness_WfiStallsUntilSomethingIsPending :
    let timed := (needleAt 1).upd fun c => { c with sys := { c.sys with stimecmp := 0, sie := 2 } }
    let checked := (needleAt 1).check 0 0x31 0
    (needleAt 1).kind = .needle ∧ 1 ≤ (needleAt 1).ctx.priv.toNat ∧
    Nat.land ((needleAt 1).sipOf 0) (needleAt 1).ctx.sys.sie.toNat = 0 ∧ (needleAt 1).checks = [] ∧
    Nat.land (timed.sipOf timed.cur) timed.ctx.sys.sie.toNat ≠ 0 ∧ (∃ m ∈ checked.checks, m.slot = numOf checked.cur) := by
  decide +kernel

/-- The lowest and the highest privilege that is too low. -/
theorem witness_PrivilegedInstructionsRefused :
    needle.kind = .needle ∧ needle.ctx.priv = 0 ∧ stitch.kind = .stitch ∧ guest.kind = .guest ∧
    (needleAt 1).ctx.priv.toNat < 2 ∧ needle.ctx.priv.toNat < 2 := by decide +kernel

/-- Idents inside the partition: the needle of slot 1 and the stitch of its tile, this core; both ends of the lane cap;
a frozen and a running tile; a readable record of MCREC. -/
theorem witness_SystemInstructionsComplete :
    ([besideTile true 1, besideTile true 9, besideTile false 1].all fun s => s.kind == .needle && 1 ≤ s.ctx.priv.toNat &&
      s.identInside (s.ctx.rx 1).toNat && identKind (s.ctx.rx 1).toNat ≤ 1 &&
      s.slotNamed (s.ctx.rx 1).toNat == some 1 && 1 != numOf s.cur) = true ∧
    identKind 1 = 0 ∧ identNum 1 < 2 ∧ ((besideTile true 1).tileAt 1).map (·.frozen) = some true ∧
    ((besideTile false 1).tileAt 1).map (·.frozen) = some false ∧
    ([1, 8].all fun cap => let s := withX 2 cap (besideTile true 0)
      (s.ctx.rx 1).toNat % 32 == 0 && identCore (s.ctx.rx 1).toNat == s.coreId && 1 ≤ (s.ctx.rx 2).toNat &&
        (s.ctx.rx 2).toNat ≤ 8) = true ∧
    2 ≤ (needleAt 2).ctx.priv.toNat ∧ gives (readWords 0x4000 8) (needleAt 2) (fun _ _ => true) = true := by
  decide +kernel

/-- A tile that pre-emption took off slot 1, frozen by FREEZE, with nothing in its part of the save area. -/
def offTile : SavedTile :=
  { slot := 1, tile := { plainTile with base := 1, frozen := true, kept := true }, ctxs := [],
    shared := { sd := Vector.replicate 8 none, acc := Vector.replicate 2 none, wm := Vector.replicate 16 none, stash := [],
                full := [], present := [], restoreFull := [], outside := [], records := [] } }

/-- A tile of core 1, frozen or not. -/
def farTile (frozen : Bool) : RemoteTile :=
  { core := 1, slot := 0, launch := 1, base := 0, count := 1, part := 0, frozen := frozen, order := 0, asked := false,
    records := [2] }

/-- The needle at S with X[1] = id beside those tiles. -/
def amongTiles (frozen : Bool) (id : Word) : State :=
  withX 1 id { needleAt 1 with savedTiles := [offTile], remote := [farTile frozen] }

/-- A needle that is nowhere, one of another core, another core for the lane cap; a tile off the core, a tile of core 1 that
is frozen and one that is not, a context that is in none; a running tile beside one off the core; the reset of a core. -/
theorem witness_SystemInstructionsComplete_elsewhere :
    ([(0x40 : Word), 0x20, 1, 9, 0x48].all fun id => (amongTiles true id).kind == .needle &&
      1 ≤ (amongTiles true id).ctx.priv.toNat && (amongTiles true id).identInside id.toNat && identKind id.toNat ≤ 1 &&
      ((amongTiles true id).slotNamed id.toNat).isNone) = true ∧
    (amongTiles true 0x40).remoteNamed 0x40 = none ∧ (amongTiles true 0x40).savedNamed 0x40 = none ∧
    (amongTiles true 0x20).remoteNamed 0x20 = some (farTile true) ∧ (amongTiles true 0x20).savedNamed 0x20 = none ∧
    (amongTiles false 0x20).remoteNamed 0x20 = some (farTile false) ∧ (amongTiles false 0x20).savedNamed 0x20 = none ∧
    (amongTiles true 1).savedNamed 1 = some offTile ∧
    (let s := (amongTiles true 1).setTile 1 (some { plainTile with base := 1, launch := 2 })
     s.slotNamed 1 = some 1 ∧ s.savedNamed 1 = some offTile ∧ 1 ≠ numOf s.cur) ∧
    (0x20 : Word).toNat % 32 = 0 ∧ identCore (0x20 : Word).toNat ≠ needle.coreId ∧ identCore 0 = needle.coreId ∧
    (farTile true).records.contains (recordIndex 0x28) = true := by decide +kernel

/-- A store that has retired and a value read ahead, by a context of the partition, through the entry that goes, and a store
of the collective engines there. -/
theorem witness_SystemInstructionsComplete_shootdown :
    let s : State := { (stitch.upd fun c => { c with early := [EarlyRead.mk 0x1000 0x1000 4 0 none 0] }) with
      tlb := [TlbEntry.mk 0 0 1], pending := [PendStore.mk 2 0 0x1000 0x1000 none 8 1 none, PendStore.mk 12 9 0x1000 0x1000 none 8 1 none] }
    (s.tlb.any fun e => e.part == 0 && e.covers 0 0x1000) = true ∧ s.partOf 2 = 0 ∧ s.ctx.early.length = 1 ∧
    (s.shootdown 0 fun _ => true).pending = [] ∧ (s.shootdown 0 fun _ => true).tlb = [] := by decide +kernel

/-- The lines of a block in the window pass their checks. -/
theorem checkLines_window (acc : Access) (hf : acc ≠ .fetch) : ∀ (n : Nat) (a : Word) (s : State), s.WindowFree →
    a.toNat % 64 = 0 → windowBase ≤ a.toNat → a.toNat + 64 * n ≤ windowBase + 0x3F0000 → checkLines acc a n s = .ok () s
  | 0, _, _, _, _, _, _ => rfl
  | n + 1, a, s, h, h0, h1, h2 => by
    have hb : windowBase = 0x7FFFFFFFC00000 := rfl
    have e : (a + 64).toNat = a.toNat + 64 := by
      rw [BitVec.toNat_add, show (64 : Word).toNat = 64 from rfl]
      exact Nat.mod_eq_of_lt (by omega)
    unfold checkLines
    simp only [M.bind_run, h.check ⟨h0, h1, by omega⟩ acc hf]
    exact checkLines_window acc hf n (a + 64) s h (by omega) (by omega) (by omega)

/-- A block in the window can be stored. -/
theorem storeBlock_window : ∀ (n : Nat) (bs : List Byte) (a : Word) (s : State), s.WindowFree → a.toNat % 16 = 0 →
    windowBase ≤ a.toNat → a.toNat + 16 * n ≤ windowBase + 0x3F0000 → s.InOrder → ∃ t, storeBlock a bs n s = .ok () t
  | 0, _, _, s, _, _, _, _, _ => ⟨s, rfl⟩
  | n + 1, bs, a, s, h, h0, h1, h2, ho => by
    have hb : windowBase = 0x7FFFFFFFC00000 := rfl
    have e : (a + 16).toNat = a.toNat + 16 := by
      rw [BitVec.toNat_add, show (16 : Word).toNat = 16 from rfl]
      exact Nat.mod_eq_of_lt (by omega)
    unfold storeBlock
    simp only [M.bind_run, h.memWrite_inOrder ho (n := 16) ⟨h0, h1, by omega⟩]
    exact storeBlock_window n _ (a + 16) _ (h.put _ _ _) (by omega) (by omega) (by omega) (ho.put _ _ _)

theorem leValue_append : ∀ (a b : List Byte), leValue (a ++ b) = leValue a + 256 ^ a.length * leValue b
  | [], b => by simp [leValue]
  | x :: a, b => by
    simp only [List.cons_append, leValue, leValue_append a b, List.length_cons, Nat.pow_succ']
    rw [Nat.mul_add, Nat.mul_assoc]; omega

theorem leValue_leBytes : ∀ (n v : Nat), leValue (leBytes n v) = v % 256 ^ n
  | 0, v => by simp [leValue, leBytes, Nat.mod_one]
  | n + 1, v => by
    simp only [leBytes, leValue, leValue_leBytes n, Nat.pow_succ', Nat.mod_mul]
    simp

theorem readN_add (s : State) : ∀ (n m k : Nat), s.readN k (n + m) = s.readN k n + 256 ^ n * s.readN (k + n) m
  | 0, m, k => by simp [State.readN]
  | n + 1, m, k => by
    rw [show n + 1 + m = (n + m) + 1 by omega]
    simp only [State.readN, readN_add s n m (k + 1), Nat.pow_succ']
    rw [Nat.mul_add, Nat.mul_assoc, show k + 1 + n = k + (n + 1) by omega]; omega

theorem readN_lt (s : State) : ∀ (n k : Nat), s.readN k n < 256 ^ n
  | 0, _ => by simp [State.readN]
  | n + 1, k => by
    have := readN_lt s n (k + 1)
    have := (s.byte k).isLt
    simp only [State.readN, Nat.pow_succ']; omega

theorem leBytes_length : ∀ (n v : Nat), (leBytes n v).length = n
  | 0, _ => rfl
  | n + 1, v => by simp [leBytes, leBytes_length n]

/-- A block in the window reads as the bytes there. -/
theorem loadBlock_window : ∀ (n : Nat) (a : Word) (s : State), s.WindowFree → a.toNat % 16 = 0 → windowBase ≤ a.toNat →
    a.toNat + 16 * n ≤ windowBase + 0x3F0000 → s.InOrder →
    ∃ bs, loadBlock a n s = .ok bs s ∧ leValue bs = s.readN (stashKey (a.toNat - windowBase)) (16 * n)
  | 0, _, s, _, _, _, _, _ => ⟨[], rfl, rfl⟩
  | n + 1, a, s, h, h0, h1, h2, ho => by
    have hb : windowBase = 0x7FFFFFFFC00000 := rfl
    have e : (a + 16).toNat = a.toNat + 16 := by
      rw [BitVec.toNat_add, show (16 : Word).toNat = 16 from rfl]
      exact Nat.mod_eq_of_lt (by omega)
    obtain ⟨bs, hl, hv⟩ := loadBlock_window n (a + 16) s h (by omega) (by omega) (by omega) ho
    refine ⟨leBytes 16 (s.readN (windowPlace a).key 16) ++ bs, ?_, ?_⟩
    · unfold loadBlock
      simp only [M.bind_run, h.memRead_inOrder ho (n := 16) ⟨h0, h1, by omega⟩, hl, M.pure_run]
    · rw [leValue_append, leBytes_length, leValue_leBytes, Nat.mod_eq_of_lt (readN_lt s 16 _), hv,
        show 16 * (n + 1) = 16 + 16 * n by omega, readN_add, e]
      simp only [windowPlace, stashKey]
      rw [show 2 ^ 57 + (a.toNat - windowBase) + 16 = 2 ^ 57 + (a.toNat + 16 - windowBase) by omega]

theorem writeN_ctx (s : State) (k v n : Nat) : (s.writeN k v n).ctx = s.ctx := by
  obtain ⟨m, r, e⟩ := State.writeN_keeps n s k v
  rw [e]; rfl

/-- Blocks of lines and of 16-byte units at the start of the window are stored and loaded. -/
theorem blocks_window (s : State) (h : s.WindowFree) (ho : s.InOrder) (a : Word) (ha : a.toNat = windowBase) (bs : List Byte) (l n : Nat)
    (hl : 64 * l ≤ 0x3F0000) (hn : 16 * n ≤ 0x3F0000) :
    checkLines .store a l s = .ok () s ∧ (∃ w, storeBlock a bs n s = .ok () w) ∧ checkLines .load a l s = .ok () s ∧
    ∃ b, loadBlock a n s = .ok b s ∧ leValue b = s.readN (stashKey 0) (16 * n) := by
  have hb : windowBase = 0x7FFFFFFFC00000 := rfl
  refine ⟨checkLines_window _ (by simp) _ _ _ h (by omega) (by omega) (by omega),
    storeBlock_window _ _ _ _ h (by omega) (by omega) (by omega) ho,
    checkLines_window _ (by simp) _ _ _ h (by omega) (by omega) (by omega), ?_⟩
  obtain ⟨b, hb', hv⟩ := loadBlock_window n a s h (by omega) (by omega) (by omega) ho
  exact ⟨b, hb', by rw [hv, ha, Nat.sub_self]⟩

/-- CTXSV of the needle of slot 1 to the stash window, and CTXLD from there of a record that holds its version, kind and
ident. -/
theorem witness_SystemInstructionsComplete_records : ∃ s : State, s = (withX 2 0x7FFFFFFFC00000 (besideTile true 1)).writeN
      (stashKey 0) 0x100000001 (16 * 2400) ∧
    checkLines .store (s.ctx.rx 2) 600 s = .ok () s ∧
    (∃ w, storeBlock (s.ctx.rx 2) (s.readBytes (s.recordKey s.corePart (identCore 1) (recordIndex 1)) 0x9600) 2400 s =
      .ok () w) ∧
    checkLines .load (s.ctx.rx 2) 600 s = .ok () s ∧
    ∃ bytes, loadBlock (s.ctx.rx 2) 2400 s = .ok bytes s ∧ recordOk (leValue bytes) (identKind 1 == 0) 1 = true := by
  have hf : (withX 2 0x7FFFFFFFC00000 (besideTile true 1)).WindowFree := by
    refine ⟨by decide +kernel, by decide +kernel, by decide +kernel, by decide +kernel, by decide +kernel, by decide +kernel, by decide +kernel⟩
  have ho : (withX 2 0x7FFFFFFFC00000 (besideTile true 1)).InOrder := by
    refine ⟨by decide +kernel, by decide +kernel, by decide +kernel, by decide +kernel⟩
  have hx : (withX 2 0x7FFFFFFFC00000 (besideTile true 1)).ctx.rx 2 = 0x7FFFFFFFC00000 := by decide +kernel
  refine ⟨_, rfl, ?_⟩
  rw [writeN_ctx, hx]
  obtain ⟨h1, h2, h3, b, h4, h5⟩ := blocks_window _ (hf.writeN (stashKey 0) 0x100000001 (16 * 2400))
    (ho.writeN (stashKey 0) 0x100000001 (16 * 2400)) 0x7FFFFFFFC00000
    (by decide) (State.readBytes _ _ 0x9600) 600 2400 (by decide) (by decide)
  refine ⟨h1, h2, h3, b, h4, ?_⟩
  rw [h5, State.readN_writeN]
  decide +kernel

/-- SEW 32, LMUL 1 on a guest, another setting on a guest, X[rs1] at VLMAX and above it. -/
theorem witness_VsetlSetsVlAndVtype :
    guest.kind = .guest ∧ (sewOf 2 = 32 ∧ lmulOf 2 = 1) ∧ ¬(sewOf 3 = 32 ∧ lmulOf 3 = 1) ∧
    ([64, 65].all fun n => (stitch.stripStall (min n 64)).isNone) = true := by decide +kernel

/-! Vector instructions: the hypotheses as tests -/

/-- VecReady as a test. -/
def vecReady (s : State) (regs : List Nat) : Bool :=
  s.kind != .needle && (s.kind != .stitch || s.lanes s.cur != 0) && !s.mgmt.clamp && s.stopAt.isNone &&
    regs.all fun r => (s.ctx.slotOf r).isNone

theorem vecReady_iff (s : State) (regs : List Nat) : vecReady s regs = true ↔ s.VecReady regs := by
  simp [vecReady, State.VecReady, and_assoc, Decidable.imp_iff_not_or]

/-- IndexesTagged as a test. -/
def indexesTagged (l : Ctx) (gs : List Grp) : Bool :=
  gs.all fun g => g.regs.all fun r => isInteger (l.srcTag g r).1 && (l.srcTag g r).2 == g.eew

theorem indexesTagged_iff (l : Ctx) (gs : List Grp) : indexesTagged l gs = true ↔ IndexesTagged l gs := by
  simp [indexesTagged, IndexesTagged]

/-- InWindow as a test. -/
def inWindow (a : Word) (n : Nat) : Bool :=
  a.toNat % n == 0 && decide (windowBase ≤ a.toNat) && decide (a.toNat < windowBase + 0x3F0000)

theorem inWindow_iff (a : Word) (n : Nat) : inWindow a n = true ↔ InWindow a n := by
  simp [inWindow, InWindow, and_assoc]

/-- OpenStash as a test. -/
def openStash (s : State) : Bool :=
  s.kind == .stitch && !((s.tileOf s.cur).map (·.desc.second)).getD false && s.coreMaps.isEmpty && s.coreQueues.isEmpty &&
    (List.range 8).all (fun n => (s.sd.get (Fin.ofNat 8 n)).isNone) &&
    (List.range 16).all (fun n => (s.wm.get (Fin.ofNat 16 n)).isNone) && s.ctxs.toList.all (·.reserve.isNone) &&
    s.pending.isEmpty && !s.late && s.ctx.early.isEmpty && s.ctx.colls.isEmpty

/-- A stitch with vtype `t` and `vl`, every register holding `data` under a tag. -/
def vec (t : BitVec 11) (vl : BitVec 13) (fmt : BitVec 4) (w : BitVec 2) (data : VData := 0) : State :=
  stitch.upd fun c => { c with
    vtype := t, vl := vl, v := Vector.replicate 32 { VReg.reset with fmt := fmt, width := w, data := data, hwm := 512 } }

/-- The same on a guest with SEW 32 and LMUL 1. -/
def vecGuest (fmt : BitVec 4) : State :=
  guest.upd fun c => { c with
    vtype := 2, vl := 64, v := Vector.replicate 32 { VReg.reset with fmt := fmt, width := 2, hwm := 512 } }

/-- A whole group with a format and the tail kept: what a loop asks of its destination. -/
def keptOk (s : State) (l : Ctx) (gd : Grp) (k : BitVec 3) (skip : Nat) (regs : List Nat) : Bool :=
  l.vl.toNat ≤ gd.length && (decide (l.vl.toNat ≤ l.vstart.toNat) || ((s.landedState regs).keptFault gd k skip).isNone)

/-- A source register with a format; one without. -/
theorem witness_VretagCopiesTheGroup :
    let s := vec 0b0001_0_00_01_10 256 1 2
    let ga : Grp := { reg := 30, emul := s.ctx.lmul, eew := 8 }
    let gd : Grp := { reg := 0, emul := s.ctx.lmul, eew := 8 }
    vecReady s (ga.regs ++ gd.regs) = true ∧ gd.aligned = true ∧ ga.aligned = true ∧
    ga.regs.all (fun r => ((s.landed (ga.regs ++ gd.regs)).vr r).fmt != 0) = true ∧
    (ga.regs.find? fun r => ((stitch.landed [30, 31, 0, 1]).vr r).fmt == 0) = some 30 := by decide +kernel

/-- The hypotheses of VectorArithmeticResults. -/
def arithReady (s : State) (fmt : Nat) (i : Instr) : Bool :=
  match vecForm s.ctx i with
  | none => false
  | some (_, f, d, a, b, k) =>
    let c := s.ctx
    let gd := c.grp d
    let srcs := (if f = .mv then [] else [c.grp a]) ++ b.grps c
    let regs := (gd :: srcs).flatMap Grp.regs
    let l := s.landed regs
    let imm := match b with
      | .imm _ => true
      | _ => false
    vecReady s regs && (gd :: srcs).all Grp.aligned && (!srcs.isEmpty || (fmt == c.vfmt && c.vfmt != 0)) &&
      srcs.all (fun g => (l.badTag (some fmt) g).isNone) && (!imm || immAllowed f fmt) &&
      keptOk s l gd (if f = .merge then 0 else k) 0 regs && (vecValue f fmt c.sew { code := c.frm.toNat, u := 0 }).isSome

/-- Every function, every kind of second operand, on unsigned, signed, packed and floating formats; groups at the top of
the register file; vl 0 and full; vstart at and above vl; a guest; the chained compact forms. -/
theorem witness_VectorArithmeticResults :
    ([Instr.vaddVv 0 8 24 0, .vaddVx 0 8 31 1, .vaddVi 0 8 16 7, .vsubVv 0 0 0 0, .vsubVx 0 8 1 0, .vrsubVx 0 8 1 0,
      .vrsubVi 0 8 1 0, .vmulVv 0 8 16 0, .vmulVx 0 8 1 0, .vmulhVv 0 8 16 0, .vmulhVx 0 8 1 0, .vdivVv 0 8 16 0,
      .vdivVx 0 8 1 0, .vremVv 0 8 16 0, .vremVx 0 8 1 0, .vminVv 0 8 16 0, .vminVx 0 8 1 0, .vmaxVv 0 8 16 0,
      .vmaxVx 0 8 1 0, .vandVv 0 8 16 0, .vandVx 0 8 1 0, .vandVi 0 8 1 0, .vorVv 0 8 16 0, .vorVx 0 8 1 0,
      .vorVi 0 8 1 0, .vxorVv 0 8 16 0, .vxorVx 0 8 1 0, .vxorVi 0 8 1 0, .vsllVv 0 8 16 0, .vsllVx 0 8 1 0,
      .vsllVi 0 8 31 0, .vsrlVv 0 8 16 0, .vsrlVx 0 8 1 0, .vsrlVi 0 8 1 0, .vsraVv 0 8 16 0, .vsraVx 0 8 1 0,
      .vsraVi 0 8 1 0, .vsaddVv 0 8 16 0, .vsaddVx 0 8 1 0, .vsaddVi 0 8 1 0, .vssubVv 0 8 16 0, .vssubVx 0 8 1 0,
      .vavgVv 0 8 16 0, .vavgVx 0 8 1 0, .vsmulVv 0 8 16 0, .vsmulVx 0 8 1 0, .vmergeVv 0 8 16 1, .vmergeVx 0 8 1 1,
      .vmergeVi 0 8 1 1, .vmvVv 0 8 1, .vmvVx 0 8 1, .vmvVi 0 8 1, .vsatVi 0 8 1 0].all fun i =>
        arithReady (vec 0b0010_0_00_11_10 1024 2 2) 2 i && arithReady (vec 0b0010_0_01_11_10 0 2 2) 2 i) = true ∧
    ([Instr.vaddVv 0 8 16 0, .vsubVv 0 8 16 0, .vmulVv 0 8 16 0, .vdivVv 0 8 16 0, .vminVv 0 8 16 0,
      .vmaxVv 0 8 16 0, .vsgnjVv 0 8 16 0, .vsgnjVx 0 8 1 0, .vsgnjnVv 0 8 16 0, .vsgnjnVx 0 8 1 0, .vsgnjxVv 0 8 16 0,
      .vsgnjxVx 0 8 1 0].all fun i => arithReady (vec 0b0011_0_00_11_10 1024 3 2) 3 i) = true ∧
    arithReady ((vec 0b0001_0_00_11_10 128 1 2).upd fun c => { c with vstart := 128 }) 1 (.vaddVv 24 24 24 0) = true ∧
    arithReady (vecGuest 2) 2 (.vaddVv 31 30 29 0) = true ∧
    ([Instr.cvadd 8 16, .cvsub 8 16, .cvmul 8 16, .cvmin 8 16, .cvmax 8 16, .cvand 8 16, .cvor 8 16, .cvxor 8 16,
      .cvaddx 8 1, .cvmulx 8 1].all fun i =>
        arithReady ((vec 0b0010_0_00_11_10 1024 2 2).upd fun c => { c with ldst := 0xA0 }) 2 i) = true := by decide +kernel

/-- The hypotheses of VectorMultiplyAddResults. -/
def macReady (s : State) (fmt : Nat) (i : Instr) : Bool :=
  match macForm s.ctx i with
  | none => false
  | some (_, f, d, a, b, k) =>
    let c := s.ctx
    let gd : Grp := { reg := d.toNat, emul := c.lmul * f.factor, eew := c.sew * f.factor }
    let ga := c.grp a
    let gb := c.grp b
    let regs := [gd, ga, gb].flatMap Grp.regs
    let l := s.landed regs
    vecReady s regs && f.allowed c.sew c.lmul && gd.aligned && ga.aligned && gb.aligned &&
      (f.factor == 1 || (s.kind != .guest && !gd.meets ga && !gd.meets gb)) && (l.badTag (some fmt) ga).isNone &&
      (l.badTag (some fmt) gb).isNone && (!f.readsD || (l.badTag (some (f.format fmt)) gd).isNone) && keptOk s l gd k 0 regs &&
      (isInteger fmt || (f != .qmacc && (floatOf fmt c.sew).isSome && (floatOf (f.format fmt) (c.sew * f.factor)).isSome))

/-- A signed stitch whose registers 16 to 19 hold the wide accumulators of VWMACC and VQMACC. -/
def wideAcc (t : BitVec 11) (fmt : BitVec 4) (w dw : BitVec 2) (dfmt : BitVec 4) : State :=
  (vec t 32 fmt w).upd fun c => { c with
    v := c.v.set 16 { VReg.reset with fmt := dfmt, width := dw, hwm := 512 } |>.set 17 { VReg.reset with fmt := dfmt, width := dw }
      |>.set 18 { VReg.reset with fmt := dfmt, width := dw } |>.set 19 { VReg.reset with fmt := dfmt, width := dw } }

theorem witness_VectorMultiplyAddResults :
    ([Instr.vmacc 0 8 24 0, .vnmsac 0 8 24 0, .vmadd 0 8 24 0, .vnmsub 0 8 24 0].all fun i =>
      macReady (vec 0b0010_0_00_11_10 1024 2 2) 2 i && macReady (vec 0b0011_0_00_11_10 1024 3 2) 3 i &&
        macReady (vecGuest 1) 1 i) = true ∧
    ([Instr.vwmacc 16 8 9 0, .vwmul 16 8 9 1, .vwadd 16 8 9 0, .vwsub 16 8 9 0].all fun i =>
      macReady (wideAcc 0b0010_0_00_00_01 2 1 2 2) 2 i && macReady (wideAcc 0b0011_0_00_00_01 3 1 2 3) 3 i) = true ∧
    macReady (wideAcc 0b0010_0_00_00_00 2 0 2 2) 2 (.vqmacc 16 8 9 0) = true ∧
    macReady ((vec 0b0010_0_00_11_10 1024 2 2).upd fun c => { c with ldst := 0xA0 }) 2 (.cvmacc 8 16) = true := by
  decide +kernel

/-- The hypotheses that the special functions, VCLASS and VBSCL share. -/
def specialReady (s : State) (gd gb : Grp) (k : BitVec 3) (regs : List Nat) : Bool :=
  vecReady s regs && gd.aligned && gb.aligned && keptOk s (s.landed regs) gd k 0 regs

/-- Binary32 and binary64 groups of a special function, a block-scaled floating and integer group. -/
theorem witness_VectorSpecialAndClassResults :
    ([Instr.vsqrt 0 7 8 0, .vrsqrt 0 0 8 0, .vrcp 0 0 8 0, .vexp2 0 0 8 0, .vlog2 0 0 8 0, .vtanh 0 1 8 0,
      .vsigm 0 0 8 0].all fun i =>
      let s := vec 0b0011_0_00_11_10 1024 3 2
      let c := s.ctx
      match specialForm i with
      | none => false
      | some (f, d, r, b, k) =>
        let two := [c.grp d, c.grp b].flatMap Grp.regs
        specialReady s (c.grp d) (c.grp b) k two && ((s.landed two).badTag (some 3) (c.grp b)).isNone &&
          (floatOf 3 c.sew).isSome && f.at c.sew && c.roundCode r != 5) = true ∧
    ([(vec 0b0011_0_00_00_10 128 3 2, 3), (vec 0b0010_0_00_00_00 512 2 0, 2)].all fun (s, fmt) =>
      let c := s.ctx
      let gs : Grp := { reg := 31, emul := 1, eew := 8 }
      let t := s.upd fun c => { c with v := c.v.set 31 { VReg.reset with fmt := 1, width := 0 } }
      let three := [c.grp 0, c.grp 8, gs].flatMap Grp.regs
      specialReady t (c.grp 0) (c.grp 8) 0 three && !(c.grp 0).meets gs &&
        ((t.landed three).badTag (some fmt) (c.grp 8)).isNone && ((t.landed three).badTag (some 1) gs).isNone &&
        (isInteger fmt || (floatOf fmt c.sew).isSome)) = true := by decide +kernel

/-- The hypotheses of VectorConversionResults. -/
def convReady (s : State) (d b : BitVec 5) (k : BitVec 3) (fmt : Nat) (n : Narrow) : Bool :=
  let c := s.ctx
  let gd := c.grp d
  let gb := n.grp c b
  let regs := gd.regs ++ gb.regs
  vecReady s regs && n.ok c gd gb && (n == .same || s.kind != .guest) && ((s.landed regs).badTag (some fmt) gb).isNone &&
    keptOk s (s.landed regs) gd k 0 regs

/-- Signed to unsigned, integer to floating and back at one width, widening, narrowing; extensions and a clip. -/
theorem witness_VectorConversionResults :
    convReady (vec 0b0001_0_00_11_10 1024 2 2) 0 8 0 2 .same = true ∧
    (2 ≠ (vec 0b0001_0_00_11_10 1024 2 2).ctx.vfmt ∧ (convert 0 2 32 1 32).isSome = true) ∧
    convReady (vec 0b0010_0_00_11_10 1024 3 2) 0 8 0 3 .same = true ∧ (convert 0 3 32 2 32).isSome = true ∧
    convReady (vec 0b0011_0_00_01_10 256 3 1) 0 8 0 3 .half = true ∧ (convert 7 3 16 3 32).isSome = true ∧
    convReady (vec 0b0011_0_00_00_01 256 3 2) 0 8 0 3 .double = true ∧ (convert 0 3 32 3 16).isSome = true ∧
    convReady (vec 0b0010_0_00_01_10 256 2 1) 0 8 0 2 .half = true ∧
    convReady (vec 0b0010_0_00_00_01 256 2 2) 0 8 0 2 .double = true ∧ isInteger 2 = true ∧
    isPacked 3 = false ∧ isPacked 2 = false ∧ convReady (vecGuest 3) 0 8 0 3 .same = true := by decide +kernel

/-- The hypotheses of a permute. -/
def permuteReady (s : State) (fmt : Nat) (gd : Grp) (data index : List Grp) (skip : Nat) : Bool :=
  let regs := (gd :: data ++ index).flatMap Grp.regs
  let l := s.landed regs
  vecReady s regs && (gd :: data ++ index).all Grp.aligned && (data ++ index).all (fun g => !gd.meets g) &&
    data.all (fun g => (l.badTag (some fmt) g).isNone) && indexesTagged l index && keptOk s l gd 0 skip regs

/-- A gather, a slide by more than vl, a pair of sources; VCOMPRESS with vl 0 and with a kept tail; VEXTR. -/
theorem witness_PermuteResults :
    let s := withX 1 2000 (vec 0b0010_0_00_11_10 1024 2 2)
    let g (r : BitVec 5) := s.ctx.grp r
    permuteReady s 2 (g 0) [g 8] [g 16] 0 = true ∧ permuteReady s 2 (g 0) [g 8] [] (s.ctx.rx 1).toNat = true ∧
    permuteReady s 2 (g 24) [g 8, g 16] [] 0 = true ∧
    ((s.landedState []).keptTail (g 0) ((List.range 1024).filter fun j => s.ctx.kbit 0 j).length).isNone = true ∧
    (vec 0b0010_0_00_11_10 0 2 2).ctx.vl.toNat = 0 ∧ (s.landed []).badTag (some 2) (g 24) = none := by decide +kernel

/-- The hypotheses of CompareResults. -/
def compareReady (s : State) (fmt : Nat) (i : Instr) : Bool :=
  match compareForm i with
  | none => false
  | some (_, _, a, b, _) =>
    let srcs := s.ctx.grp a :: b.grps s.ctx
    let regs := srcs.flatMap Grp.regs
    vecReady s regs && srcs.all Grp.aligned && s.ctx.vl.toNat ≤ 4096 &&
      srcs.all (fun g => ((s.landed regs).badTag (some fmt) g).isNone) && (isInteger fmt || (floatOf fmt s.ctx.sew).isSome)

theorem witness_CompareResults :
    ([Instr.vcmpeqVv 7 8 16 1, .vcmpneVv 1 8 16 0, .vcmpltVv 1 8 16 0, .vcmpleVv 1 8 16 0, .vcmpgtVv 1 8 16 0,
      .vcmpgeVv 1 8 16 0, .vcmpeqVx 1 8 1 0, .vcmpneVx 1 8 1 0, .vcmpltVx 1 8 1 0, .vcmpleVx 1 8 1 0, .vcmpgtVx 1 8 1 0,
      .vcmpgeVx 0 8 1 0].all fun i => compareReady (vec 0b0001_0_00_11_00 4096 1 0) 1 i &&
        compareReady (vec 0b0011_0_00_11_10 1024 3 2) 3 i) = true := by decide +kernel

/-- The mask operations on a stitch and a guest; the first set bit at vl - 1, and none below vl. -/
theorem witness_MaskOperationResults :
    let s := vec 0b0001_0_00_11_00 4096 1 0
    let one := s.upd fun c => { c with k := c.k.set 1 (1 <<< 4095) }
    vecReady s [] = true ∧ vecReady (vecGuest 2) [] = true ∧
    ([Instr.kand 7 1 0, .kor 1 1 2, .kxor 1 1 2, .kandn 1 1 2, .knot 1 0].all fun i => (maskForm s.ctx i).isSome) = true ∧
    ([Instr.ckand 1 2, .ckor 1 2, .ckxor 1 2].all fun i => (maskForm { s.ctx with ldst := 0xC1 } i).isSome) = true ∧
    s.ctx.vl.toNat ≤ 4096 ∧ one.ctx.kbit 1 4095 = true ∧ ((List.range 4095).all fun j => !one.ctx.kbit 1 j) = true ∧
    ((List.range 4096).all fun j => !s.ctx.kbit 1 j) = true := by decide +kernel

/-- The hypotheses of ReductionResults. -/
def reduceReady (s : State) (fmt : Nat) (i : Instr) : Bool :=
  match reductionForm i with
  | none => false
  | some (f, _, d, a, b, _) =>
    let c := s.ctx
    let gd : Grp := { reg := d.toNat, emul := 1, eew := c.sew }
    let ga := c.grp a
    let gb : Grp := { reg := b.toNat, emul := 1, eew := c.sew }
    let regs := [gd, ga, gb].flatMap Grp.regs
    let l := s.landed regs
    vecReady s regs && ga.aligned && c.vl.toNat ≤ ga.length && (l.badTag (some fmt) ga).isNone &&
      (l.badTag (some fmt) gb).isNone && (decide (c.vl.toNat ≤ c.vstart.toNat) || ((s.landedState regs).keptTail gd 1).isNone) &&
      (isInteger fmt || ((floatOf fmt c.sew).map fun t => (f.floatIdentity t).isSome) == some true)

theorem witness_ReductionResults :
    ([Instr.vred 1 8 31 0, .vredmax 1 8 31 0, .vredmin 1 8 31 0, .vredand 1 8 31 1, .vredor 1 8 31 0, .vredxor 1 8 31 0,
      .vredo 1 8 31 0].all fun i => reduceReady (vec 0b0010_0_00_11_10 1024 2 2) 2 i &&
        reduceReady (vec 0b0010_0_00_11_10 0 2 2) 2 i) = true ∧
    ([Instr.vred 1 8 31 0, .vredmax 1 8 31 0, .vredmin 1 8 31 0, .vredo 1 8 31 0].all fun i =>
      reduceReady (vec 0b0011_0_00_11_10 1024 3 2) 3 i) = true := by decide +kernel

/-- The first address of the stash window, and the place of the last 4,096 bytes of its open part. -/
def win : Word := 0x7FFFFFFFC00000
def winTop : Word := 0x7FFFFFFFFEF000

theorem openStash_iff (s : State) : openStash s = true ↔ s.OpenStash := by
  simp only [openStash, State.OpenStash, State.InOrder, Bool.and_eq_true, List.all_eq_true, List.mem_range, Option.isNone_iff_eq_none,
    List.isEmpty_iff, Bool.not_eq_true', beq_iff_eq, and_assoc]
  have f8 : (∀ x < 8, s.sd.get (Fin.ofNat 8 x) = none) ↔ ∀ n : Fin 8, s.sd.get n = none :=
    ⟨fun h n => by simpa using h n.val n.isLt, fun h x _ => h _⟩
  have f16 : (∀ x < 16, s.wm.get (Fin.ofNat 16 x) = none) ↔ ∀ n : Fin 16, s.wm.get n = none :=
    ⟨fun h n => by simpa using h n.val n.isLt, fun h x _ => h _⟩
  rw [f8, f16]

/-- The register checks that the loads and stores of vectors share. -/
def groupsReady (s : State) (m : VMode) (d : BitVec 5) (nf : Nat) : Bool :=
  let c := s.ctx
  let regs := (fieldGrps c d nf ++ m.groups c).flatMap Grp.regs
  vecReady s regs && openStash s && (c.grp d).aligned && (m.groups c).all Grp.aligned && nf * c.lmul ≤ 8 &&
    d.toNat + nf * c.lmul ≤ 32 && c.vl.toNat ≤ (c.grp d).length && indexesTagged (s.landed regs) (m.groups c)

/-- Every active element lies in the window. -/
def elementsIn (s : State) (m : VMode) (a : BitVec 5) (k : BitVec 3) (nf : Nat) : Bool :=
  let c := s.ctx
  (span c.vstart.toNat (c.vl.toNat - c.vstart.toNat)).all fun j => !c.kbit k j ||
    (List.range nf).all fun f => inWindow (m.at c a nf j f) (c.sew / 8)

/-- The hypotheses of VectorLoadResults. -/
def loadReady (s : State) (i : Instr) : Bool :=
  match loadForm i with
  | none => false
  | some (m, d, a, k, nf, _) =>
    let c := s.ctx
    let regs := (fieldGrps c d nf ++ m.groups c).flatMap Grp.regs
    groupsReady s m d nf && c.vfmt != 0 && elementsIn s m a k nf &&
      (fieldGrps c d nf).all fun g => keptOk s (s.landed regs) g k 0 regs

/-- A whole group up to the end of the window, strides forwards and backwards, indexes, two and eight fields, vl 0. -/
theorem witness_VectorLoadResults :
    loadReady (withX 1 winTop (vec 0b0010_0_00_11_10 1024 2 2)) (.vld 0 1 0 1 0) = true ∧
    loadReady (withX 1 win (withX 2 8 (vec 0b0010_0_00_00_10 64 2 2))) (.vlds 31 1 2 1 0 0) = true ∧
    loadReady (withX 1 (win + 508) (withX 2 (-4) (vec 0b0010_0_00_00_10 128 2 2))) (.vlds 31 1 2 0 0 0) = true ∧
    loadReady (withX 1 win (vec 0b0010_0_00_01_10 256 2 2)) (.vldx 0 1 2 0 0 0) = true ∧
    loadReady (withX 1 win (vec 0b0010_0_00_00_10 128 2 2)) (.vlseg 30 1 0 0 1) = true ∧
    loadReady (withX 1 win (withX 2 64 (vec 0b0010_0_00_00_11 64 2 3))) (.vlsseg 24 1 2 0 0 7) = true ∧
    loadReady (withX 1 0 (vec 0b0010_0_00_00_10 0 2 2)) (.vld 0 1 0 0 0) = true := by decide +kernel

/-- Reads as a function: what the load gives, and the state after it. -/
def readsTo (s : State) (a : Word) (n : Nat) : Option (Nat × State) :=
  match checkAccess .load a n s with
  | .ok ph u =>
    match stalls .load a n ph u with
    | .ok _ w => if w = u then some (u.loadValue ph n, u.afterLoad ph n) else none
    | .error _ _ => none
  | .error _ _ => none

theorem readsTo_reads {s t : State} {a : Word} {n v : Nat} (h : readsTo s a n = some (v, t)) : Reads s a n v t := by
  unfold readsTo at h
  split at h
  · rename_i ph u hc
    split at h
    · rename_i w hs
      split at h
      · rename_i e
        simp only [Option.some.injEq, Prod.mk.injEq] at h
        exact ⟨ph, u, hc, e ▸ hs, h.1.symm, h.2.symm⟩
      · simp at h
    · simp at h
  · simp at h

/-- Writes as a function, likewise. -/
def writesTo (s : State) (a : Word) (n v : Nat) : Option (Phys × State) :=
  match checkAccess .store a n s with
  | .ok ph u =>
    match stalls .store a n ph u with
    | .ok _ w =>
      match queueRoom ph w with
      | .ok _ x => if w = u ∧ x = u then some (ph, u.store a ph n v) else none
      | .error _ _ => none
    | .error _ _ => none
  | .error _ _ => none

theorem writesTo_writes {s t : State} {a : Word} {n v : Nat} {ph : Phys} (h : writesTo s a n v = some (ph, t)) :
    Writes s a n v ph t := by
  unfold writesTo at h
  split at h
  · rename_i p u hc
    split at h
    · rename_i w hs
      split at h
      · rename_i x hq
        split at h
        · rename_i e
          obtain ⟨e1, e2⟩ := e
          simp only [Option.some.injEq, Prod.mk.injEq] at h
          obtain ⟨rfl, h⟩ := h
          subst e1 e2
          exact ⟨_, hc, hs, hq, h.symm⟩
        · simp at h
      · simp at h
    · simp at h
  · simp at h

/-- The active elements of a vector instruction from vstart on. -/
def activeOf (c : Ctx) (k : BitVec 3) : List Nat :=
  (span c.vstart.toNat (c.vl.toNat - c.vstart.toNat)).filter fun j => c.kbit k j

/-- The checks that the vector loads and stores on any memory share. -/
def anyMemory (s : State) (m : VMode) (d : BitVec 5) (nf : Nat) : Bool :=
  let c := s.ctx
  let regs := (fieldGrps c d nf ++ m.groups c).flatMap Grp.regs
  vecReady s regs && (s.kind != .guest || (c.sew == 32 && c.lmul == 1)) && (c.grp d).aligned &&
    (m.groups c).all Grp.aligned && nf * c.lmul ≤ 8 && d.toNat + nf * c.lmul ≤ 32 && c.vl.toNat ≤ (c.grp d).length &&
    indexesTagged (s.landed regs) (m.groups c)

/-- The chain of VectorLoadResults on any memory, with no element masked off. -/
def chainReady (s : State) (i : Instr) : Bool :=
  match loadForm i with
  | none => false
  | some (m, d, a, k, nf, _) =>
    let c := s.ctx
    let regs := (fieldGrps c d nf ++ m.groups c).flatMap Grp.regs
    let field (r : Option (State × List Nat)) (j f : Nat) : Option (State × List Nat) := do
      let (s, vs) ← r
      let (v, t) ← readsTo s (m.at c a nf j f) (c.sew / 8)
      pure (t, vs ++ [v])
    let element (r : Option State) (j : Nat) : Option State := do
      let s ← r
      let (t, vs) ← (List.range nf).foldl (fun r f => field r j f) (some (s, []))
      pure (t.upd fun x => x.putFields c d nf j fun f => vs.getD f 0)
    anyMemory s m d nf && c.vfmt != 0 && (fieldGrps c d nf).all (fun g => keptOk s (s.landed regs) g k 0 regs) &&
      ((activeOf c k).foldl element (some (s.landedState regs))).isSome

/-- The guest whose home holds address 0x2000, with two elements. -/
def guestThere : State :=
  let s := vecGuest 2
  withX 1 0x2000 (s.upd fun c => { c with
    vl := 2, vtype := 0b0010_0_00_00_10, guest := c.guest.map fun g =>
      match s.home .general (generalKey 0 0x2000) with
      | some h => { g with homeStack := h.1, homeVault := h.2 }
      | none => g })

/-- Loads of general memory, of a word there and one in the window, of two fields, on a guest, with and without bypass. -/
theorem witness_VectorLoadResults_anyMemory :
    chainReady (withX 1 0x2000 (vec 0b0010_0_00_00_10 4 2 2)) (.vld 0 1 0 1 0) = true ∧
    chainReady (withX 1 0x2000 (withX 2 (win - 0x2000) (vec 0b0010_0_00_00_10 2 2 2))) (.vlds 31 1 2 0 0 0) = true ∧
    chainReady (withX 1 0x2000 (vec 0b0010_0_00_00_10 2 2 2)) (.vlseg 30 1 0 0 1) = true ∧
    chainReady guestThere (.vld 0 1 0 0 0) = true ∧
    bypassOf (.vld 0 1 0 0 0) = 0 ∧ stitch.pending = [] := by decide +kernel

/-- The hypotheses of FullEmptyLoadResults. -/
def fullReady (s : State) (i : Instr) : Bool :=
  match fullEmptyForm i with
  | none => false
  | some (m, d, a, k, clear) =>
    let c := s.ctx
    let regs := (c.grp d :: m.groups c).flatMap Grp.regs
    let granule (j : Nat) : Nat := ((m.at c a 1 j 0).toNat - windowBase) / 16
    let active := (span c.vstart.toNat (c.vl.toNat - c.vstart.toNat)).filter fun j => c.kbit k j
    groupsReady s m d 1 && c.vfmt != 0 && keptOk s (s.landed regs) (c.grp d) k 0 regs && elementsIn s m a k 1 &&
      active.all (fun j => s.full.contains (granule j) && (!clear || !s.reserved s.cur (granule j))) &&
      active.all fun j => active.all fun h => j / 16 == h / 16 || granule j != granule h

theorem witness_FullEmptyLoadResults :
    let s := { withX 1 win (withX 2 16 (vec 0b0001_0_00_00_00 32 1 0)) with full := [0, 1] }
    fullReady s (.vld 0 1 0 0 1) = true ∧ fullReady s (.vld 0 1 0 0 2) = true ∧
    fullReady ({ s with full := List.range 32 }.upd fun c => { c with vl := 32 }) (.vlds 0 1 2 0 0 2) = true ∧
    fullReady (s.upd fun c => { c with vl := 16 }) (.vldx 0 1 3 0 0 1) = true := by decide +kernel

/-- A stitch whose core maps the 64 KiB page 0x20000 into the window, its first granule present and full. -/
def mapped : State :=
  { (withX 1 0x20000 (vec 0b0001_0_00_00_00 16 1 0)).setTile 0 (some { plainTile with desc := { plainDesc with
      maps := [StashMap.mk 0 0x20000 65536] } }) with full := [0], present := [0] }

/-- A step of a full-empty load in the window and on a mapped page, with and without clearing; the whole load there. -/
theorem witness_FullEmptyLoadResults_anyMemory :
    let s := { withX 1 win (vec 0b0001_0_00_00_00 16 1 0) with full := [0] }
    ([(s, .unit), (mapped, .unit)].all fun (s, m) => anyMemory s m 0 1 &&
      [false, true].all fun clear => gives (forGroups (feStep m s.ctx 0 1 0 clear)) (s.landedState (s.ctx.grp 0).regs) fun _ u =>
        u.full.contains 0 != clear) = true ∧
    ([s, mapped].all fun s => gives (feCheck (s.ctx.rx 1) 1) s fun p w => p.2 == 0 &&
      gives (stalls .load (s.ctx.rx 1) 1 p.1) w fun _ v => v == w && ((w.claim p.1 1).touch 0).full.contains 0 &&
        !((w.claim p.1 1).touch 0).reserved w.cur 0) = true := by decide +kernel

/-- The hypotheses of VectorStoreResults. -/
def storeReady (s : State) (i : Instr) : Bool :=
  match storeForm i with
  | none => false
  | some (m, d, a, k, nf) =>
    let c := s.ctx
    let l := s.landed ((fieldGrps c d nf ++ m.groups c).flatMap Grp.regs)
    groupsReady s m d nf && elementsIn s m a k nf &&
      (fieldGrps c d nf).all fun g => g.regs.all fun r => (l.srcTag g r).1 != 0 && (l.srcTag g r).2 == g.eew

theorem witness_VectorStoreResults :
    storeReady (withX 1 winTop (vec 0b0010_0_00_11_10 1024 2 2)) (.vst 0 1 0 1) = true ∧
    storeReady (withX 1 win (withX 2 8 (vec 0b0010_0_00_00_10 64 2 2))) (.vsts 31 1 2 1 0) = true ∧
    storeReady (withX 1 win (vec 0b0010_0_00_01_10 256 2 2)) (.vstx 0 1 2 0 0) = true ∧
    storeReady (withX 1 win (vec 0b0010_0_00_00_10 128 2 2)) (.vsseg 30 1 0 0 1) = true ∧
    storeReady (withX 1 win (withX 2 64 (vec 0b0010_0_00_00_11 64 2 3))) (.vssseg 24 1 2 0 0 7) = true := by decide +kernel

/-- The chain of VectorStoreResults on any memory, with no element masked off. -/
def chainStores (s : State) (i : Instr) : Bool :=
  match storeForm i with
  | none => false
  | some (m, d, a, k, nf) =>
    let c := s.ctx
    let l := s.landed ((fieldGrps c d nf ++ m.groups c).flatMap Grp.regs)
    anyMemory s m d nf && ((fieldGrps c d nf).all fun g => g.regs.all fun r => (l.srcTag g r).1 != 0 && (l.srcTag g r).2 == g.eew) &&
      s.coreQueues.isEmpty && ((activeOf c k).foldl (fun r j => (List.range nf).foldl (fun r f => do
        let s ← r
        let (_, t) ← writesTo s (m.at c a nf j f) (c.sew / 8) (l.elem (fieldGrp c d f) j)
        pure t) r) (some (s.landedState ((fieldGrps c d nf ++ m.groups c).flatMap Grp.regs)))).isSome

/-- A stitch with one stage queue on its core, which it produces. -/
def queued : State :=
  (withX 1 win (vec 0b0001_0_00_00_00 16 1 0)).setTile 0 (some { plainTile with desc := { plainDesc with
    stages := [1, 0, 0, 0], squeues := [StageQueue.mk 0 4 0 1] } })

/-- Stores of general memory, of two fields, of both places, on a guest; a group into a stage queue. -/
theorem witness_VectorStoreResults_anyMemory :
    chainStores (withX 1 0x2000 (vec 0b0010_0_00_00_10 4 2 2)) (.vst 0 1 0 1) = true ∧
    chainStores (withX 1 0x2000 (withX 2 (win - 0x2000) (vec 0b0010_0_00_00_10 2 2 2))) (.vsts 31 1 2 0 0) = true ∧
    chainStores (withX 1 0x2000 (vec 0b0010_0_00_00_10 2 2 2)) (.vsseg 30 1 0 0 1) = true ∧
    chainStores guestThere (.vst 0 1 0 0) = true ∧
    anyMemory queued .unit 0 1 = true ∧ queued.queueGranule win = some 0 ∧
    gives (forGroups (storeGroup .unit queued.ctx 0 1 0 1)) (queued.landedState (queued.ctx.grp 0).regs)
      (fun _ _ => true) = true := by decide +kernel

/-- Offsets 0, 4, 8 and so on as 32-bit index elements. -/
def rising (step : Nat) (n : Nat) : VData :=
  BitVec.ofNat 4096 ((List.range n).foldl (fun v j => v + step * j * 2 ^ (32 * j)) 0)

/-- The hypotheses of VectorAtomicResults. -/
def amoReady (s : State) (fmt : Nat) (i : Instr) : Bool :=
  match amoForm i with
  | none => false
  | some (_, _, any, d, a, b, k, sc) =>
    let c := s.ctx
    let gd := c.grp d
    let gi := c.grp b
    let regs := [gd, gi].flatMap Grp.regs
    let l := s.landed regs
    let active := (List.range c.vl.toNat).filter fun j => c.kbit k j
    openStash s && sc != 7 && vecReady s regs && (c.sew == 32 || c.sew == 64) && c.lmul ≤ 2 && gd.aligned && gi.aligned &&
      !gd.meets gi && indexesTagged l [gi] && (l.badTag (some fmt) gd).isNone && (any || isInteger fmt) &&
      c.vl.toNat ≤ gd.length && active.all (fun j => inWindow ((VMode.index b).at l a 1 j 0) (c.sew / 8)) &&
      active.all fun j => active.all fun h => j == h ||
        (windowPlace ((VMode.index b).at l a 1 j 0)).key != (windowPlace ((VMode.index b).at l a 1 h 0)).key

theorem witness_VectorAtomicResults :
    ([Instr.vamoSwap 0 1 8 0 0, .vamoAdd 0 1 8 0 6, .vamoAnd 0 1 8 0 0, .vamoOr 0 1 8 0 0, .vamoXor 0 1 8 0 0,
      .vamoMin 0 1 8 0 0, .vamoMax 0 1 8 0 0].all fun i =>
        amoReady (withX 1 win (vec 0b0010_0_00_00_10 4 2 2 (rising 4 4))) 2 i &&
          amoReady (withX 1 win (vec 0b0001_0_00_00_10 4 1 2 (rising 4 4))) 1 i) = true ∧
    amoReady (withX 1 (win + 0x3EFFFC) (vec 0b0011_0_00_00_10 1 1 2)) 1 (.vamoSwap 0 1 8 0 0) = true := by decide +kernel

/-- The placed map with 512 MiB of host memory at 0x20000000. -/
def hosted : State := withMem 0x20008 8 0x865 stitch

/-- Words of general memory on a stitch and on a guest; a first word in host memory. -/
theorem witness_VectorAtomicResults_anyMemory :
    ([withX 1 0x2000 (vec 0b0010_0_00_00_10 2 2 2 (rising 4 4)),
      guestThere.upd fun c => { c with vl := 1 }].all fun s =>
      let c := s.ctx
      let gd := c.grp 0
      let gi := c.grp 8
      let two := [gi, gd].flatMap Grp.regs
      let l := s.landed two
      let at_ (j : Nat) : Word := (VMode.index 8).at l 1 1 j 0
      let act := (span 0 c.vl.toNat).filter fun j => c.kbit 0 j
      vecReady s two && (s.kind != .guest || (c.sew == 32 && c.lmul == 1)) && gd.aligned && gi.aligned && !gd.meets gi &&
        indexesTagged l [gi] && (l.badTag (some 2) gd).isNone && c.vl.toNat ≤ gd.length &&
        gives (act.mapM fun j => amoCheck (at_ j) 4) (s.landedState two) (fun pls u => (act.zip pls).all fun p =>
          gives (stalls .atomic (at_ p.1) 4 p.2) u fun _ v => v == u && gives (queueRoom p.2) u fun _ w => w == u) &&
        act.all fun j => act.all fun h => j == h || at_ j != at_ h) = true ∧
    gives (checkAccess .atomic 0x20000000 4) hosted (fun ph _ => ph.cls == .host) = true := by decide +kernel

/-- The checks that waits and reductions on words share. -/
def wordsReady (s : State) (d b : BitVec 5) (fmt : Nat) : Bool :=
  let c := s.ctx
  let two := [c.grp d, c.grp b].flatMap Grp.regs
  vecReady s two && (c.sew == 32 || c.sew == 64) && c.lmul ≤ 2 && (c.grp b).aligned && (c.grp d).aligned &&
    indexesTagged (s.landed two) [c.grp b] && ((s.landed two).badTag (some fmt) (c.grp d)).isNone

/-- The operands 0, 4, 8 and 12 beside words that are 0: VWAIT with equality passes for element 0 only, and for all
where the others have passed before; VMATCH; VRDW of the sum to general memory. -/
theorem witness_WordWaitsMatchesAndReductionsComplete :
    let s := withX 1 win (vec 0b0001_0_00_00_10 4 1 2 (rising 4 4))
    let l := s.landed ([s.ctx.grp 0, s.ctx.grp 8].flatMap Grp.regs)
    let test (s : State) (j : Nat) : Bool := s.ctx.met.getLsbD j ||
      waitTest 0 4 (s.readN (windowPlace ((VMode.index 8).at l 1 1 j 0)).key 4) (l.elem (s.ctx.grp 0) j)
    (waitForm (.vwaitEq 0 1 8 0 6)).isSome = true ∧ openStash s = true ∧ wordsReady s 0 8 1 = true ∧
    isInteger 1 = true ∧ (List.range 4).all (fun j => inWindow ((VMode.index 8).at l 1 1 j 0) 4) = true ∧
    test s 0 = true ∧ test s 3 = false ∧
    (List.range 4).all (test (s.upd fun c => { c with met := 0b1110 })) = true ∧
    (reduceForm (.vrdwAdd 0 1 8 0 6)).isSome = true ∧
    (reduceWith .add 1 4).isSome = true ∧
    gives (reduceGroups (l.setX 1 0x2000) 1 0 (s.ctx.grp 0) (s.ctx.grp 8) 4
      { op := .add, fmt := 1, width := 32 } 0 4 1) (withX 1 0x2000 s) (fun _ _ => true) = true := by decide +kernel

/-- VWAIT on two words of general memory, of which one passes, and both where the other has passed before. -/
theorem witness_WordWaitsMatchesAndReductionsComplete_anyMemory :
    let s := withX 1 0x2000 (vec 0b0001_0_00_00_10 2 1 2 (rising 4 4))
    let gd := s.ctx.grp 0
    let gi := s.ctx.grp 8
    let waits (s : State) (met : Nat) : Bool :=
      gives (waitElements 0 4 0 1 gd gi (activeOf s.ctx 0) ((activeOf s.ctx 0).filter fun j => !s.ctx.met.getLsbD j))
        (s.landedState ([gi, gd].flatMap Grp.regs)) (fun _ u => u.ctx.met.toNat == met)
    wordsReady s 0 8 1 = true ∧ waits s 1 = true ∧ waits (s.upd fun c => { c with met := 2 }) 3 = true ∧
    (readsTo s (wordAddr s.ctx 1 (s.ctx.grp 8) 1) 4).map (·.1) = some 0 := by decide +kernel

/-- Records of an x register, of none and of a v register; loads of 4 and 8 bytes at the largest offset. -/
theorem witness_CompactFormsChain :
    let s := (withX 31 0x2000 stitch).upd fun c => { c with ldst := 0x80#8 ||| (31 : BitVec 5).setWidth 8 }
    s.ctx.ldst = 0x80#8 ||| (31 : BitVec 5).setWidth 8 ∧
    reachable .load (s.ctx.rx 31 + BitVec.ofNat 64 (4 * (31 : BitVec 5).toNat)) 4 s = true ∧
    reachable .load (s.ctx.rx 31 + BitVec.ofNat 64 (8 * (31 : BitVec 5).toNat)) 8 s = true ∧
    stitch.ctx.ldst.getLsbD 7 = false ∧ (0xA0 : BitVec 8).extractLsb' 5 2 ≠ 0 := by decide +kernel

/-- A plane descriptor of region 1 (R49). -/
def pdWord (count rowbase width : Nat) (residue : Bool) : BitVec 128 :=
  BitVec.ofNat 128 (count * 2 ^ 96 + 1 * 2 ^ 80 + rowbase * 2 ^ 22 + natOf residue * 2 ^ 21 + width * 2 ^ 16 + 1)

/-- A stitch with a region of one subarray: d0 and d5 one bit wide, d1 to d3 and d6 eight, d4 sixteen up to the last row. -/
def planes : State :=
  let s := { vec 0b0010_0_00_00_00 16 2 0 with regions := [PlaneRegion.mk 1 0 0 [0] [0] 0 1] }
  s.upd fun c => { c with
    pvl := 8192,
    pd := (List.range 7).foldl (fun v i => v.set (Fin.ofNat 16 i).val
      ([pdWord 8192 100 1 false, pdWord 8192 0 8 true, pdWord 8192 10 8 false, pdWord 8192 20 8 true,
        pdWord 8192 1008 16 false, pdWord 8192 101 1 false, pdWord 8192 40 8 false].getD i 0) (Fin.ofNat 16 i).isLt) c.pd }

/-- pdReady as a test. -/
def ready (s : State) (n : Nat) : Bool :=
  pdValid (s.ctx.pdAt n) && s.pdLimits (s.ctx.pdAt n) && s.ctx.pvl.toNat ≤ pdCount (s.ctx.pdAt n)

theorem ready_iff (s : State) (n : Nat) : ready s n = true ↔ s.pdReady n := by
  simp [ready, State.pdReady, and_assoc]

/-- planeRoom as a test. -/
def room (s : State) (stack : Nat) : Bool :=
  s.ctx.pvl == 0 || (s.ctx.planes.filter fun p => p.stack == stack).length < 32

theorem room_iff (s : State) (stack : Nat) : room s stack = true ↔ s.planeRoom stack := by
  simp [room, State.planeRoom]

/-- The hypotheses of PlaneFormsAreQueued. -/
def formReady (s : State) (i : Instr) : Bool :=
  match planeFormOf i with
  | none => false
  | some (f, d, a, b) =>
    let c := s.ctx
    let srcs : List Nat := a.toNat :: (match b with
      | .plane n => [n.toNat]
      | _ => [])
    let mask : List Nat := if f = .merge then [0] else []
    let dd := c.pdAt d.toNat
    s.kind != .guest && (c.vfmt == 1 || c.vfmt == 2) && (d.toNat :: srcs ++ mask).all (ready s) &&
      (d.toNat :: srcs ++ mask).all (fun n => pdRegion (c.pdAt n) == pdRegion dd && pdFirst (c.pdAt n) == pdFirst dd) &&
      widthsOk f (pdWidth dd) (srcs.map fun n => pdWidth (c.pdAt n)) &&
      (f != .merge || (pdWidth (c.pdAt 0) == 1 && !(d.toNat :: srcs).contains 0)) &&
      (srcs ++ mask).all (fun n => apart (pdOperand dd) (pdOperand (c.pdAt n))) &&
      (s.region? (s.partOf s.cur) (pdRegion dd)).all fun r => room s r.stack

/-- Every plane form: one width, a product and an extension into 16 bits, a clip, a compare into one bit, a merge under
d0; pvl at the count of the descriptor and 0. -/
theorem witness_PlaneFormsAreQueued :
    ([Instr.vaddPVv 3 1 2, .vaddPVx 3 1 31, .vsubPVv 3 1 2, .vrsubPVi 3 1 16, .vmulPVv 4 1 2, .vmulPVx 4 1 31,
      .vminPVv 3 1 2, .vmaxPVv 3 1 2, .vandPVv 3 1 2, .vorPVv 3 1 2, .vxorPVv 3 1 2, .vxorPVi 3 1 31, .vsllPVi 3 1 7,
      .vsrlPVi 3 1 7, .vsraPVi 3 1 31, .vsaddPVv 3 1 2, .vssubPVv 3 1 2, .vmergePVv 3 1 2, .vsatPVi 3 1 0, .vsextP 4 1,
      .vzextP 4 1, .vnclipP 1 4, .vcmpeqPVv 5 1 2, .vcmpnePVv 5 1 2, .vcmpltPVv 5 1 2, .vcmplePVv 5 1 2,
      .vcmpgtPVv 5 1 2, .vcmpgePVv 5 1 2, .vcmpeqPVx 5 1 31, .vcmpnePVx 5 1 31, .vcmpltPVx 5 1 31, .vcmplePVx 5 1 31,
      .vcmpgtPVx 5 1 31, .vcmpgePVx 5 1 31].all fun i =>
        formReady planes i && formReady (planes.upd fun c => { c with pvl := 0 }) i) = true ∧ guest.kind = .guest := by
  decide +kernel

/-- PDSET with V = 0, of a legal and of a too wide descriptor; PXIN and PXOUT of 8,192 bytes and of none; PRUN of a swatch
that only ends; BKACQ free and taken; BKREL of a held lock; NRED of the last words of the mapped space. -/
theorem witness_PlaneManagementCompletes :
    planes.kind ≠ .guest ∧ pdValid 0 = false ∧ pdValid (pdWord 8192 1008 16 false) = true ∧
    planes.pdLimits (pdWord 8192 1008 16 false) = true ∧ planes.pdLimits (pdWord 8192 1008 17 false) = false ∧
    ready planes 1 = true ∧
    gives (transferCheck .load 0x2000 (transferBytes 8) 8192) planes (fun _ u =>
      u.ctx == planes.ctx && u.kind == planes.kind && u.regions == planes.regions && u.partOf u.cur == planes.partOf planes.cur) = true ∧
    gives (transferCheck .store 0x2000 (transferBytes 8) 8192) planes (fun _ u =>
      u.ctx == planes.ctx && u.kind == planes.kind && u.regions == planes.regions && u.partOf u.cur == planes.partOf planes.cur) = true ∧
    (let s := withMem 0x2000 8 1 planes
     gives (imageWord 0x2000) s (fun h u => h == 1 && gives (imageWords 0x2004 h) u fun words w =>
       w.ctx == s.ctx && w.kind == s.kind && words == [0] && sameTensor [s.ctx.pdAt 3] &&
         (swatchInvalid { w.capture (.prun words) (s.ctx.pdAt 3) false with d := pdOperand (s.ctx.pdAt 3) } words).isNone) =
       true) ∧
    ([0, 1, 3].all fun _ => apart (pdOperand (planes.ctx.pdAt 3)) noOperand) = true ∧ room planes 0 = true := by decide +kernel

/-- The lock of the one bank of the region. -/
def bank : Word := 0x01000001

theorem witness_PlaneManagementCompletes_locks :
    let free := withX 1 bank planes
    let taken := free.updAt 3 fun c => { c with lock := some (lockNamed bank true) }
    let holds := free.upd fun c => { c with lock := some (lockNamed bank false) }
    (6 : BitVec 3) ≠ 7 ∧ free.ctx.lock = none ∧ free.lockValid (free.ctx.rx 1) = true ∧
    (free.planeOn free.cur (free.lockBanks (lockNamed bank false)) ||
      free.banksTaken (free.lockBanks (lockNamed bank false))) = false ∧
    (taken.planeOn taken.cur (taken.lockBanks (lockNamed bank false)) ||
      taken.banksTaken (taken.lockBanks (lockNamed bank false))) = true ∧
    holds.ctx.lock = some (lockNamed bank false) ∧ (holds.ctx.rx 1).toNat < 2 ^ 32 ∧
    lockNamed (holds.ctx.rx 1) false = lockNamed bank false ∧ holds.ctx.planeErr = [] ∧
    holds.planeOn holds.cur (holds.lockBanks (lockNamed bank false)) = false ∧
    gives ([(0x1FFFFFF8 : Word), 0x1FFFFFFC].forM fun p => do
        let _ ← checkClass [.general, .plane] .load p 4
        pure ()) free (fun _ u => gives ([(0x1FFFFFF8 : Word), 0x1FFFFFFC].mapM fun p => memRead p 4) u fun _ _ => true) =
      true := by decide +kernel

/-- A region of the stitch with an integer and with a floating format, and a tile of each mode. -/
def matrix (wfmt : Nat) (fp32 : Bool) (t : BitVec 11) (fmt : BitVec 4) (w : BitVec 2) : State :=
  (((vec t 64 fmt w).setRegion 7 (Region.mk 0x4000 0 251 1 1 wfmt []))).setAcc 1 (some { owner := 0, fp32 := fp32, cells := [] })

theorem witness_MatrixInstructionsComplete :
    stitch.kind = .stitch ∧ regionLimits 251 1 1 5 = true ∧ (stitch.tileOf stitch.cur).map (·.desc.second) = some false ∧
    stitch.sdFree 7 = true ∧ stitch.sd.get 7 = none ∧ stitch.sdReserved 1 = false ∧ stitch.macrosFree 251 1 = true ∧ (0x4000 : Word).toNat % 128 = 0 ∧
    stitch.accAt 1 = none ∧ ((matrix 0 false 0b0010_0_00_00_00 2 0).accAt 1).map (·.owner) = some 0 ∧
    ([(matrix 0 false 0b0010_0_00_00_00 2 0, 0), (matrix 3 true 0b0101_0_00_00_00 5 0, 3)].all fun (s, wfmt) =>
      let x := s.ctx
      let l := s.landed (x.grp 8).regs
      (s.sd.get 7).map (·.owner) == some (numOf s.cur) && (s.accAt 1).map (·.fp32) == some (weightFloat wfmt).isSome &&
        vecReady s (x.grp 8).regs && (x.grp 8).aligned && (x.grp 8).regs.all (fun n =>
          aTagOk wfmt (l.vr n).fmt.toNat && widthOf (l.vr n).width == aWidth wfmt) && aWidth wfmt == x.sew &&
        x.vl.toNat ≤ 4096 / x.sew && x.vstart.toNat % 32 == 0 && (s.sd.get 7).all fun r => x.vl.toNat ≤ r.n && x.vl.toNat ≤ r.k)
      = true ∧
    (let s := (matrix 0 false 0b0010_0_00_00_10 2 2).upd fun c => { c with vl := 2 }
     s.ctx.vl.toNat ≤ 2048 ∧ 1 ≤ s.ctx.vfmt ∧ s.ctx.vfmt ≤ 6 ∧ vecReady s [] = true ∧ slice (0 : Word) 56 8 = 0 ∧
     gives (drain 0 0 (fun r => 0x2000 + r * 8) { owner := 0, fp32 := false, cells := [(0, 5)] }) s (fun _ _ => true) = true) := by
  decide +kernel

/-- An MSTAT that has reserved its descriptor and macros and goes on. -/
theorem witness_MatrixInstructionsComplete_reserved :
    let mine : Reserve := { sd := 7, macro0 := 251, count := 1 }
    (stitch.upd fun x => { x with reserve := some mine }).ctx.reserve = some mine := by decide +kernel

/-- The index register of MDRAINX. -/
theorem witness_MatrixInstructionsComplete_indexed :
    let s := (matrix 0 false 0b0010_0_00_00_11 1 3).upd fun c => { c with vl := 2 }
    let gi : Grp := { reg := 8, emul := 1, eew := 64 }
    vecReady s gi.regs = true ∧ indexesTagged (s.landed gi.regs) [gi] = true ∧
    gives (drain 0 0 (fun r => 0x2000 + ((s.landed gi.regs).elem gi r : Nat)) { owner := 0, fp32 := false, cells := [] })
      (s.landedState gi.regs) (fun _ _ => true) = true := by decide +kernel

/-- The stitch with the map's leaf in its TLB and the access counter of the first chunk saturated: a load of the first
2 MiB changes nothing. -/
def quiet : State :=
  { stitch with tlb := [{ part := 0, page := 0, entry := 0xE5 }], chunks := [{ Chunk.fresh 0 0 false with counter := 65535 }] }

theorem ok_of_toOption {x : Except ε α} {v : α} (h : x.toOption = some v) : x = .ok v := by
  cases x <;> simp_all [Except.toOption]

theorem quiet_read (va : Nat) (h : va < 0x10000) (hn : va % 16 = 0) :
    checkAccess .load (BitVec.ofNat 64 va) 16 quiet = .ok { cls := .general, key := generalKey 0 va, granule := none } quiet ∧
    memRead (BitVec.ofNat 64 va) 16 quiet = .ok (quiet.readN (generalKey 0 va) 16) quiet := by
  have hv : (BitVec.ofNat 64 va).toNat = va := by rw [BitVec.toNat_ofNat]; exact Nat.mod_eq_of_lt (by omega)
  have hw : quiet.walk (quiet.partOf quiet.cur) va = .ok 0xE5 := by
    unfold State.walk
    rw [show va / 2 ^ 42 % 8192 = 0 by omega, show va / 2 ^ 29 % 8192 = 0 by omega, show va / 2 ^ 16 % 8192 = 0 by omega]
    exact ok_of_toOption (by decide +kernel)
  have hl : leafFor va quiet = .ok 0xE5 quiet := by
    unfold leafFor
    simp only [M.bind_run, M.get_run, hw]
    rw [show quiet.tlb.find? (fun t => t.covers (quiet.partOf quiet.cur) va) =
      some { part := 0, page := 0, entry := 0xE5 } by
        unfold TlbEntry.covers
        rw [show va / 65536 = 0 by omega]; decide +kernel]
    rfl
  have hk : quiet.holdLeaf 0xE5 va = quiet := by
    unfold State.holdLeaf
    rw [if_pos]
    unfold TlbEntry.covers
    rw [show va / 65536 = 0 by omega]; decide +kernel
  have hp : quiet.leafPhys (quiet.partOf quiet.cur) (quiet.privOf quiet.cur) .load 0xE5 va =
      .ok { cls := .general, key := generalKey 0 va, granule := none } := by
    have hk : quiet.leafKey (quiet.partOf quiet.cur) 0xE5 va = .ok (generalKey 0 va) := by
      unfold State.leafKey
      rw [show (if bitsAt 0xE5 1 2 == 2 then va % 2 ^ 29 else va / 2 ^ 16 % runLength 0xE5 * 65536 + va % 65536) = va by
        rw [if_pos (by decide)]; omega]
      have ho : quiet.ownsGeneral (quiet.partOf quiet.cur) 0 va = true := by
        have hc : (quiet.part (quiet.partOf quiet.cur)).ownStacks = [0] ∧
            (quiet.part (quiet.partOf quiet.cur)).chunks = 256 := by decide +kernel
        unfold State.ownsGeneral
        rw [hc.1, hc.2]; simp; omega
      rw [show leafClass 0xE5 = .general by decide, show bitsAt 0xE5 16 36 * 65536 = 0 by decide]
      simp [ho, bitsAt]
    unfold State.leafPhys
    rw [hk, show leafPermits 0xE5 (quiet.privOf quiet.cur) .load = true by decide +kernel]
    rfl
  have hg : quiet.granuleOf va = none := by
    unfold State.granuleOf
    rw [show quiet.coreMaps = [] by decide +kernel]; rfl
  have hh : ∀ ph, guestHome va ph quiet = .ok () quiet := fun ph => by
    unfold guestHome
    rw [show quiet.ctx.guest = none by decide +kernel]
  have hq : ∀ ph, queueCheck .load va ph quiet = .ok () quiet := fun ph => rfl
  have hf : ∀ ph, completionCheck .load va ph quiet = .ok () quiet := fun ph => by
    unfold completionCheck
    rw [show quiet.failing = [] by decide +kernel]; rfl
  have hc : checkAccess .load (BitVec.ofNat 64 va) 16 quiet =
      .ok { cls := .general, key := generalKey 0 va, granule := none } quiet := by
    unfold checkAccess placeOf
    rw [hv]
    have e1 : ∀ a, demand (va % 16 == 0) 3 a quiet = .ok () quiet := fun a => demand_ok (by simpa using hn) _ _ _
    have e2 : ∀ a, demand (decide (va < 2 ^ 55)) 4 a quiet = .ok () quiet := fun a => demand_ok (by simp; omega) _ _ _
    have m0 : (quiet.part (quiet.partOf quiet.cur)).mbox.toNat = 0 := by decide +kernel
    simp only [M.bind_run, e1, e2, if_neg (show ¬windowBase ≤ va by unfold windowBase; omega),
      if_neg (show ¬(2 ^ 54 ≤ va) by omega), M.get_run, m0, hg, M.pure_run]
    simp only [ne_eq, not_true_eq_false, decide_false, Bool.false_and, Bool.false_eq_true, if_false, M.bind_run, hl, hp, hh, hf, M.pure_run, hq,
      reduceCtorEq, if_true, modS_run, hk, M.get_run, hg, Option.isNone_none, Bool.true_or, demand_ok]
  refine ⟨hc, ?_⟩
  have hs : ∀ ph : Phys, ph.cls = .general → Machine.stalls .load (BitVec.ofNat 64 va) 16 ph quiet = .ok () quiet := fun ph h => by
    have hm : quiet.markStall quiet.cur va 16 = none := by
      have : ∀ n : Fin 16, quiet.wm.get n = none := by decide +kernel
      unfold State.markStall
      simp [this]
    unfold Machine.stalls
    rw [hv]
    simp [h, hm, show ¬windowBase ≤ va by unfold windowBase; omega]
  have hr : quiet.noteRead { cls := .general, key := generalKey 0 va, granule := none } = quiet := by
    have hk : generalKey 0 va = va := by unfold generalKey; omega
    have h1 : quiet.countAccess (generalKey 0 va) = quiet := by
      unfold State.countAccess State.updChunk State.chunk
      rw [hk, if_pos (by omega), show va / 2 ^ 40 = 0 by omega, show va % 2 ^ 40 / 2 ^ 21 = 0 by omega]
      have e : (fun c : Chunk => { c with counter := min 65535 (c.counter + 1) }) ((quiet.chunks.find? fun c =>
          c.stack == 0 && c.chunk == 0).getD (Chunk.fresh 0 0 (decide (quiet.firstTier 0 ≤ 0)))) ::
          quiet.chunks.filter (fun c => !(c.stack == 0 && c.chunk == 0)) = quiet.chunks := by decide +kernel
      rw [e]
    have h2 : hostLine (generalKey 0 va) = none := by
      unfold hostLine
      rw [hk, if_neg (by simp; omega)]
    unfold State.noteRead
    simp only [h1, h2]
  have ho : quiet.InOrder := by unfold State.InOrder; decide +kernel
  unfold Machine.memRead
  simp only [M.bind_run, hc, hs { cls := .general, key := generalKey 0 va, granule := none } rfl, M.get_run, M.set_run, M.pure_run,
    ho.afterLoad, ho.loadValue, hr]

theorem forM_quiet (f : α → M Unit) (s : State) : ∀ l : List α, (∀ a ∈ l, f a s = .ok () s) → l.forM f s = .ok () s
  | [], _ => rfl
  | a :: l, h => by
    show (f a >>= fun _ => l.forM f) s = _
    rw [M.bind_run, h a (by simp)]
    exact forM_quiet f s l fun b hb => h b (by simp [hb])

theorem mapM_quiet (f : α → M β) (s : State) : ∀ l : List α, (∀ a ∈ l, ∃ v, f a s = .ok v s) → ∃ vs, l.mapM f s = .ok vs s
  | [], _ => ⟨[], rfl⟩
  | a :: l, h => by
    obtain ⟨v, hv⟩ := h a (by simp)
    obtain ⟨vs, hs⟩ := mapM_quiet f s l fun b hb => h b (by simp [hb])
    refine ⟨v :: vs, ?_⟩
    rw [List.mapM_cons, M.bind_run, hv]
    simp [M.bind_run, hs]

theorem image_quiet (n : Nat) (h : n ≤ 1024) : (∃ img w, imageRead 0x4000 n quiet = .ok img w) ∧
    ∀ m, m ≤ 128 → imageCheck 0x4000 m quiet = .ok () quiet := by
  refine ⟨?_, fun m hm => ?_⟩
  · unfold imageRead
    obtain ⟨vs, h⟩ := mapM_quiet (fun i => memRead (0x4000 + BitVec.ofNat 64 (16 * i)) 16) quiet (List.range n)
      fun i hi => by
        have hi : i < n := by simpa using hi
        rw [show (0x4000 : Word) + BitVec.ofNat 64 (16 * i) = BitVec.ofNat 64 (0x4000 + 16 * i) by
          rw [BitVec.ofNat_add]; rfl]
        exact ⟨_, (quiet_read (0x4000 + 16 * i) (by omega) (by omega)).2⟩
    rw [M.bind_run, h]
    exact ⟨_, _, rfl⟩
  · unfold imageCheck
    refine forM_quiet _ _ _ fun i hi => ?_
    have hi : i < m := by simpa using hi
    rw [show (0x4000 : Word) + BitVec.ofNat 64 (128 * i) = BitVec.ofNat 64 (0x4000 + 128 * i) by
      rw [BitVec.ofNat_add]; rfl]
    have hv : (BitVec.ofNat 64 (0x4000 + 128 * i)).toNat = 0x4000 + 128 * i := by
      rw [BitVec.toNat_ofNat]; exact Nat.mod_eq_of_lt (by omega)
    have hw : ¬windowBase ≤ 0x4000 + 128 * i := by unfold windowBase; omega
    have hk : ∀ n, n < 2 ^ 56 → (generalKey 0 n / 2 ^ 58 != 1) = true := fun n hn => by
      unfold generalKey; simp; omega
    unfold checkClass
    simp only [M.bind_run, M.get_run, M.pure_run, hv, hw, decide_false, Bool.false_and, Bool.not_false, demand_ok,
      show ((0x4000 + 128 * i) % 16 == 0) = true by simp; omega, (quiet_read (0x4000 + 128 * i) (by omega) (by omega)).1,
      hk (0x4000 + 128 * i) (by omega), List.contains_cons, beq_self_eq_true, Bool.true_or, Bool.and_self]

/-- A readable image of one macro. -/
theorem witness_MatrixInstructionsComplete_image :
    imageCheck 0x4000 128 quiet = .ok () quiet ∧ ∃ img w, imageRead 0x4000 1024 quiet = .ok img w :=
  ⟨(image_quiet 1024 (Nat.le_refl _)).2 128 (Nat.le_refl _), (image_quiet 1024 (Nat.le_refl _)).1⟩

/-- The tile's stitch stopped. -/
def idleNeedle : State := needle.updAt 2 fun c => { c with run := .stopped }

/-- CAST of one NOP and of the longest block to a stopped and to a running stitch; WAITS met and not; the rest. -/
theorem witness_StitchControlCompletes :
    idleNeedle.kind = .needle ∧ (1 : BitVec 8) ≠ 0 ∧ (1 : BitVec 8).toNat < 2 ^ idleNeedle.stitches ∧
    ([(2 : Nat), 32].all fun n =>
      gives (blockHalves 0x1004 n) (((List.range 16).foldl (fun s i => withMem (0x1004 + 4 * i) 4 0x81 s) idleNeedle).upd fun c =>
        { c with pc := 0x1000 }) fun halves w => ((blockCount 0 halves).map fun k => decide (k ≤ 16)) == some true &&
          (w.ctxs.get (idleNeedle.stitchIx 0)).run == .stopped) = true ∧
    gives (blockHalves 0x1004 2) (needle.upd fun c => { c with pc := 0x1000 })
      (fun _ w => (w.ctxs.get (needle.stitchIx 0)).run != .stopped) = true ∧
    idleNeedle.waitMet idleNeedle.cur (.waits 1) = true ∧ needle.waitMet needle.cur (.waits 1) = false ∧
    stitch.kind = .stitch ∧ idleNeedle.ctx.planeErr = [] ∧ idleNeedle.tileQuiet 0 = true ∧ needle.tileQuiet 0 = false ∧
    (0 : BitVec 3).toNat < needle.stitches ∧
    ((needle.updAt 2 fun c => { c with run := .faulted }).ctxs.get (needle.stitchIx 0)).run = .faulted ∧
    (needle.ctxs.get (needle.stitchIx 0)).run ≠ .faulted ∧
    (needle.ctxs.get (needle.stitchIx 0)).streamsDrained 255 = true := by decide +kernel

/-- A tile of two stitches, the second with its group v8 offered; the first moves. -/
def pair (link : Bool) : State :=
  let s := (vec 0b0010_0_00_00_10 4 2 2).setTile 0 (some { plainTile with count := 2 })
  s.updAt 3 fun c => { c with v := c.v.map fun r => { r with link := link } }

/-- A push to the other stitch and a gang of the two. -/
theorem witness_LinksAndPushesComplete :
    let s := pair true
    let g := s.ctx.grp 8
    s.kind = .stitch ∧ g.aligned = true ∧ g.regs.all (fun r => (s.ctx.slotOf r).isNone) = true ∧
    g.regs.all (fun r => ((s.landed g.regs).vr r).fmt != 0) = true ∧ (1 : BitVec 3).toNat < s.stitches ∧
    s.stitchIx 1 ≠ s.cur ∧ g.regs.all (fun r => ((s.ctxs.get (s.stitchIx 1)).vr r).link) = true ∧
    (((pair false).ctxs.get ((pair false).stitchIx 1)).vr 8).link = false ∧
    targetOk 9 = true ∧ s.identInside 9 = true ∧ s.ctx.pushed = [] ∧ (s.landedState g.regs).pushTarget 9 = some 3 ∧
    ((s.landedState g.regs).pushOne 8 ((s.landed g.regs).images g) 3).isSome = true ∧
    (match s.ctx.wait with
     | some (.push _ _ _ _ _) => false
     | _ => true) = true ∧
    (let t := withMem 0x2000 24 (2 + 8 * 2 ^ 64 + 9 * 2 ^ 128) s
     gives (gangEntries 0x2000) (t.landedState g.regs) fun es v => es == [8, 9] && gives (gangTargets 0x2000 es.zipIdx) v fun ts r =>
       r.ctx == t.landed g.regs && (r.pushAll 8 ((t.landed g.regs).images g) ts).2.isEmpty) = true := by decide +kernel

/-- A pattern record at 0x2000: base 0x3000, one level, words of 4 bytes. -/
def patternRecord : State := withX 2 0x2000 (withMem 0x2000 48 (0x3000 + 2 * 2 ^ 64 + 1 * 2 ^ 66 + 16 * 2 ^ 128) stitch)

/-- The stitch's launch with a binding in wm15. -/
def bound (w : Watermark) : State := stitch.setWm 15 (some w)

/-- A consumer of 100 words at 0x4000 that has seen 10; a producer; a channel that has filled 4 elements. -/
def consumer : Watermark := Watermark.mk .consumer 0 0x4000 4 100 4 false 10 0x2000 0 0 false 0 0 2 none false []
def producer : Watermark := { consumer with role := .producer }
def channel : Watermark := Watermark.mk .channel 0 0x4000 4 100 1 false 0 0 16 0 false 0 4 2 none false []

/-- A pattern record; the largest and smallest channel; each kind of binding; a record of WMBIND. -/
theorem witness_StreamsWatermarksAndSignalsComplete :
    patternRecord.kind = .stitch ∧ 16 ≤ (16 : BitVec 5).toNat ∧
    gives (readRecord 0x2000 16 6) patternRecord (fun r u => (patternOf false 16 r).isSome && (patternOf true 31 r).isSome &&
      (u.ctx.sq.get 7).isNone && (u.ctx.slotOf 16).isNone) = true ∧
    stitch.ctx.streamsDrained (2 ^ 7) = true ∧ (stitch.tileOf stitch.cur).map (·.desc.second) = some false ∧
    stitch.wm.get 15 = none ∧ stitch.bufferTaken 0 0x3F0000 = false ∧
    ((List.range 256).all fun m => !stitch.macroHeld m) = true ∧
    (0 + 2 * 4096 * 8 ≤ 0x3F0000 ∧ 4096 * 8 % 16 = 0) ∧ (16 * 0x3EFFE + 2 * 1 * 16 ≤ 0x3F0000) ∧
    ([consumer, producer, channel].all fun w => (bound w).wm.get 15 == some w && (bound w).inLaunch (bound w).cur w) = true ∧
    gives ((stitch.rangeStarts 0x4000 400).forM fun p => do
        let _ ← checkClass [.general, .plane, .host, .peer] .load (BitVec.ofNat 64 p) 1
        pure ()) (bound channel) (fun _ _ => true) = true ∧
    (let s := withMem 0x2000 24 (0x4000 + 0x3000 * 2 ^ 64 + 100 * 2 ^ 128 + 2 * 2 ^ 160) stitch
     gives (readRecord 0x2000 8 3) s (fun r u => (u.wm.get 15).isNone && ((wmRecord u 6 true r).map fun w =>
       gives (checkAccess .load (BitVec.ofNat 64 w.word) 8) u fun ph _ => ph.cls == .general && decide (w.word < windowBase)) ==
         some true) = true) := by decide +kernel

/-- A publication; waits at the value and one above it; a signal added to, reached exactly and not reached. -/
theorem witness_StreamsWatermarksAndSignalsComplete_waits :
    gives (memRmw 0x2000 8 fun o => some (max o 50)) ((bound producer).releases 4) (fun _ _ => true) = true ∧
    (min 10 consumer.count ≤ consumer.shown ∧ consumer.shown < min 11 consumer.count ∧ consumer.failed = none) ∧
    (0x400F ≤ channel.shown ∧ channel.shown < 0x4010) ∧
    (let s := withMem 0x2000 8 7 stitch
     gives (signalCheck .atomic 0x2000) s (fun _ u => gives (memRmw 0x2000 8 fun o => some (o + 1)) (u.releases 6)
       fun _ v => v.ctx == s.ctx) = true ∧
     gives (signalCheck .load 0x2000) s (fun _ u => gives (memRead 0x2000 8) u fun value _ =>
       decide ((7 : Word).toNat ≤ value) && decide (value < (8 : Word).toNat)) = true) := by decide +kernel

/-- A ticket slot in use with a reply, with a fault, late, early. -/
def ticketed (r : Option Reply) (timeout : Nat) : State :=
  withX 2 0x58 (stitch.upd fun c => { c with tickets := c.tickets.set 0 (Ticket.mk true 5 0 timeout r) })

theorem witness_ThrowsCollectivesAndLaunchesComplete :
    stitch.kind ≠ .guest ∧ stitch.ctx.guest = none ∧ (6 : BitVec 3) ≠ 7 ∧ (0x1000 : Word).toNat % 2 = 0 ∧
    gives (throwHome 0x2000) stitch (fun _ u => u.ctx == stitch.ctx) = true ∧ stitch.ctx.freeTicket = some 0 ∧
    ((stitch.upd fun c => { c with tickets := Vector.replicate 8 (Ticket.mk true 5 0 1 none) }).ctx.freeTicket) = none ∧
    (0x57 : Word).getLsbD 3 = false ∧ (0x58 : Word).getLsbD 3 = true ∧
    ((ticketed none 1).ctx.tickets.get (Fin.ofNat 8 (0x58 % 8))).seq.toNat = (0x58 : Word).toNat / 16 ∧
    (stitch.ctx.tickets.get 0).used = false ∧ (ticketed none 0).ticketLate (Ticket.mk true 5 0 0 none) = true ∧
    (ticketed none 1).ticketLate (Ticket.mk true 5 0 1 none) = false ∧
    ((ticketed (some (Reply.mk none 0 [1, 2, 3, 4])) 1).ctx.tickets.get 0).reply = some (Reply.mk none 0 [1, 2, 3, 4]) ∧
    ((ticketed (some (Reply.mk (some 4) 9 [])) 1).ctx.tickets.get 0).reply = some (Reply.mk (some 4) 9 []) := by decide +kernel

/-- An all-reduce record at 0x2000 with a team of the needle and the stitch of this core, the stitch second. -/
def teamed : State :=
  withMem 0x2100 24 (2 + 9 * 2 ^ 32 + 0 * 2 ^ 64 + 8 * 2 ^ 128)
    (withMem 0x2000 56 (0x3000 + 0x3040 * 2 ^ 64 + 16 * 2 ^ 128 + 0x2100 * 2 ^ 192 + 0x2200 * 2 ^ 256 + 1 * 2 ^ 320) stitch)

theorem witness_ThrowsCollectivesAndLaunchesComplete_coll :
    gives (collFields 2 0 0 4) teamed (fun _ u => u == teamed) = true ∧ gives (collFields 2 3 0 5) teamed (fun _ u => u == teamed) = true ∧
    gives (readRecord 0x2000 8 7) teamed (fun r u =>
      let k := collRecord r
      gives (readRecord (BitVec.ofNat 64 k.team) 8 1) u fun head v =>
        decide (2 ≤ bitsAt head 0 32 ∧ bitsAt head 0 32 ≤ 4096 ∧ bitsAt head 32 32 ≠ 0) &&
        gives (forRecord (BitVec.ofNat 64 k.team) (teamEntries (BitVec.ofNat 64 k.team + 8) (bitsAt head 0 32))) v fun es w =>
          es.findIdx? (· == (w.farIdent w.cur).toNat) == some 1 &&
          decide (1 ≤ k.n ∧ k.n < 2 ^ 32 ∧ k.doneAddr % 8 = 0 ∧ k.statusAddr % 8 = 0 ∧ k.sendAddr + 4 * k.n ≤ k.recvAddr) &&
          es.all teamEntryOk && es.eraseDups.length == bitsAt head 0 32 && es.all (fun e => e / 65536 == w.mgmt.moduleNumber) &&
          es.all (fun e => w.memberInside e) &&
          gives ((mergePlaces (2 * k.n) (bufferPlaces .load k.sendAddr (4 * k.n) 4) (bufferPlaces .store k.recvAddr (4 * k.n) 4)).forM
            placeCheck) w fun _ z => gives collRoom z fun _ y => y == z) = true := by
  decide +kernel

/-- Queue 63 of the partition with its header at 0x9F80: a ring of 16 entries at 0xA000, one place left. -/
def queue : State :=
  withMem 0x9F80 128 (0xA000 + 16 * 2 ^ 64 + 1 * 2 ^ 104 + 3 * 2 ^ 128 + 18 * 2 ^ 512)
    (stitch.updPart 0 fun p => { p with qbase := 0x8000 })

theorem witness_ThrowsCollectivesAndLaunchesComplete_launch :
    let enters (s : State) (entry : Nat) : Bool :=
      let p := s.partOf s.cur
      (s.queueHead p 63).any fun h => h.enable && decide ((h.tail + 2 ^ 64 - h.head) % 2 ^ 64 < h.n) &&
        match (s.releases 6).engineWrite p 1 (h.entryAddr h.tail) 32 entry with
        | .error _ => false
        | .ok v => match v.engineWrite p 1 (v.headAddr p 63 + 64) 8 (h.tail + 1) with
          | .error _ => false
          | .ok _ => true
    let last (a : Word) : Word := if a.toNat % 65536 + 1151 < 65536 then a else a + BitVec.ofNat 64 (65536 - a.toNat % 65536)
    (63 : Word).toNat ≤ 63 ∧
    ([(0x1FFFFB80 : Word), 0x1FFEFF80].all fun a => a.toNat % 128 == 0 && gives (checkClass [.general] .load a 1) queue fun _ u =>
      gives (checkClass [.general] .load (last a) 1) u fun _ u' => enters u' a.toNat) = true ∧
    enters queue (inlineEntry 3 64 0x1000 0) = true := by decide +kernel

/-- A tile checked or not whose stitch has a plane instruction in its queue of stack 0: pvl elements of d3 or d4. -/
def queuedOp (checked : Bool) (kind : PlaneKind) (pvl d : Nat) (change : PlaneOp → PlaneOp) : State :=
  let s := (planes.setTile 0 (some { plainTile with desc := { plainDesc with unchecked := !checked } })).upd fun c =>
    { c with pvl := BitVec.ofNat 32 pvl }
  s.upd fun c => { c with planes := [change { s.capture kind (c.pdAt d) false with
    a := pdOperand (c.pdAt 1), b := pdOperand (c.pdAt 2) }] }

/-- A round of the head instruction of stack 0 may start. -/
def roundAt (s : State) (p : PlaneOp → Bool) : Bool :=
  (s.headOp 2 0).any fun o => s.roundReady 2 o && !s.refreshDue (s.physical o (s.nextBatch 2 o)) && p o

/-- The hypotheses on the rows of a form that starts; what more is asked of its function. -/
def formAt (s : State) (p : PlaneOp → PFn → Bool := fun _ _ => true) : Bool :=
  (s.headOp 2 0).any fun o =>
    let t := s.startBatch 2 o
    (t.headOp 2 0).any fun q => t.physical q q.batch == [0] && t.stopAt.isNone && q.d.rowbase + q.d.width + 2 ≤ 1040 &&
      q.a.rowbase + q.a.width ≤ 1040 && q.b.rowbase + q.b.width ≤ 1040 && q.e.rowbase < 1040 &&
      (match q.kind with
        | .form f _ => p q (pfnOf f)
        | _ => false)

/-- A form in its first round of several, or in its last. -/
def atRound (first : Bool) (q : PlaneOp) (f : PFn) : Bool := decide (q.rounds < q.formRounds f.code) == first

/-- A subarray may be transferred, as far as the queue goes. -/
def transferAt (s : State) (p : PlaneOp → Bool) : Bool :=
  (s.headOp 2 0).any fun o => o.left == [0] && s.opReady 2 o && !s.refreshDue (s.physical o [0]) &&
    !s.batchTaken 2 (s.physical o [0]) && p o

/-- The first and the last round of a sum with residues, of a product and of a comparison; a checked product up to row
1,023; a swatch; a source verify; nothing left; a transfer of two elements each way; an error that waits; refreshes due
now and two intervals ago. -/
theorem witness_PlaneEventsRun :
    ([0, 8].all fun n =>
      let s := queuedOp false (.form 0 none) 8192 3 fun o => { o with b := o.a, rounds := n, batch := [0], left := [] }
      roundAt s (fun o => !o.checked) && formAt s fun q f => q.asAdd f && atRound (n == 0) q f && q.a.width == q.d.width &&
        q.b.width == q.d.width) = true ∧
    ([0, 36].all fun n =>
      let s := queuedOp false (.form 3 none) 8192 6 fun o => { o with rounds := n, batch := [0], left := [] }
      roundAt s (fun o => !o.checked) && formAt s fun q f => q.asMul f && atRound (n == 0) q f && !q.asAdd f) = true ∧
    ([0, 8].all fun n =>
      let s := queuedOp false (.form 21 none) 8192 5 fun o => { o with rounds := n, batch := [0], left := [] }
      roundAt s (fun o => !o.checked) && formAt s fun q f => q.asCompare f && atRound (n == 0) q f && !q.asAdd f && !q.asMul f) =
        true ∧
    (let s := queuedOp true (.form 3 none) 8192 4 fun o => { o with verified := true }
     roundAt s (fun o => o.checked && o.verified) = true ∧ formAt s = true) ∧
    roundAt (queuedOp false (.prun [0]) 8192 3 id) (fun o => !o.checked) = true ∧
    roundAt (queuedOp true (.form 0 none) 8192 3 id) (fun o => o.checked && !o.verified) = true ∧
    (let s := queuedOp true (.form 0 none) 8192 3 fun o => { o with left := [] }
     (s.headOp 2 0).any (fun o => o.left == [] && o.batch == []) = true) ∧
    (let s := queuedOp true (.pxin 0x2000) 2 3 id
     transferAt s (fun o => (s.pxinOn (s.partOf 2) o 0x2000 0).2) = true) ∧
    (let s := queuedOp false (.pxout 0x2000) 2 3 id
     transferAt s (fun o => !o.checked && (s.pxoutOn (s.partOf 2) o 0x2000 0).2) = true) ∧
    (let s := queuedOp true (.pxout 0x2000) 2 3 id
     transferAt s (fun o => o.checked && o.d.residue && (s.physical o [0]).all fun sub => !s.staleAt o.d sub (s.toMove o 0)) =
       true) ∧
    (let s := stitch.upd fun c => { c with planeErr := [0x1000, 0x2000] }
     (s.ctxs.get 2).planeErr = [0x1000, 0x2000] ∧ s.movable 2 = true ∧ s.active = true) ∧
    ((stitch.refreshAt 5).due ≤ ({ stitch with now := 4095 } : State).now ∧
     (stitch.refreshAt 5).due + 2 * stitch.refreshInterval 0 ≤ ({ stitch with now := 12285 } : State).now) := by decide +kernel

/-- The last round of a sum that residues check, on rows that agree with their codes. -/
theorem witness_PlaneEventsRun_checked :
    let s := queuedOp true (.form 0 none) 8192 3 fun o => { o with
      b := o.a, rounds := 8, batch := [0], left := [], verified := true }
    roundAt s (fun o => o.checked && o.verified) = true ∧ formAt s (fun q f => q.asAdd f && q.byResidue f && atRound false q f) = true ∧
    (s.headOp 2 0).any (fun q => !s.stale q.a 0 64 && !s.stale q.b 0 64 && s.code q.a 0 8191 == s.column q.a 0 8191 % 3) = true := by
  decide +kernel

/-- The last round of a form without a swatch in the spec, whose count of rounds Config leaves open. -/
theorem witness_PlaneEventsRun_last :
    let s := queuedOp false (.form 6 none) 8192 6 fun o => { o with rounds := Config.formRounds 6 8 }
    ∃ o, s.headOp 2 0 = some o ∧ o.formRounds 6 ≤ o.rounds ∧ o.asAdd .and = false ∧ o.asMul .and = false :=
  ⟨_, rfl, Nat.le_refl _, rfl, rfl⟩

/-- A launch of two tiles of one stitch from queue 63, its first `next` tiles claimed. -/
def someLaunch (next : Nat) : Launch :=
  Launch.mk 7 0 63 3 { plainDesc with deps := [Dependence.mk 0x2000 5 false] } 0x4000 100 0 [Share.mk 0 next 2] 0 0 0 true false 0 []

/-- The tile of the stitch changed; its needle runs at 0x1000 as well. -/
def tiled (f : Tile → Tile) : State :=
  let s := stitch.setTile 0 (some (f plainTile))
  s.updAt 0 fun c => { c with run := .running, pc := 0x1000, priv := 0, seqOn := true }

/-- Queue 63 with a ring of 65,536 entries of which a page table maps the first 2,048, its head the entry after them. -/
def torn : State :=
  withMem 0x9F80 128 (0x20000000 + 65536 * 2 ^ 64 + 1 * 2 ^ 104 + 2048 * 2 ^ 128 + 2049 * 2 ^ 512)
    (withMem 0x30000 8 0x400E3 (withMem 0x20008 8 0x30001 queue))

/-- The head entry of queue 63 readable or not, with no previous launch or one whose tiles are all claimed; a word at its
value; an idle core; a tile that has ended; a complete launch; a stopping and a frozen tile; a T level at its start and
its end; two stages and a queue between them; a lane group to lend; a push that has waited for its bound. -/
theorem witness_LaunchEventsRun :
    (let opens (s : State) (fails : Bool) : Bool := s.active && (s.part 0).on && (s.queueOpen 0 63).any fun h =>
        s.headWaits 0 63 h && s.queueFirst 0 63 h && (match s.engineRead 0 1 (h.entryAddr h.head) 32 with
          | .error _ => fails
          | .ok _ => !fails)
     opens queue false = true ∧ queue.previousLaunch 0 63 = none ∧
     opens torn true = true ∧
     (let s := ({ queue with launches := [someLaunch 2] } : State).updPart 0 fun p => { p with lastLaunch := [(63, 7)] }
      (s.previousLaunch 0 63).any Launch.claimed = true ∧ opens s false = true)) ∧
    (let s := { withMem 0x2000 8 5 stitch with launches := [someLaunch 0] }
     (s.launches.all fun l => l.desc.deps.all fun d => match s.xlate (partIx l.part) 1 .load d.addr with
       | .ok ph => ph.cls != .plane && ph.key / 2 ^ 58 != 1 && d.value ≤ s.readN ph.key 8
       | .error _ => false) = true ∧ s.active = true ∧ s.mgmt.entering = none) ∧
    (let s := { stitch with tiles := Vector.replicate 2 none, launches := [someLaunch 1] }
     (s.startable 7 s.stack.toNat).isSome = true ∧ s.idleCore s.coreId = true) ∧
    ((tiled fun t => { t with ended := true }).tileAt 0).map (·.ended) = some true ∧
    (let s := { stitch with launches := [someLaunch 2] }
     (s.launches.find? fun l => l.id == 7).any s.mayComplete = true) ∧
    (let s := tiled fun t => { t with stopping := true }
     (s.tileOf 2).any (fun t => t.stopping && !t.frozen && (tileCtxs (s.slotOf 2) t).contains 2) = true ∧
       (s.ctxs.get 2).saved = false ∧ s.atPoint 2 = true) ∧
    ((tiled fun t => { t with frozen := true }).tileAt 0).any (fun t => t.frozen && !t.stopping && !t.leaving) = true ∧
    (let e := { offTile with tile := { offTile.tile with kept := false, prio := 3 } }
     let s := { stitch with tiles := Vector.replicate 2 none, savedTiles := [e], launches := [someLaunch 0] }
     (s.tileAt 1).isNone = true ∧ s.nextBack 1 = some e ∧ ((s.bestLaunch 0).all fun l => l.prio ≤ e.tile.prio) = true ∧
       (((s.bringBack e).resume 1 e.tile 2).tileAt 1).isSome = true) ∧
    (let s := tiled fun t => { t with desc := { plainDesc with levels := [Level.mk 2 3 4 0x1000 0x2000] } }
     (s.startingLevel 0).isSome = true ∧
       ((s.updAt 0 fun c => { c.setLevel 0 (LoopLevel.mk true 2 8) with pc := 0x2000 }).endingLevel 0).isSome = true) ∧
    (let s := tiled fun t => { t with count := 2, desc := { plainDesc with
        stitches := 2, stages := [1, 2, 0, 0], squeues := [StageQueue.mk 0 4 0 1] } }
     (s.tileAt 0).any (fun t => t.desc.mask 0 != 0 && t.desc.mask 1 != 0) = true) := by decide +kernel

theorem witness_LaunchEventsRun_lending :
    (let s := (tiled fun t => { t with count := 2 }).updAt 3 fun c => { c with run := .running, alc := 0 }
     let held (c : Fin 12) : Bool := kindOf c == .stitch && (s.ctxs.get c).alc == 0 && (s.ctxs.get c).runnable &&
       (s.tileOf c).any fun x => x.holds (numOf c)
     (s.inTurn 2).find? held = some 3 ∧ (s.prioOf 3 = 7 ∨ s.prioOf 2 ≠ 7 ∨ s.cappedGroups < s.laneCap.toNat) ∧
     4 ≤ (s.ctxs.get 2).alc.toNat) ∧
    (let s := { stitch.updAt 2 (fun c => { c with wait := some (.granules [0] true) }) with landSince := some 50, now := 1100 }
     s.landSince = some 50 ∧ 50 + 1050 ≤ s.now ∧ (s.ctxs.get (ctxIx (2 + 0 % 8))).wait = some (.granules [0] true)) ∧
    (let s := (stitch.updAt 2 fun c => { c with wait := some (.granules [0] true) }).updAt 3 fun c => { c with
       wait := some (.push [] 0 1 1800 50) }
     50 + 1050 ≤ ({ s with now := 1100 } : State).now ∧ s.freeRowCount < 1800) := by
  decide +kernel

/-- A needle that stands at a CAST of the one halfword after it to its stitch, which has stopped. -/
def casting : State :=
  (withMem 0x1000 6 (0x61 + 1 * 2 ^ 17 + 1 * 2 ^ 24) (tiled id)).updAt 2 fun c => { c with run := .stopped }

/-- A context that hangs: its window is 3 ms. -/
def hung (warned timer : Nat) : State :=
  (tiled id).updAt 2 fun c => { c with window := 3, timer := timer, warned := warned }

/-- Machine checks 0x31 and 0x33 at once; the timer interrupt alone; a wait on stitches, a late CATCH, a wait on a word of
another module; watchdogs after one and two windows; a core reset that is due; a guest after its window; a CAST. -/
theorem witness_TrapAndWaitEventsRun :
    stitch.active = true ∧ stitch.mgmt.entering = none ∧
    (let s := ((tiled id).check 0 0x33 7).check 0 0x31 9
     s.atBoundary 0 = true ∧ (s.ctxs.get 0).priv.toNat < 2 ∧ (s.nextCheck 0).map (·.code) = some 0x31) ∧
    (let s := (tiled id).updAt 0 fun c => { c with sys := { c.sys with timer := true, sie := 2 } }
     s.atBoundary 0 = true ∧ s.nextCheck 0 = none ∧ s.nextInterrupt 0 = some 1) ∧
    (let s := (tiled id).updAt 0 fun c => { c with events := [PendEvent.mk 0x11 0 5, PendEvent.mk 0x12 0 0] }
     s.atBoundary 0 = true ∧ s.nextCheck 0 = none ∧ s.nextInterrupt 0 = none ∧ s.eventTakable 0 = true) ∧
    (let s := casting.updAt 0 fun c => { c with run := .waiting, wait := some (.waits 1) }
     (s.ctxs.get 0).run = .waiting ∧ (s.ctxs.get 0).saved = false ∧ s.waitMet 0 (.waits 1) = true ∧ s.wakesFirst 0 = true) ∧
    (let s := (ticketed none 0).upd fun c => { c with run := .waiting, wait := some (.reply 0x58) }
     let x := s.ctxs.get 2
     x.run = .waiting ∧ x.saved = false ∧ (0x58 : Word).toNat % 8 = 0 ∧ (x.tickets.get 0).used = true ∧
       (x.tickets.get 0).reply = none ∧ s.ticketLate (x.tickets.get 0) = true) ∧
    (stitch.ctxs.get 0).sys.stimecmp.toNat ≤ ({ stitch with now := 2 ^ 64 - 1 } : State).now ∧
    ((hung 0 3150000).guarded 2 = true ∧ ((hung 0 3150000).ctxs.get 2).passed 1 = true) ∧
    ((hung 1 6300000).guarded 2 = true ∧ ((hung 1 6300000).ctxs.get 2).passed 2 = true ∧ ((hung 1 6300000).ctxs.get 2).warned = 1) ∧
    (let s := (hung 2 0).setTile 0 (some { plainTile with frozen := true, resetBy := some 7 })
     ((s.tileOf 2).bind (·.resetBy) = some 7 ∧ 7 ≤ ({ s with now := 7 } : State).now ∧ (s.ctxs.get 2).warned = 2)) ∧
    ((guest.ctxs.get 10).guest.isSome = true ∧ guest.cur = 10 ∧
      ((guest.upd fun c => { c with window := 1, timer := 1050000 }).ctxs.get 10).passed 1 = true) ∧
    (casting.movable 0 = true ∧ casting.endingLevel 0 = none ∧ casting.startingLevel 0 = none ∧ casting.trapPending 0 = false ∧
      (casting.ctxs.get 0).planeErr = [] ∧ gives fetchBits { casting with cur := 0 } (fun w u => isCast w && decide (1 ≤ bitsAt w 17 7 ∧ bitsAt w 17 7 ≤ 64) &&
      gives (castBlock (BitVec.ofNat 8 (w / 2 ^ 24)) (bitsAt w 17 7)) u fun _ _ => true) = true) := by decide +kernel

/-- A stitch whose partition is paired with one of module 1: its page at 0x20000000 lies in peer memory, the one at
0x40000000 in host memory. -/
def peering : State :=
  let s := withMem 0x20010 8 0x8E5 (withMem 0x30000 8 (2 ^ 46 + 0xCE3) (withMem 0x20008 8 0x30001 stitch))
  { s.updPart 0 fun p => { p with paired := [(1, 0)] } with mgmt := { s.mgmt with accepted := 2 } }

/-- A load and a store stream of two elements at 0x2000. -/
def streaming (store : Bool) : State :=
  stitch.upd fun c => { c with sq := c.sq.set 7 (some (Stream.mk store 31 2 0x2000 [(2, 4)] 0 []
    (if store then [Delivery.mk 0 5, Delivery.mk 1 6] else []) none)) }

/-- A throw of a word's address, a member of a collective of two and the other one. -/
def thrown : ThrowMsg :=
  { forwarded := false, kept := false, scope := 6, budget := 4096, thrower := 0x20, ticket := 0, target := 0x2000, entry := 0x1000,
    payload := [1, 2, 3, 4], homeStack := 0, homeVault := 0, partition := 0 }
def member (rank : Nat) : CollMember := CollMember.mk 9 0 rank 2 0 4 16 2 4 [0, 8] [] false

/-- A pushed group of the greatest number of registers; both streams; a channel that has been kicked and a consumer; a
throw to start; a complete collective of two members, one of them from another core; a peer word. -/
theorem witness_TrapAndWaitEventsRun_engines :
    (let imgs : List VImage := List.replicate 8 { data := 0, fmt := 2, width := 2, hwm := 512 }
     (stitch.tileOf 2).any (fun t => t.holds 0) = true ∧ 1 ≤ imgs.length ∧ imgs.length ≤ 8 ∧ (24 : BitVec 5).toNat % 8 = 0 ∧
       (stitch.ctxs.get 2).landingFree 24 8 = true ∧ imageRows imgs ≤ stitch.freeRowCount) ∧
    ([false, true].all fun b => ((streaming b).ctx.sq.get (Fin.ofNat 8 7)).any fun q => q.store == b &&
      (!b || q.deliveries.length == 2) && (streaming b).enginesOn 2) = true ∧
    (let s := bound { channel with kicked := true, owner := 2 }
     (s.wm.get (Fin.ofNat 16 15)).any (fun w => w.role == .channel && w.kicked && s.enginesOn (ctxIx w.owner) &&
       s.engineFree w.stripNow.1 [] [w.stripNow.2]) = true) ∧
    ((bound consumer).wm.get (Fin.ofNat 16 15)).any (fun w => w.role == .consumer &&
      (stitch.peek (ctxIx w.owner) (BitVec.ofNat 64 w.word) 8).isSome) = true ∧
    (let s := { stitch with throws := [(7, thrown)] }
     (s.ctxs.get (ctxIx 10)).guest = none ∧ s.nextThrow = some 0 ∧ s.throws[0]? = some (7, thrown)) ∧
    (stitch.collMembers.all fun m => !(m.team == 9 && m.seq == 0 && m.rank == 1)) = true ∧
    (let o := Coll.mk (member 0) 0x3000 0x3040 0 0 0 0 true false []
     let s := { stitch.upd (fun c => { c with colls := [o] }) with collMembers := [member 1] }
     s.ctx.colls[0]? = some o ∧
       ((s.knownMembers o.mem).all fun m => !collDiffers m o.mem && !m.aborted) = true ∧
       ((List.range 2).all fun r => (s.knownMembers o.mem).any fun m => m.rank == r) = true) ∧
    (let s := peering.upd fun c => { c with run := .waiting, wait := some (.signal 0x20000000 5) }
     (s.ctxs.get 2).run = .waiting ∧ (match s.xlate (s.partOf 2) (s.privOf 2) .load 0x20000000 with
       | .ok ph => ph.cls == .peer
       | .error _ => false) = true) := by decide +kernel

/-- A partition whose queue holds one command, of the op and with the fields of a record. -/
def command (v : Nat) (s : State) : State := s.updPart 0 fun p => { p with commands := [TrCmd.mk (leBytes 64 v)] }

/-- The head command of the queue. -/
def headCmd (s : State) (p : TrCmd → Bool) : Bool := ((s.part s.corePart).commands.head?).any fun c => cmdClean c && p c

/-- A grant of vault 3 and its end; a region of bank 0 in it and its end; a move of chunk 5 from LPDDR 6 and the pins of
the partition's last chunk. -/
theorem witness_MemoryEventsRun :
    (let granted := { stitch with grants := [Grant.mk 0 0 3 (some 0) false] }
     headCmd (command (1 + 8 * 2 ^ 64) stitch) (fun c => cmdField c 0 1 == 1 && (stitch.grantVaults c).any fun r => r.2 == 0) = true ∧
     headCmd (command (2 + 8 * 2 ^ 64) granted) (fun c => cmdField c 0 1 == 2 && granted.cmdStack c &&
       (maskVaults (cmdField c 8 4)).all (granted.granted? granted.corePart 0) && granted.drained 0 (maskVaults (cmdField c 8 4)) &&
       !(maskVaults (cmdField c 8 4)).isEmpty) = true ∧
     granted.regroupHeld = false ∧ stitch.regroupHeld = false ∧ granted.regrouping 0 (2 ^ 63) = false ∧
     headCmd (command (3 + 8 * 2 ^ 64 + 1 * 2 ^ 128 + 31 * 2 ^ 192 + 1 * 2 ^ 200) granted) (fun c => cmdField c 0 1 == 3 &&
       (granted.makeRegion c).any fun r => r.2 == 0) = true ∧
     ((granted.grants.filter fun g => g.stack == 0 && g.ends.any (· ≤ granted.now)).any fun g => g.vault == 3) = true ∧
     granted.drained 0 [3] = true) ∧
    headCmd (command (4 + 1 * 2 ^ 208) planes) (fun c => cmdField c 0 1 == 4 &&
      (planes.region? planes.corePart (cmdField c 26 2)).isSome && planes.regionIdle 1) = true ∧
    (let s := { stitch with chunks := [Chunk.mk 0 5 true false 0 0 false false []] }
     headCmd (command (5 + 5 * 2 ^ 256) s) (fun c => cmdField c 0 1 == 5 && s.cmdChunk c && cmdField c 32 8 % 2 ^ 63 == 5 &&
       bitsAt (cmdField c 32 8) 63 1 == 0 && s.stackRoom 0) = true ∧
     (s.chunk 0 5).tier = true ∧ (s.chunk 0 5).moving = false ∧ (s.chunk 0 5).pinned = false) ∧
    ([6, 7].all fun op => headCmd (command (op + 255 * 2 ^ 256) stitch) fun c => cmdField c 0 1 == op && stitch.cmdChunk c) = true := by
  decide +kernel

/-- Copies of 256 recorded blocks and of one more, the last of which has been made three times; a chunk whose blocks a grant
moves; an epoch of 1 ms that has passed; a hot chunk; names of the host up to
the last byte of the partition; a line held modified; a peer word and a host word; a peer request of 64 bytes. -/
theorem witness_MemoryEventsRun_outside :
    (let s (copies blocks : Nat) : State :=
       { stitch with chunks := [Chunk.mk 0 5 true false 0 copies true false (List.range blocks)] }
     ([(2, 256), (2, 257), (3, 257)].all fun x => ((s x.1 x.2).chunk 0 5).moving && ((s x.1 x.2).chunk 0 5).copies == x.1 &&
       ((s x.1 x.2).chunk 0 5).blocks.length == x.2) = true) ∧
    (let g := Regroup.mk 0 0 (some ([3], none)) 4 true
     let s := { stitch with regroups := [g] }
     (s.chunk 0 4).moving = false ∧ (s.regroups.find? fun g => g.stack == 0 && s.nextRegroup g == some 4) = some g) ∧
    (let s := { stitch.updPart 0 fun p => { p with migctl := 2 ^ 32 } with now := 1050000 }
     let p := s.part s.corePart
     slice p.migctl 32 10 ≠ 0 ∧ p.halvedAt + slice p.migctl 32 10 * 1050000 ≤ s.now) ∧
    (let s := { stitch.updPart 0 fun p => { p with migctl := 1 + 9 * 2 ^ 16 } with
        chunks := [Chunk.mk 0 5 true false 9 0 false false []] }
     let m := (s.part ((s.ownerOf 0).getD 0)).migctl
     slice m 0 2 = 1 ∧ (s.chunk 0 5).tier = true ∧ slice m 16 16 ≤ (s.chunk 0 5).counter ∧ s.stackRoom 0 = true) ∧
    (stitch.hostReach (some 0) 0x1FFFFFC0 64 = true ∧ stitch.hostReach none 0 64 = true ∧
      stitch.hostReach (some 0) 0x1FFFFFFF 2 = false ∧ stitch.hostByte (some 0) 0x20000000 = none) ∧
    ({ stitch with hostLines := [(3, .modified)] } : State).line? 3 = some .modified ∧
    (peering.movable 2 = true ∧ ([(0x40000000, MemClass.host), (0x20000000, .peer)].all fun a =>
      match peering.xlate (peering.partOf 2) (peering.privOf 2) .load a.1 with
      | .ok ph => ph.cls == a.2
      | .error _ => false) = true) ∧
    (let p := PendStore.mk 2 0 0x20000000 (2 ^ 53 + 0x10) none 8 0 none
     ({ stitch with pending := [p] } : State).pending = [] ++ p :: [] ∧ p.peer = true ∧ p.addr = (0x20000000 : Word).toNat ∧
       p.ctx = (ctxIx 2).val) ∧
    peering.mgmt.accepted.getLsbD 1 = true ∧ stitch.mgmt.accepted.getLsbD 1 = false ∧ stitch.ownsGeneral 0 0 0x20000000 = false ∧
    (stitch.ownsGeneral 0 0 0x1FFFFFC0 = true ∧ (stitch.part 0).on = true ∧ 0x1FFFFFC0 < 2 ^ 40 ∧ 0x1FFFFFC0 % 64 = 0) := by
  decide +kernel

/-- A slot of a mailbox in state 1 for M with an operation and a payload. -/
def posted (slot op payload : Nat) (s : State) : State :=
  s.writeN (slotKey slot 0) (1 + 1 * 2 ^ 8 + op * 2 ^ 16 + payload * 2 ^ 64) 64

/-- The module after ACCEPT. -/
def accepted : State := { stitch with mgmt := { stitch.mgmt with acceptDone := true } }

/-- A sample in which sensor k reads v and every other one 0. -/
def sampled (k : Nat) (v : Word) : List Word := List.replicate k 0 ++ v :: List.replicate (575 - k) 0

/-- No peer store under way, and one; a die at 110 degrees; a warning 50 ms ago; a clamp whose warning cleared 1 ms ago; rails off; a
lease that ends now. -/
theorem witness_ModuleEventsRun :
    stitch.active = true ∧ stitch.answers = true ∧ stitch.mgmt.entering = none ∧ placeCore 0 = stitch.coreId ∧
    placeCore 32 ≠ stitch.coreId ∧ (0x31 = 0x31 ∨ 0x31 = 0x34) ∧
    (stitch.pending.all fun p => !p.peer || p.addr != 0x2000) = true ∧ tripPoint (sampled 127 110000) = true ∧
    (sampled 127 110000).length = 576 ∧ (sampled 575 (-1)).length = 576 ∧ (accepted.mgmt.passes true = true) ∧
    (let p := PendStore.mk 2 0 0x20000000 (2 ^ 53 + 0x10) none 8 0 none
     ({ stitch with pending := [p] } : State).pending = [] ++ p :: [] ∧ p.peer = true ∧ p.addr = (0x20000000 : Word).toNat) ∧
    (let m (f : Mgmt → Mgmt) : State := { stitch with mgmt := f stitch.mgmt, now := 52500000 }
     (m fun x => { x with warning := some 0 }).mgmt.warning = some 0 ∧ 0 + 50 * 1050000 ≤ (m id).now ∧
     (m fun x => { x with warning := some 0 }).active = true ∧
     (m fun x => { x with training := true }).mgmt.training = true ∧
     (m fun x => { x with clearing := some 51450000 }).mgmt.clearing = some 51450000 ∧ 51450000 + 1050000 ≤ (m id).now ∧
     (m fun x => { x with railsOff := true }).mgmt.railsOff = true ∧
     (m fun x => { x with leaseEnd := some 52500000 }).mgmt.leaseEnd = some 52500000) := by decide +kernel

/-- Slots 63 of the mailboxes of the module and of a function, to S and to neither; an answered one. -/
theorem witness_ModuleEventsRun_mail :
    (let s := stitch.writeN (slotKey 63 0) (1 + 2 * 2 ^ 8) 2
     s.slotState 63 = 1 ∧ s.mFirst 63 = true ∧ s.slotTarget 63 ≠ 1) ∧
    ((posted 63 0xFF 0 stitch).slotState 63 = 1 ∧ (posted 63 0xFF 0 stitch).mFirst 63 = true ∧
      mailOps.contains ((posted 63 0xFF 0 stitch).slotOp 63) = false) ∧
    (let s := stitch.writeN (slotKey (64 * (0 + 1) + 63) 0) 1 2
     (s.part (partIx 0)).on = true ∧ s.slotState (64 * (0 + 1) + 63) = 1 ∧ s.slotTarget (64 * (0 + 1) + 63) = 0) ∧
    (let s := { stitch.updPart 0 fun p => { p with mail := [63] } with mem := cellPut 0 stitch.mem (mailKey 0 (64 * 63)) 2 }
     63 ∈ (s.part s.corePart).mail ∧ s.byte (mailKey s.corePart.val (64 * 63)) = 2) ∧
    ([1, 0x31].all fun op => (posted 63 op 0 stitch).mTurn 63 op && (posted 63 op 0 stitch).payloadOk 63 []) = true := by
  decide +kernel

/-- ACCEPT of no feature with the lowest floor. -/
theorem witness_ModuleEventsRun_accept :
    let s := posted 63 2 (700 * 2 ^ 256) stitch
    (s.mTurn 63 2 = true ∧ s.payloadOk 63 [(8, 32), (40, 2), (42, 1)] = true ∧ s.mgmt.acceptDone = false ∧
      s.mgmt.training = false) ∧
    s.slotField 63 8 32 = 0 ∧ (∀ offered, Nat.lor 0 offered = offered) ∧ s.slotField 63 40 2 = 700 := by
  refine ⟨by decide +kernel, by decide +kernel, fun n => Nat.zero_or n, by decide +kernel⟩

/-- A partition 15 of stack 15 and one chunk, and its end; the state commands that R383 allows; a cap of 700 W for the
longest lease. -/
theorem witness_ModuleEventsRun_commands :
    accepted.mgmt.acceptDone = true ∧ accepted.mgmt.training = false ∧
    (let s := posted 0 3 (15 + 0x8000 * 2 ^ 16 + 1 * 2 ^ 32) accepted
     s.mTurn 0 3 = true ∧ s.payloadOk 0 [(8, 1), (10, 2), (12, 4), (16, 4), (20, 2)] = true ∧ s.slotField 0 8 1 = 15 ∧
     s.slotField 0 10 2 = 0x8000 ∧ s.slotField 0 12 4 = 1 ∧ (s.part (partIx 15)).on = false ∧ s.ownerOf 15 = none ∧
     s.sharesFit [15] 1 (s.slotField 0 16 4) (s.slotField 0 20 2) = true) ∧
    (let s := posted 0 4 3 (accepted.updPart 3 fun p => { p with on := true })
     s.mTurn 0 4 = true ∧ s.payloadOk 0 [(8, 1)] = true ∧ s.slotField 0 8 1 = 3 ∧ (s.part (partIx 3)).on = true ∧
     s.partIdle 3 = true) ∧
    ([(0, PowerState.op 0), (6, .op 6), (8, .hold), (9, .ret), (15, .off)].all fun t =>
      let s := posted 0 0x10 t.1 accepted
      s.mTurn 0 0x10 && powerOf (s.slotField 0 8 1) == some t.2 && s.mayGo t.2 && !s.limitRefuses t.2 && s.mayRetain) = true ∧
    (let s := posted 0 0x10 9 { streaming true with mgmt := accepted.mgmt }
     s.mTurn 0 0x10 = true ∧ powerOf (s.slotField 0 8 1) = some .ret ∧ s.mayRetain = false ∧ s.active = true ∧ s.answers = true) ∧
    (({ accepted.mgmt with entering := some 0 } : Mgmt).entering = some 0 ∧ accepted.mayRetain = true) ∧
    (let s := posted 0 0x11 (1 + 700 * 2 ^ 64 + 60000 * 2 ^ 96) accepted
     s.mTurn 0 0x11 = true ∧ s.payloadOk 0 [(8, 16)] = true ∧ s.slotField 0 16 4 = 700 ∧ s.slotField 0 20 4 = 60000 ∧
     s.mgmt.rackSeq = none ∧ s.slotField 0 8 8 = 1) := by decide +kernel

/-- A record of the event log; the last sensor; an image. -/
theorem witness_ModuleEventsRun_reads :
    (let s := posted 0 0x20 1 { stitch with mgmt := { stitch.mgmt with nextSeq := 2, log := [LogRecord.mk 1 []] } }
     s.mTurn 0 0x20 = true ∧ s.payloadOk 0 [(8, 8)] = true ∧ s.slotField 0 8 8 = 1 ∧ 1 < s.mgmt.nextSeq ∧
     s.mgmt.log.find? (fun r => r.seq == 1) = some (LogRecord.mk 1 [])) ∧
    (let s := posted 0 0x21 575 { stitch with mgmt := { stitch.mgmt with samples := sampled 575 (-1) } }
     s.mTurn 0 0x21 = true ∧ s.payloadOk 0 [(8, 2)] = true ∧ s.slotField 0 8 2 = 575 ∧
     s.mgmt.samples[575]? = some (-1 : Word)) ∧
    (let s := posted 0 0x30 (0x4000 + 1 * 2 ^ 64) stitch
     s.mTurn 0 0x30 = true ∧ s.payloadOk 0 [(8, 8), (16, 4)] = true ∧ s.slotField 0 16 4 = 1 ∧
     s.mgmt.fwWriting = none ∧ ({ s.mgmt with fwWriting := some 5 } : Mgmt).fwWriting = some 5) := by decide +kernel

/-! ### The spec's worked examples -/

/-- A vector register's bytes. -/
def withV (n : Nat) (data : Nat) (s : State) : State :=
  s.upd fun c => { c with v := c.v.set (Fin.ofNat 32 n).val { c.v.get (Fin.ofNat 32 n) with data := BitVec.ofNat 4096 data } (Fin.ofNat 32 n).isLt }

/-- An element of a register, of `w` bits. -/
def lane (s : State) (n w j : Nat) : Nat := bitsAt (s.ctx.v.get (Fin.ofNat 32 n)).data.toNat (w * j) w

/-- The example after R144: a = -2 and b = 3. -/
theorem test_multiply_divide :
    let s := withX 1 (-2) (withX 2 3 stitch)
    nextIs (exec (.mulh 3 1 2) s) (fun t => t.ctx.rx 3 == -1) = true ∧
    nextIs (exec (.mulhu 3 1 2) s) (fun t => t.ctx.rx 3 == 2) = true ∧
    nextIs (exec (.mulhsu 3 1 2) s) (fun t => t.ctx.rx 3 == -1) = true ∧
    nextIs (exec (.div 3 1 2) s) (fun t => t.ctx.rx 3 == 0) = true ∧
    nextIs (exec (.rem 3 1 2) s) (fun t => t.ctx.rx 3 == -2) = true ∧
    nextIs (exec (.divu 3 1 0) s) (fun t => t.ctx.rx 3 == -1) = true ∧
    nextIs (exec (.remu 3 1 0) s) (fun t => t.ctx.rx 3 == -2) = true := by decide +kernel

/-- The example of R140's LIH and ADDI pair. -/
theorem test_load_immediate_pair :
    nextIs (exec (.lih 5 0x124) stitch) (fun t => t.ctx.rx 5 == 0x124000 &&
      nextIs (exec (.addi 5 5 0x880) t) fun u => u.ctx.rx 5 == 0x123880) = true := by decide +kernel

/-- The strips of the example on alc (R26): VSETL at SEW 32 and LMUL 8 on 2,500. -/
theorem test_vsetl_strips :
    ([(2500, 1024), (1476, 1024), (452, 452), (0, 0)].all fun p =>
      nextIs (exec (.vsetl 1 2 0b0010_0_01_11_10) (withX 2 (BitVec.ofNat 64 p.1) stitch)) fun t =>
        t.ctx.rx 1 == BitVec.ofNat 64 p.2 && t.ctx.vl.toNat == p.2) = true := by decide +kernel

/-- The example of V[n].elem (R8): element 300 at SEW 32 and LMUL 4 from v8 is element 44 of v10. -/
theorem test_elem :
    let s := withV 10 (7 * 2 ^ (32 * 44)) (vec 0b0010_0_01_10_10 301 2 2)
    nextIs (exec (.vredor 1 8 31 1) (s.upd fun c => { c with k := c.k.set 1 (1 <<< 300) })) (fun t => lane t 1 32 0 == 7) = true ∧
    (vec 0b0010_0_01_10_10 301 2 2).vlmax = 512 := by decide +kernel

/-- The example of R44 to R47: vl 100 at SEW 32 and LMUL 2, dead and keep. -/
theorem test_high_water_marks :
    let marks (t : State) : Nat × Nat := ((t.ctx.v.get 4).hwm, (t.ctx.v.get 5).hwm)
    nextIs (exec (.vaddVv 4 0 2 0) (vec 0b0010_0_10_01_10 100 2 2)) (fun t => marks t == (448, 0) &&
      lane t 4 32 100 == 0 && (t.ctx.v.get 4).dirty && (t.ctx.v.get 5).fmt == 2 && (t.ctx.v.get 5).width == 2) = true ∧
    nextIs (exec (.vaddVv 4 0 2 0) (vec 0b0010_0_00_01_10 100 2 2)) (fun t => marks t == (512, 512)) = true := by
  decide +kernel

/-- The example of VRETAG (R165): the register as unsigned 32-bit elements; VADD at SEW 32 raises 0x06 with info 4. -/
theorem test_vretag :
    let s := (withV 4 0x04030201 (vec 0b0010_0_00_00_10 4 2 0)).upd fun c => { c with v := c.v.set 4 { c.v.get 4 with hwm := 16 } }
    nextIs (exec (.vretag 4 4 1 2) s) (fun t => lane t 4 32 0 == 0x04030201 && (t.ctx.v.get 4).hwm == 16 &&
      (t.ctx.v.get 4).fmt == 1 && (t.ctx.v.get 4).width == 2) = true ∧
    nextIs (exec (.vaddVv 8 4 4 0) s) (fun t => t.ctx.run == .faulted && t.ctx.faultCause == 6 && t.ctx.faultInfo == 4) = true := by
  decide +kernel

/-- The legality table of VWMACC under e16, m4 (R167). -/
theorem test_widening_groups :
    let s := wideAcc 0b0010_0_01_10_01 2 1 2 2
    let legal (d a b : BitVec 5) : Bool := nextIs (exec (.vwmacc d a b 0)
      (s.upd fun c => { c with v := (List.range 8).foldl (fun v i => v.set (8 + Fin.ofNat 24 i).val
        { c.v.get (Fin.ofNat 32 (8 + i)) with width := 2 } (by simp [Fin.ofNat]; omega)) c.v })) fun t => t.ctx.run == .running
    let illegal (s : State) (d a b : BitVec 5) : Bool := nextIs (exec (.vwmacc d a b 0) s) fun t =>
      t.ctx.run == .faulted && t.ctx.faultCause == 1
    legal 8 0 4 = true ∧ illegal s 4 0 8 = true ∧ illegal s 8 0 12 = true ∧
    illegal (s.upd fun c => { c with vtype := 0b0010_0_01_11_01 }) 8 0 16 = true := by decide +kernel

/-- The example of VBSCL at SEW 8 on E4M3: scales 130 and 0xFF (R172). -/
theorem test_vbscl :
    let s := ((withV 3 0xFF82 (withV 1 0x7E3C (vec 0b0101_0_01_00_00 64 5 0))).upd fun c => { c with
      v := c.v.set 3 { c.v.get 3 with fmt := 1 } })
    nextIs (exec (.vbsclVv 2 1 3 0) s) (fun t => lane t 2 8 0 == 0x54 && lane t 2 8 1 == 0x7E && lane t 2 8 32 == 0x7F &&
      t.ctx.fflags == 0b10101) = true := by decide +kernel

/-- The examples of VSMUL at SEW 16, and of VADD of 448 and 32 at E4M3 (R71). -/
theorem test_saturation :
    nextIs (exec (.vsmulVv 3 1 2 0) (withV 2 0x80006000 (withV 1 0x80004000 (vec 0b0010_0_01_00_01 2 2 1)))) (fun t =>
      lane t 3 16 0 == 0x3000 && lane t 3 16 1 == 0x7FFF && t.ctx.fflags == 0) = true ∧
    nextIs (exec (.vaddVv 3 1 2 0) (withV 2 0x60 (withV 1 0x7E (vec 0b0101_0_01_00_00 1 5 0)))) (fun t =>
      lane t 3 8 0 == 0x7E && t.ctx.fflags == 0b00101) = true := by decide +kernel

/-- The example of VGATHER (R180) under keep and zero. -/
theorem test_vgather :
    let s (t : BitVec 11) : State := ((withV 2 (2 + 5 * 2 ^ 32 + 127 * 2 ^ 64 + 200 * 2 ^ 96)
      (withV 1 ((List.range 128).foldr (fun j n => n * 2 ^ 32 + (100 + j)) 0) (vec t 4 2 2))).upd fun c => { c with
        v := c.v.set 2 { c.v.get 2 with fmt := 1 } })
    nextIs (exec (.vgather 3 1 2 0) (s 0b0010_0_00_00_10)) (fun t =>
      (List.range 4).map (lane t 3 32) == [102, 105, 227, 0]) = true ∧
    nextIs (exec (.vgather 3 1 2 0) (s 0b0010_0_01_00_10)) (fun t => (List.range 4).map (lane t 3 32) == [102, 0, 0, 0]) = true := by
  decide +kernel

/-- The example of RSR (R68): three binary32 values to bfloat16 from srseed 1. -/
theorem test_stochastic_rounding :
    let s := (withV 8 (0x3F804000 + 0x3F80FF00 * 2 ^ 32 + 0x40000000 * 2 ^ 64) (vec 0b0100_0_01_00_01 3 3 2)).upd fun c =>
      { c with srseed := 1 }
    nextIs (exec (.vncvt 1 5 8 0) s) (fun t => (List.range 3).map (lane t 1 16) == [0x3F80, 0x3F81, 0x4000] &&
      t.ctx.fflags == 0b00001 && t.ctx.srseed == 0x9DCCA8C5) = true := by decide +kernel

/-- The examples of block alignment (R73): an E4M3 block and a bfloat16 block. -/
theorem test_block_alignment :
    fp8e4m3.align 8 [0x7E, 0x44, 0xD5, 0x67] = some ([112, 0, -3, 15], 2) ∧
    bfloat16.align 16 [0x3F80, 0x3C40, 0x3B01, 0x35C0] = some ([16384, 192, 32, 0], -14) := by decide +kernel

/-- The example of R75: 2^24 and 1.0 added by blocks is 2^24. -/
theorem test_block_sums : (addBlock 0x4B800000 (some ([1], 0)) (some ([1], 0))).1 = 0x4B800000 := by decide +kernel

/-- The example of an MMAC on an INT8 region (R237). -/
theorem test_mmac :
    let s := withV 1 0x0500FC (withV 0 0x030201 (vec 0b0010_0_01_01_00 3 2 0))
    let r := Region.mk 0x4000 0 0 1 1 0 [(0, 10), (1, 127), (64, 0xEC), (65, 127), (128, 100), (129, 127)]
    let t := (s.setRegion 0 r).setAcc 0 (some { owner := 0, fp32 := false, cells := [] })
    nextIs (exec (.mmac 0 0 0) t) (fun u => (u.accAt 0).any fun a =>
      [0, 1, 2048, 2049].map a.cell == [270, 762, 460, 127]) = true := by decide +kernel

/-- The example of a 2 MiB run (R347 to R350): entry 100 of the level-2 node gives the name 0x344_1234 of stack 6. -/
theorem test_page_run :
    (match (stitch.updPart 0 fun p => { p with ownStacks := [6] }).leafKey 0 0x000600000340006B 0x00000C00A0641234 with
      | .ok k => k == generalKey 6 0x3441234
      | .error _ => false) = true := by decide +kernel

/-- The example of a tensor in the plane window (R97): bit 3 of element 20,000 over six banks. -/
theorem test_tensor_bit :
    let s := { stitch with regions := [PlaneRegion.mk 1 0 0 [0] [0, 1, 2, 3, 4, 5] 0 2] }
    (match s.leafKey 0 (2 ^ 36 + 81 * 65536 + 0x4E3) 5348804 with
      | .ok k => k == planeKey (rowKey (subId 0 0 5 0) 103) 452
      | .error _ => false) = true := by decide +kernel

/-- The examples of the scaled exponential sum (R231). -/
theorem test_exponential_sum :
    expSum 0x40400000 0x3FC00000 0x3F800000 0x40000000 = (0x40400000, 0x40000000) ∧
    expSum 0x40400000 0x40000000 0xFF800000 0 = (0x40400000, 0x40000000) := by decide +kernel

/-- The ident of the example of the watchdog (R57): stitch 3 of stack 2, vault 5, core 1. -/
theorem test_ident : ({ stitch with stack := 2, vault := 5, core := 1 } : State).ident 5 = 0x22AB := by decide +kernel

/-- The example of a boot (R394): at c = 4 image B of v 3 fails and A of v 4 boots. -/
theorem test_boot_counter :
    let m := { stitch.mgmt with fuse := 4, imageA := FwImage.mk true 4, imageB := FwImage.mk true 3, activeA := false }
    m.passes false = false ∧ m.passes true = true ∧ m.afterReset.booted = FwImage.mk true 4 := by decide +kernel

/-- The drain of the MMAC example (R240), by 2^-2 under RNE. -/
theorem test_mdrain :
    let s := withX 14 0x3000 (withX 11 0x00FE000000000040 (vec 0b0010_0_01_01_00 2 2 0))
    let t := s.setAcc 0 (some { owner := 0, fp32 := false, cells := [(0, 270), (1, 762), (2048, 460), (2049, 127)] })
    nextIs (exec (.mdrain 0 14 11 0) t) (fun u => u.readN (generalKey 0 0x3000) 2 == 0x7F44 &&
      u.readN (generalKey 0 0x3040) 2 == 0x2073) = true := by decide +kernel

/-- The example of an all-reduce by fsum (R285): 2^24, 1.0 and 1.0 by rank. -/
theorem test_collective_tree :
    collTree 1 4 [0x4B800000, 0x3F800000, 0x3F800000] = 0x4B800000 := by decide +kernel

/-- `addi x5, x0, -1` (R133) as the first instruction after reset: a fetch of four bytes, then the pc after them. -/
theorem test_first_step :
    nextIs (step (State.reset.withFetchWord 32 0b00101_00000_111111111111_000_00010_01)) (fun t =>
      (t.ctxs.get 2).rx 5 == -1 && (t.ctxs.get 2).pc == 0x1004 && (t.ctxs.get 2).instret == 1) = true := by decide +kernel

end Sys2Proof.Tests
end

section
/-!
PROOFS. What a store changes and who sees it: the stores that others do not see yet (splitStores, settleStores, claim), the
value that a load returns after a store, a release and an acquire (R96, R99 to R105, R147, R149, R371).
-/
namespace Sys2Proof.Machine

/-! ### What performing a store leaves as it is -/

/-- What no store changes, whoever sees it: the state without its bytes and without what an access notes. -/
def State.still (s : State) : State := { s.rest with mem := [], rows := [] }

theorem State.still_of_rest {s t : State} (h : s.rest = t.rest) : s.still = t.still :=
  congrArg (fun u : State => { u with mem := [], rows := [] }) h

/-- States that are still the same agree on what `still` leaves. -/
theorem State.eq_of_still {s t : State} (h : s.still = t.still) (f : State → α) (hf : ∀ u : State, f u.still = f u) :
    f s = f t := by
  rw [← hf s, h, hf t]

theorem State.pending_of_still {s t : State} (h : s.still = t.still) : s.pending = t.pending :=
  State.eq_of_still h State.pending fun _ => rfl

theorem State.cur_of_still {s t : State} (h : s.still = t.still) : s.cur = t.cur :=
  State.eq_of_still h State.cur fun _ => rfl

theorem State.ctx_of_still {s t : State} (h : s.still = t.still) : s.ctx = t.ctx :=
  State.eq_of_still h State.ctx fun _ => rfl

theorem State.writeN_still (s : State) (k v n : Nat) : (s.writeN k v n).still = s.still := by
  obtain ⟨m, r, h⟩ := State.writeN_keeps n s k v
  rw [h]; rfl

theorem State.put_still (s : State) (ph : Phys) (n v : Nat) : (s.put ph n v).still = s.still :=
  (State.still_of_rest (s.put_rest ph n v)).trans (s.writeN_still ph.key v n)

theorem State.dropPresent_rest (s : State) (k n : Nat) : (s.dropPresent k n).rest = s.rest := by
  have lose : ∀ (l : List Nat) (u : State), (l.foldl State.loseCopy u).rest = u.rest := fun l => by
    induction l with
    | nil => intro u; rfl
    | cons g l ih => intro u; exact ih (u.loseCopy g)
  exact lose _ s

/-- A combination is a write, but for presence and tags. -/
theorem State.reduceAt_rest (s : State) (ph : Phys) (n v : Nat) (tag : RedTag) :
    ∃ w, (s.reduceAt ph n v tag).rest = (s.put { ph with granule := none } n w).rest :=
  ⟨_, State.dropPresent_rest _ _ _⟩

/-- A whole host line is a write of 64 bytes, but for the state of the line and the messages. -/
theorem State.putLine_rest (s : State) (line v : Nat) :
    (s.putLine line v).rest = (s.writeN (2 ^ 52 + 64 * line) v 64).rest := by
  unfold State.putLine
  rw [State.writeN_rest, State.writeN_rest]
  split <;> rfl

theorem State.perform_still (s : State) (e : PendStore) : (s.perform e).still = s.still := by
  unfold State.perform
  dsimp only
  split
  case h_1 tag _ =>
    obtain ⟨w, h⟩ := s.reduceAt_rest { cls := .general, key := e.key, granule := e.granule } e.size e.value tag
    exact (State.still_of_rest h).trans (s.put_still _ _ _)
  case h_2 =>
    split
    · exact (State.still_of_rest (s.putLine_rest _ _)).trans (s.writeN_still _ _ _)
    · exact s.put_still _ _ _

theorem State.performAll_still (l : List PendStore) : ∀ s : State, (l.foldl State.perform s).still = s.still := by
  induction l with
  | nil => intro s; rfl
  | cons e l ih => intro s; exact (ih _).trans (s.perform_still e)

/-! ### The bytes of a performed store -/

/-- An aligned host line begins at the key that names it. -/
theorem hostLine_start {k l : Nat} (h : hostLine k = some l) (ha : k % 64 = 0) : 2 ^ 52 + 64 * l = k := by
  unfold hostLine at h
  split at h
  case isTrue hr =>
    simp only [Bool.and_eq_true, decide_eq_true_eq] at hr
    simp only [Option.some.injEq] at h
    omega
  case isFalse => cases h

/-- A store that is no combination is performed as a write of its bytes, but for what an access notes. -/
theorem State.perform_rest (s : State) {e : PendStore} (h : e.red = none) :
    (s.perform e).rest = (s.writeN e.key e.value e.size).rest := by
  unfold State.perform
  rw [h]
  dsimp only
  split
  case h_1 line hl =>
    split at hl
    case isTrue ha => rw [State.putLine_rest, hostLine_start hl ha.2, ha.1]
    case isFalse => cases hl
  case h_2 => exact s.put_rest _ _ _

theorem State.perform_readN (s : State) {e : PendStore} (h : e.red = none) :
    (s.perform e).readN e.key e.size = e.value % 256 ^ e.size := by
  rw [← State.readN_writeN e.size s e.key e.value]
  exact State.readN_congr _ _ _ _ fun j _ _ => State.rest_byte (s.perform_rest h) j

/-- A store, performed, changes no byte outside its own. -/
theorem State.perform_other (s : State) (e : PendStore) {k : Nat} (h : k < e.key ∨ e.key + e.size ≤ k) :
    (s.perform e).byte k = s.byte k := by
  cases hr : e.red with
  | none => rw [State.rest_byte (s.perform_rest hr)]; exact State.writeN_other _ _ _ _ _ h
  | some tag =>
    have hp : s.perform e = s.reduceAt { cls := .general, key := e.key, granule := e.granule } e.size e.value tag := by
      unfold State.perform; rw [hr]
    obtain ⟨w, hw⟩ := s.reduceAt_rest { cls := .general, key := e.key, granule := e.granule } e.size e.value tag
    rw [hp, State.rest_byte hw]
    exact s.put_other _ _ _ h

theorem State.performAll_other {k : Nat} (l : List PendStore) :
    ∀ s : State, (∀ e ∈ l, k < e.key ∨ e.key + e.size ≤ k) → (l.foldl State.perform s).byte k = s.byte k := by
  induction l with
  | nil => intro s _; rfl
  | cons e l ih =>
    intro s h
    obtain ⟨he, hl⟩ := List.forall_mem_cons.mp h
    exact (ih _ hl).trans (s.perform_other e he)

/-! ### Which stores are performed -/

/-- A store named by the test is performed, and one that must precede a performed one. -/
theorem splitStores_cons (hit : PendStore → Bool) (e : PendStore) (l : List PendStore) :
    splitStores hit (e :: l) =
      if hit e || (splitStores hit l).1.any
          (fun g => g.ctx == e.ctx && g.seq == e.seq && (e.inPattern || rangesMeet e.key e.size g.key g.size))
      then (e :: (splitStores hit l).1, (splitStores hit l).2)
      else ((splitStores hit l).1, e :: (splitStores hit l).2) := rfl

/-- What stays was there and is not named. -/
theorem splitStores_stays {hit : PendStore → Bool} {l : List PendStore} {e : PendStore}
    (h : e ∈ (splitStores hit l).2) : e ∈ l ∧ hit e = false := by
  induction l with
  | nil => cases h
  | cons a l ih =>
    rw [splitStores_cons] at h
    split at h
    · obtain ⟨hm, hn⟩ := ih h
      exact ⟨List.mem_cons_of_mem _ hm, hn⟩
    case isFalse hc =>
      obtain rfl | h := List.mem_cons.mp h
      · exact ⟨List.mem_cons_self, (Bool.or_eq_false_iff.mp (Bool.eq_false_iff.mpr hc)).1⟩
      · obtain ⟨hm, hn⟩ := ih h
        exact ⟨List.mem_cons_of_mem _ hm, hn⟩

/-- What is performed was there, and a store of its sequencer is named. -/
theorem splitStores_performed {hit : PendStore → Bool} {l : List PendStore} {e : PendStore}
    (h : e ∈ (splitStores hit l).1) : e ∈ l ∧ ∃ g, hit g = true ∧ g.ctx = e.ctx ∧ g.seq = e.seq := by
  induction l generalizing e with
  | nil => cases h
  | cons a l ih =>
    rw [splitStores_cons] at h
    split at h
    case isTrue hc =>
      obtain rfl | h := List.mem_cons.mp h
      · refine ⟨List.mem_cons_self, ?_⟩
        obtain hh | hh := Bool.or_eq_true_iff.mp hc
        · exact ⟨e, hh, rfl, rfl⟩
        · obtain ⟨g, hg, hs⟩ := List.any_eq_true.mp hh
          simp only [Bool.and_eq_true, beq_iff_eq] at hs
          obtain ⟨_, g', hit', hctx, hseq⟩ := ih hg
          exact ⟨g', hit', hctx.trans hs.1.1, hseq.trans hs.1.2⟩
      · obtain ⟨hm, hg⟩ := ih h
        exact ⟨List.mem_cons_of_mem _ hm, hg⟩
    case isFalse =>
      obtain ⟨hm, hg⟩ := ih h
      exact ⟨List.mem_cons_of_mem _ hm, hg⟩

/-- No store is named: none is performed. -/
theorem splitStores_none {hit : PendStore → Bool} {l : List PendStore} (h : ∀ e ∈ l, hit e = false) :
    splitStores hit l = ([], l) := by
  induction l with
  | nil => rfl
  | cons a l ih =>
    obtain ⟨ha, hl⟩ := List.forall_mem_cons.mp h
    rw [splitStores_cons, ih hl]
    simp only [ha, List.any_nil, Bool.or_self, Bool.false_eq_true, if_false]

/-- The last store, if it is named, is performed last. -/
theorem splitStores_last {hit : PendStore → Bool} {e : PendStore} (h : hit e = true) (l : List PendStore) :
    ∃ p, (splitStores hit (l ++ [e])).1 = p ++ [e] := by
  induction l with
  | nil => exact ⟨[], by rw [List.nil_append, splitStores_cons, h]; rfl⟩
  | cons a l ih =>
    obtain ⟨p, hp⟩ := ih
    rw [List.cons_append, splitStores_cons]
    split
    · exact ⟨a :: p, by rw [hp]; rfl⟩
    · exact ⟨p, hp⟩

/-! ### Performing the stores that a test names -/

theorem State.settleStores_still (s : State) (hit : PendStore → Bool) :
    (s.settleStores hit).still = { s with pending := (splitStores hit s.pending).2 }.still :=
  State.performAll_still _ _

@[simp] theorem State.settleStores_pending (s : State) (hit : PendStore → Bool) :
    (s.settleStores hit).pending = (splitStores hit s.pending).2 :=
  State.pending_of_still (s.settleStores_still hit)

@[simp] theorem State.settleStores_cur (s : State) (hit : PendStore → Bool) : (s.settleStores hit).cur = s.cur :=
  (State.cur_of_still (s.settleStores_still hit)).trans rfl

@[simp] theorem State.settleStores_ctx (s : State) (hit : PendStore → Bool) : (s.settleStores hit).ctx = s.ctx :=
  (State.ctx_of_still (s.settleStores_still hit)).trans rfl

/-- Bytes outside the stores of the sequencers named are as before. -/
theorem State.settleStores_other (s : State) (hit : PendStore → Bool) {k : Nat}
    (h : ∀ e ∈ s.pending, (∃ g, hit g = true ∧ g.ctx = e.ctx ∧ g.seq = e.seq) → k < e.key ∨ e.key + e.size ≤ k) :
    (s.settleStores hit).byte k = s.byte k :=
  State.performAll_other _ { s with pending := (splitStores hit s.pending).2 } fun e he =>
    have ⟨hm, hg⟩ := splitStores_performed he
    h e hm hg

/-- After the performing of a last store that is no combination its bytes hold its value. -/
theorem State.settleStores_readN_last {s : State} {hit : PendStore → Bool} {l : List PendStore} {e : PendStore}
    (hl : s.pending = l ++ [e]) (hh : hit e = true) (hr : e.red = none) :
    (s.settleStores hit).readN e.key e.size = e.value % 256 ^ e.size := by
  obtain ⟨p, hp⟩ := splitStores_last hh l
  unfold State.settleStores
  dsimp only
  rw [hl, hp, List.foldl_append]
  exact State.perform_readN _ hr

/-! ### What the moving context knows of the bytes that it accesses -/

/-- Forgetting what was read ahead changes no byte. -/
theorem State.dropEarly_readN (s : State) (k m j n : Nat) : (s.dropEarly k m).readN j n = s.readN j n :=
  State.readN_congr n _ _ _ fun _ _ _ => rfl

/-- The moving context has read nothing of these bytes ahead. -/
def State.Fresh (s : State) (k n : Nat) : Prop := ∀ e ∈ s.ctx.early, rangesMeet e.key e.size k n = false

theorem State.dropEarly_fresh (s : State) (k n : Nat) : (s.dropEarly k n).Fresh k n := by
  intro e he
  unfold State.dropEarly at he
  rw [State.upd_ctx] at he
  simpa only [Bool.not_eq_true'] using (List.mem_filter.mp he).2

theorem State.claim_fresh (s : State) (ph : Phys) (n : Nat) : (s.claim ph n).Fresh ph.key n :=
  State.dropEarly_fresh _ _ _

theorem State.claim_cur (s : State) (ph : Phys) (n : Nat) : (s.claim ph n).cur = s.cur :=
  State.settleStores_cur s _

theorem State.Fresh.of_ctx {s t : State} {k n : Nat} (h : s.Fresh k n) (hc : t.ctx = s.ctx) : t.Fresh k n := by
  unfold State.Fresh; rw [hc]; exact h

theorem rangesMeet_iff {a n b m : Nat} : rangesMeet a n b m = true ↔ a < b + m ∧ b < a + n := by
  unfold rangesMeet
  rw [Bool.and_eq_true, decide_eq_true_eq, decide_eq_true_eq]

/-- A range with a byte meets itself. -/
theorem rangesMeet_self {k n : Nat} (hn : n ≠ 0) : rangesMeet k n k n = true :=
  rangesMeet_iff.mpr (by omega)

/-- The bytes whose stores an access must not overtake meet its own. -/
theorem Phys.meets_reach (ph : Phys) {n : Nat} (hn : n ≠ 0) :
    rangesMeet ph.key n (ph.reach n).1 (ph.reach n).2 = true := by
  unfold Phys.reach
  split
  · exact rangesMeet_iff.mpr (by dsimp only; omega)
  · exact rangesMeet_self hn

theorem insideOf_none {key size value k n : Nat} (hn : n ≠ 0) (h : rangesMeet key size k n = false) :
    insideOf key size value k n = none := by
  unfold insideOf
  rw [if_neg]
  simp only [Bool.and_eq_true, decide_eq_true_eq]
  intro inside
  exact Bool.eq_false_iff.mp h (rangesMeet_iff.mpr (by omega))

theorem insideOf_self (k n v : Nat) : insideOf k n v k n = some (v % 256 ^ n) := by
  simp only [insideOf, Nat.le_refl, decide_true, Bool.and_self, if_true, Nat.sub_self, Nat.mul_zero, Nat.pow_zero,
    Nat.div_one, Nat.pow_mul, Nat.reducePow]

/-- Where nothing of these bytes was read ahead, the moving context knows its latest store to them alone. -/
theorem State.Fresh.known {s : State} {ph : Phys} {n : Nat} (h : s.Fresh ph.key n) (hn : n ≠ 0) :
    s.known ph n = (s.pending.filter fun e => e.by s.cur && rangesMeet e.key e.size ph.key n).getLast?.bind
      fun e => if e.peer || e.red.isSome then none else insideOf e.key e.size e.value ph.key n := by
  have none_early : (s.ctx.early.findSome? fun e => insideOf e.key e.size e.value ph.key n) = none :=
    List.findSome?_eq_none_iff.mpr fun e he => insideOf_none hn (h e he)
  unfold State.known
  rw [none_early]
  cases (s.pending.filter fun e => e.by s.cur && rangesMeet e.key e.size ph.key n).getLast? <;> rfl

/-- Where the context knows nothing of the bytes and none of its stores meets them, a load reads memory. -/
theorem State.Fresh.loadValue {s : State} {ph : Phys} {n : Nat} (h : s.Fresh ph.key n) (hn : n ≠ 0)
    (hc : ph.cls ≠ .peer) (hp : ∀ e ∈ s.pending, (e.by s.cur && rangesMeet e.key e.size ph.key n) = false) :
    s.loadValue ph n = s.readN ph.key n := by
  have no_store : (s.pending.filter fun e => e.by s.cur && rangesMeet e.key e.size ph.key n) = [] :=
    List.filter_eq_nil_iff.mpr fun e he => by rw [hp e he]; exact Bool.false_ne_true
  have unknown : s.known ph n = none := by rw [h.known hn, no_store]; rfl
  have reach : ph.reach n = (ph.key, n) := if_neg hc
  unfold State.loadValue
  rw [unknown]
  show (s.claim ph n).readN ph.key n = _
  unfold State.claim
  rw [reach, State.dropEarly_readN]
  unfold State.settleStores
  rw [splitStores_none hp]
  exact State.readN_congr n _ _ _ fun _ _ _ => rfl

/-- Where the last pending store is the context's own, of exactly these bytes, a load returns its value: it is read back
from the store, and from memory after a claim if it is a peer's. -/
theorem State.Fresh.loadValue_last {s : State} {ph : Phys} {n : Nat} (h : s.Fresh ph.key n) (hn : n ≠ 0)
    {l : List PendStore} {e : PendStore} (hl : s.pending = l ++ [e]) (hb : e.by s.cur = true) (hk : e.key = ph.key)
    (hs : e.size = n) (hr : e.red = none) : s.loadValue ph n = e.value % 256 ^ n := by
  have meets : (e.by s.cur && rangesMeet e.key e.size ph.key n) = true := by
    rw [hb, hk, hs, rangesMeet_self hn]; rfl
  have last : (s.pending.filter fun e => e.by s.cur && rangesMeet e.key e.size ph.key n).getLast? = some e := by
    rw [hl, List.filter_append, List.filter_cons, if_pos meets, List.filter_nil]
    exact List.getLast?_concat
  have known : s.known ph n = if e.peer then none else some (e.value % 256 ^ n) := by
    rw [h.known hn, last, Option.bind_some]
    simp only [hr, Option.isSome_none, Bool.or_false, hk, hs, insideOf_self]
  unfold State.loadValue
  rw [known]
  cases e.peer with
  | false => rfl
  | true =>
    show (s.claim ph n).readN ph.key n = _
    unfold State.claim
    rw [State.dropEarly_readN, ← hk, ← hs]
    refine State.settleStores_readN_last hl (Bool.and_eq_true_iff.mpr ⟨hb, ?_⟩) hr
    rw [hk, hs]
    exact ph.meets_reach hn

/-! ### What a store does -/

/-- The pending store that a store of `n` bytes by the moving context becomes. -/
def State.laterStore (s : State) (a : Word) (ph : Phys) (n v : Nat) : PendStore :=
  { ctx := s.cur.val, addr := a.toNat, key := ph.key, granule := ph.granule, size := n, value := v, seq := 0, red := none }

/-- What collectives note of a store decides nothing about its delay. -/
theorem State.noteStore_delayable (s : State) (k n : Nat) (ph : Phys) :
    (s.noteStore k n).delayable ph = s.delayable ph := by
  unfold State.noteStore
  split
  · rfl
  · unfold State.delayable State.ownsRow
    rw [State.upd_ctx]; rfl

theorem State.noteStore_cur (s : State) (k n : Nat) : (s.noteStore k n).cur = s.cur := by
  unfold State.noteStore; split <;> rfl

/-- A store that may stay unseen is appended to the pending ones, and nothing read ahead of its bytes is kept. -/
theorem State.store_delayed {s : State} {ph : Phys} (h : s.delayable ph = true) (a : Word) (n v : Nat) :
    ∃ u : State, s.store a ph n v = { u with pending := u.pending ++ [s.laterStore a ph n v] } ∧
      u.cur = s.cur ∧ u.Fresh ph.key n := by
  have hc := s.noteStore_cur ph.key n
  rw [← s.noteStore_delayable ph.key n] at h
  unfold State.store State.laterStore
  rw [← hc]
  generalize s.noteStore ph.key n = r at h
  dsimp only
  rw [if_pos h]
  split
  · exact ⟨r.claim ph n, by rw [r.claim_cur], r.claim_cur ph n, r.claim_fresh ph n⟩
  · exact ⟨r.dropEarly ph.key n, rfl, rfl, r.dropEarly_fresh ph.key n⟩

/-- Any other store is to memory of this module and is performed at once, after the context's earlier accesses to its
bytes. -/
theorem State.store_atOnce {s : State} {ph : Phys} (h : s.delayable ph = false) (a : Word) (n v : Nat) :
    ph.cls ≠ .peer ∧ ∃ u : State, s.store a ph n v = u.put ph n v ∧ u.Fresh ph.key n ∧
      ∀ e ∈ u.pending, (e.by u.cur && rangesMeet e.key e.size ph.key n) = false := by
  have hp : ph.cls ≠ .peer := by
    intro hp
    simp only [State.delayable, hp, BEq.rfl, Bool.true_or, Bool.true_eq_false] at h
  refine ⟨hp, (s.noteStore ph.key n).claim ph n, ?_, State.claim_fresh _ _ _, fun e he => ?_⟩
  · unfold State.store
    dsimp only
    rw [State.noteStore_delayable, if_neg (Bool.eq_false_iff.mp h)]
  · have reach : ph.reach n = (ph.key, n) := if_neg hp
    have stays : e ∈ (splitStores (fun e => e.by (s.noteStore ph.key n).cur &&
        rangesMeet e.key e.size (ph.reach n).1 (ph.reach n).2) (s.noteStore ph.key n).pending).2 := by
      rw [← State.settleStores_pending]; exact he
    rw [State.claim_cur]
    have unnamed := (splitStores_stays stays).2
    rw [reach] at unnamed
    exact unnamed

/-- A load of the bytes that the context has just stored returns the value stored (R99, R147, R371). -/
theorem State.store_loadValue (s : State) (a : Word) (ph : Phys) {n : Nat} (v : Nat) (hn : n ≠ 0) :
    (s.store a ph n v).loadValue ph n = v % 256 ^ n := by
  cases hd : s.delayable ph with
  | true =>
    obtain ⟨u, hu, hcur, hfresh⟩ := State.store_delayed hd a n v
    have hby : (s.laterStore a ph n v).by u.cur = true := by
      simp only [PendStore.by, State.laterStore, hcur, BEq.rfl, Bool.and_self]
    rw [hu]
    exact State.Fresh.loadValue_last (s := { u with pending := u.pending ++ [s.laterStore a ph n v] })
      (e := s.laterStore a ph n v) (hfresh.of_ctx rfl) hn rfl hby rfl rfl rfl
  | false =>
    obtain ⟨hc, u, hu, hfresh, hclear⟩ := State.store_atOnce hd a n v
    have still := u.put_still ph n v
    rw [hu, (hfresh.of_ctx (State.ctx_of_still still)).loadValue hn hc, State.put_readN]
    rw [State.pending_of_still still, State.cur_of_still still]
    exact hclear

/-! ### Releases and acquires -/

/-- A release wider than stitch leaves of the context's stores those to peer memory alone, below domain scope (R103 to
R106, R371). -/
theorem State.releases_pending {s : State} {sc : BitVec 3} (hsc : sc ≠ 0) {e : PendStore}
    (he : e ∈ (s.releases sc).pending) (hb : e.by s.cur = true) : sc.toNat < 5 ∧ e.peer = true := by
  unfold State.releases at he
  rw [if_neg hsc, State.settleStores_pending] at he
  have hn := (splitStores_stays he).2
  simpa only [hb, Bool.true_and, Bool.or_eq_false_iff, decide_eq_false_iff_not, Nat.not_le, Bool.not_eq_false'] using hn

/-- A release changes no byte outside the pending stores of the context. -/
theorem State.releases_other (s : State) (sc : BitVec 3) {k : Nat}
    (h : ∀ e ∈ s.pending, e.by s.cur = true → k < e.key ∨ e.key + e.size ≤ k) : (s.releases sc).byte k = s.byte k := by
  unfold State.releases
  split
  · rfl
  · refine s.settleStores_other _ fun e he ⟨g, hit, hctx, hseq⟩ => h e he ?_
    have hb : g.by s.cur = true := (Bool.and_eq_true_iff.mp hit).1
    unfold PendStore.by at hb ⊢
    rw [← hctx, ← hseq]; exact hb

/-- What an acquire wider than stitch keeps of the values read ahead (R103, R105, R371). -/
theorem State.acquires_early {s : State} {sc : BitVec 3} (hsc : sc ≠ 0) {e : EarlyRead}
    (he : e ∈ (s.acquires sc).ctx.early) :
    e ∈ s.ctx.early ∧ (sc.toNat < 5 ∧ 2 ^ 53 ≤ e.key ∧ e.key < 2 ^ 54 ∨
      ∃ f, e.far = some f ∧ sc.toNat < f.1 ∧ f.2 = s.readN e.key e.size) := by
  unfold State.acquires at he
  rw [if_neg hsc, State.upd_ctx] at he
  obtain ⟨hm, ho⟩ := List.mem_filter.mp he
  refine ⟨hm, ?_⟩
  unfold EarlyRead.outlives at ho
  obtain hpeer | hfar := Bool.or_eq_true_iff.mp ho
  · left; simpa only [Bool.and_eq_true, decide_eq_true_eq, and_assoc] using hpeer
  · right
    cases hf : e.far with
    | none => rw [hf] at hfar; cases hfar
    | some f =>
      simp only [hf, Option.any_some, Bool.and_eq_true, decide_eq_true_eq, beq_iff_eq] at hfar
      exact ⟨f, rfl, hfar⟩

theorem State.acquires_mem (s : State) (sc : BitVec 3) : (s.acquires sc).mem = s.mem := by
  unfold State.acquires; split <;> rfl

theorem State.acquires_rows (s : State) (sc : BitVec 3) : (s.acquires sc).rows = s.rows := by
  unfold State.acquires; split <;> rfl

/-! ### A write and a read -/

theorem mem_setAdd (n : Nat) (l : List Nat) : n ∈ setAdd n l := by
  induction l with
  | nil => exact List.mem_singleton_self n
  | cons m t ih =>
    unfold setAdd
    split
    · exact List.mem_cons_self
    · split
      case isTrue he => rw [he]; exact List.mem_cons_self
      case isFalse => exact List.mem_cons_of_mem _ ih

/-- The granule of a stash write becomes full (R88). -/
theorem State.put_full {s : State} {ph : Phys} {g : Nat} (h : ph.granule = some g) (n v : Nat) : g ∈ (s.put ph n v).full := by
  unfold State.put
  rw [h]
  exact mem_setAdd g _

theorem State.countAccess_redTags (s : State) (k : Nat) : (s.countAccess k).redTags = s.redTags := by
  unfold State.countAccess; split <;> rfl

theorem State.touch_redTags (s : State) (g : Nat) : (s.touch g).redTags = s.redTags := by
  unfold State.touch; split <;> rfl

/-- A read leaves every tag (R113). -/
theorem State.noteRead_redTags (s : State) (ph : Phys) : (s.noteRead ph).redTags = s.redTags := by
  rw [← State.countAccess_redTags s ph.key]
  unfold State.noteRead
  generalize s.countAccess ph.key = u
  have line : State.redTags (match hostLine ph.key with
      | some l => if (u.line? l).isSome then u else (u.setLine l (some .shared)).send (.cxl 0 l)
      | none => u) = u.redTags := by
    split
    · split <;> rfl
    · rfl
  dsimp only
  split
  · rw [State.touch_redTags]; exact line
  · exact line

/-- Settles O17: a write and a read keep everything but what they note (put_rest, noteRead_rest); after a store the context
reads its own pending entry, or the bytes it has performed; a release and an acquire filter the pending stores and the
values read ahead. -/
theorem memoryReachedIsTheAccess : Obligations.MemoryReachedIsTheAccess := by
  unfold Obligations.MemoryReachedIsTheAccess
  refine ⟨fun s ph n v _ => ?_, fun s ph => ?_, fun s a ph n v sc hn => ?_⟩
  · have kept : ∀ {α : Type} (f : State → α), (∀ u : State, f u.still = f u) → f (s.put ph n v) = f s :=
      State.eq_of_still (s.put_still ph n v)
    exact ⟨s.put_readN ph n v, fun k hk => s.put_other ph n v hk, kept State.ctxs fun _ => rfl,
      kept State.cur fun _ => rfl, kept State.parts fun _ => rfl, kept State.tiles fun _ => rfl,
      kept State.launches fun _ => rfl, kept State.sd fun _ => rfl, kept State.acc fun _ => rfl,
      kept State.wm fun _ => rfl, kept State.mgmt fun _ => rfl, kept State.checks fun _ => rfl,
      fun g hg => State.put_full hg n v⟩
  · have hr : (s.noteRead ph).rest = s.rest := s.noteRead_rest ph
    exact ⟨State.rest_mem hr, State.rest_rows hr, State.rest_ctxs hr, State.rest_cur hr, State.rest_parts hr,
      State.rest_tiles hr, State.rest_launches hr, State.rest_sd hr, State.rest_acc hr, State.rest_wm hr,
      State.rest_mgmt hr, s.noteRead_redTags ph⟩
  · refine ⟨s.store_loadValue a ph v hn, fun ho hp => ho.store hp a n v, fun hd => ?_,
      fun hsc e he hb => State.releases_pending hsc he hb, fun k hk => s.releases_other sc hk,
      fun hsc e he => State.acquires_early hsc he, s.acquires_mem sc, s.acquires_rows sc⟩
    obtain ⟨u, hu, -, -⟩ := State.store_delayed hd a n v
    exact ⟨u.pending, by rw [hu]; rfl⟩

end Sys2Proof.Machine
end
